-- ==== Sys2Proof/Word.lean ====
section
/-! DEFINITION. The word types of R9 and the sparse table type in which the state keeps everything numbered. -/

namespace Sys2Proof

/-- A device word, 20 bits (R9). -/
abbrev Word := BitVec 20

/-- A double, 40 bits (R9); also a device address and an address register. -/
abbrev Dbl := BitVec 40

/-- One byte of a frame or of a message. -/
abbrev Byte := BitVec 8

/-- A table from numbers to values, in one canonical form: keys strictly rising, and no entry equal to the
value that an unlisted key reads as (Machine/Sparse.lean says the form and keeps it). -/
abbrev SMap (α : Type) := List (Nat × α)

end Sys2Proof
end

