-- ==== Sys2Proof/Syntax.lean ====
section
/-! DEFINITION. The commands of the block: one constructor per row of spec/opcode_table.json, and their operands. -/

namespace Sys2Proof

/-- The masters of R23. A steward core acts at its executing level (R259). -/
inductive Master where
  | stream (k : Nat)
  | fetch (k : Nat)
  | core (k : Nat)
  | dma (n : Nat)
  | dispatcher
  | keeper
  | debug
  | host
  | hardware
  deriving DecidableEq, Repr

/-- A register addressing form of a two-word memory instruction (R246, R247). -/
structure Mem2 where
  a : BitVec 3
  mode : BitVec 2
  x : Word
  deriving DecidableEq, Repr

/-- The one-word form M1, with a five-bit field x, or the two-word form (R237, R246). -/
inductive MemEa where
  | one (a : BitVec 3) (mode : BitVec 2) (x : BitVec 5)
  | two (m : Mem2)
  deriving DecidableEq, Repr

/-- The rounding and saturation options of R244. -/
structure Opt where
  rdef : Bool
  rm : BitVec 2
  sat : BitVec 2
  deriving DecidableEq, Repr

/-- The lane form LF and element class EF of R256. -/
structure SvForm where
  lf : BitVec 2
  ef : BitVec 2
  deriving DecidableEq, Repr

/-- A lane form with HI, the half of Vd that a narrowing writes (R257). -/
structure SvHalf where
  f : SvForm
  hi : Bool
  deriving DecidableEq, Repr

/-- What an access presented to a board does (R28). -/
inductive BoardKind where
  | read
  | write (v : Word)
  | add (v : Word)
  deriving DecidableEq, Repr

/-- An access presented to a region's board by one of the seventeen slots of R34, at a window offset, for a master. -/
structure BoardReq where
  slot : Nat
  who : Master
  off : Nat
  kind : BoardKind
  deriving DecidableEq, Repr

/-- A burst that a master presents at a target port of a die fabric (R285): the number of its master port in the order of
R284, its direction, the mark with which a burst enters through the bridge (R287), its beats, and the line that it
fetches if it is a fetch refill (R291). -/
structure PieceReq where
  master : Nat
  wr : Bool
  c0 : Bool
  beats : Nat
  line : Option Nat := none
  deriving DecidableEq, Repr

/-- How the host completes a read request (R330): with data, with poisoned data, or with an error. -/
inductive HostCpl where
  | good
  | poisoned
  | failed
  deriving DecidableEq, Repr

/-- A received Ethernet frame, whole again where its peer preempted it: whether its FCS passes, and its bytes without FCS
(R314, R315). -/
structure EthFrame where
  fcsOk : Bool
  bytes : List Byte
  deriving DecidableEq, Repr

/-- A Bosum frame: its CRC-32, its header words H0 to H7 and its payload (R319, R320). -/
structure BosumFrame where
  crc : BitVec 32
  h0 : Word
  h1 : Word
  h2 : Word
  h3 : Word
  h4 : Word
  h5 : Word
  h6 : Word
  h7 : Word
  payload : List Word
  deriving DecidableEq, Repr

/-- One dword of a host write with its byte enables (R339). -/
structure HostDword where
  be : BitVec 4
  v : BitVec 32
  deriving DecidableEq, Repr

/-- What a host write leaves in the endpoint's configuration space (R338), its power state apart: Bus Master Enable, MSI-X
Enable and Function Mask, and the bits of the uncorrectable error status that it clears. -/
structure CfgWrite where
  bme : Bool
  msixEn : Bool
  fmask : Bool
  aer : BitVec 32
  deriving DecidableEq, Repr

/-- The BARs: two reach device addresses, the third the MSI-X table and its pending bits (R339). -/
inductive Bar where
  | bar0
  | bar2
  | bar4
  deriving DecidableEq, Repr

/-- The stores that have a scrubber of their own (R354). -/
inductive StoreId where
  | coef (k : Nat)
  | context
  deriving DecidableEq, Repr

/-- What the input monitors read at a pip edge (R394, R395): VIN and current in units of 10 mV and 10 mA, input and
device power in units of 0.1 W, the mean input power of the last 16 pips, and whether the stage clamps. -/
structure PowerReading where
  vin : Nat
  iin : Nat
  pin : Nat
  pdev : Nat
  pavg : Nat
  ilim : Bool
  deriving DecidableEq, Repr

/-- The targets of rolls (R364). -/
inductive RollTarget where
  | region (n : Nat)
  | cluster (k : Nat)
  deriving DecidableEq, Repr

/-- One slot of the boot flash: its header bytes, its body, and whether reading it timed out (R375). -/
structure FlashSlot where
  header : List Byte
  body : List Byte
  timeout : Bool
  deriving DecidableEq, Repr

/-- The monitor's two channels (R383). -/
inductive Channel where
  | uart
  | mailbox
  deriving DecidableEq, Repr

/-- The frame fields common to every monitor request (R383). -/
structure MonReq where
  ch : Channel
  seq : BitVec 16
  flags : Byte
  mac : BitVec 128
  deriving DecidableEq, Repr

/-- Where a stored bit changes of itself: bits of a 31-bit codeword, or one bit of an HBM block (R345, R306). -/
inductive ErrSite where
  | sram (a : Dbl) (mask : BitVec 31)
  | hbm (a : Dbl) (bit : BitVec 9)
  deriving DecidableEq, Repr

/-- The commands: each constructor is the row of spec/opcode_table.json whose mnemonic LAWS.json gives it. -/
inductive Instr where
  -- integer
  | add (k : Nat) (d s t : BitVec 5)
  | sub (k : Nat) (d s t : BitVec 5)
  | adc (k : Nat) (d s t : BitVec 5)
  | sbc (k : Nat) (d s t : BitVec 5)
  | and (k : Nat) (d s t : BitVec 5)
  | or (k : Nat) (d s t : BitVec 5)
  | xor (k : Nat) (d s t : BitVec 5)
  | mul (k : Nat) (d s t : BitVec 5)
  | mulw (k : Nat) (d s t : BitVec 5)
  | shl (k : Nat) (d s t : BitVec 5)
  | shr (k : Nat) (d s t : BitVec 5)
  | sha (k : Nat) (d s t : BitVec 5)
  | lw (k : Nat) (d : BitVec 5) (e : MemEa)
  | sw (k : Nat) (s : BitVec 5) (e : MemEa)
  | ld (k : Nat) (d : BitVec 5) (e : MemEa)
  | sd (k : Nat) (s : BitVec 5) (e : MemEa)
  | addi (k : Nat) (d s : BitVec 5) (imm : Word)
  | subi (k : Nat) (d s : BitVec 5) (imm : Word)
  | andi (k : Nat) (d s : BitVec 5) (imm : Word)
  | ori (k : Nat) (d s : BitVec 5) (imm : Word)
  | xori (k : Nat) (d s : BitVec 5) (imm : Word)
  | movi (k : Nat) (d : BitVec 5) (imm : Word)
  | adds (k : Nat) (d s t : BitVec 5) (sat : BitVec 2)
  | subs (k : Nat) (d s t : BitVec 5) (sat : BitVec 2)
  | neg (k : Nat) (d s : BitVec 5) (sat : BitVec 2)
  | abs (k : Nat) (d s : BitVec 5) (sat : BitVec 2)
  | shls (k : Nat) (d s t : BitVec 5) (sat : BitVec 2)
  | shli (k : Nat) (d s : BitVec 5) (c : BitVec 9)
  | shri (k : Nat) (d s : BitVec 5) (c : BitVec 9)
  | shai (k : Nat) (d s : BitVec 5) (c : BitVec 9)
  | shlsi (k : Nat) (d s : BitVec 5) (c : BitVec 9) (sat : BitVec 2)
  | shar (k : Nat) (d s : BitVec 5) (c : BitVec 9) (o : Opt)
  | mulu (k : Nat) (d s t : BitVec 5) (sat : BitVec 2)
  | mulq (k : Nat) (d s t : BitVec 5) (o : Opt)
  | mulwu (k : Nat) (d s t : BitVec 5)
  | mstart (k : Nat) (s t : BitVec 5)
  | mstartProductWrite (k : Nat)
  | div (k : Nat) (d s t : BitVec 5) (sat : BitVec 2)
  | divu (k : Nat) (d s t : BitVec 5)
  | divq (k : Nat) (d s t : BitVec 5) (sat : BitVec 2)
  | divw (k : Nat) (d s t : BitVec 5) (sat : BitVec 2)
  | divwu (k : Nat) (d s t : BitVec 5) (sat : BitVec 2)
  | divisionComplete (k : Nat)
  | min (k : Nat) (d s t : BitVec 5)
  | max (k : Nat) (d s t : BitVec 5)
  | minu (k : Nat) (d s t : BitVec 5)
  | maxu (k : Nat) (d s t : BitVec 5)
  -- memory
  | lq (k : Nat) (d : BitVec 5) (e : Mem2)
  | sq (k : Nat) (s : BitVec 5) (e : Mem2)
  | la (k : Nat) (d : BitVec 3) (e : Mem2)
  | sa (k : Nat) (s : BitVec 3) (e : Mem2)
  | lf (k : Nat) (d : BitVec 5) (e : Mem2)
  | sf (k : Nat) (s : BitVec 5) (e : Mem2)
  | lfw (k : Nat) (d : BitVec 5) (e : Mem2)
  | sfw (k : Nat) (s : BitVec 5) (e : Mem2)
  | lwx (k : Nat) (d : BitVec 5) (a : BitVec 3)
  | swx (k : Nat) (d s : BitVec 5) (a : BitVec 3)
  | vld (k : Nat) (d : BitVec 3) (e : Mem2)
  | vst (k : Nat) (s : BitVec 3) (e : Mem2)
  | vld2 (k : Nat) (d : BitVec 3) (e : Mem2)
  | vld3 (k : Nat) (d : BitVec 3) (e : Mem2)
  | vld4 (k : Nat) (d : BitVec 3) (e : Mem2)
  | vgath (k : Nat) (d a i : BitVec 3)
  | vscat (k : Nat) (s a i : BitVec 3)
  | xadd (k : Nat) (d s : BitVec 5) (a : BitVec 3)
  -- address registers
  | adda (k : Nat) (a b : BitVec 3) (n : BitVec 5)
  | addai (k : Nat) (a b : BitVec 3) (imm : Word)
  | lal (k : Nat) (a : BitVec 3) (imm : Word)
  | lah (k : Nat) (a : BitVec 3) (imm : Word)
  | mtal (k : Nat) (a : BitVec 3) (n : BitVec 5)
  | mtah (k : Nat) (a : BitVec 3) (n : BitVec 5)
  | mfal (k : Nat) (n : BitVec 5) (a : BitVec 3)
  | mfah (k : Nat) (n : BitVec 5) (a : BitVec 3)
  | mtam (k : Nat) (a : BitVec 3) (n : BitVec 5)
  | mfam (k : Nat) (n : BitVec 5) (a : BitVec 3)
  | upda (k : Nat) (a : BitVec 3) (imm : Word)
  | mova (k : Nat) (a b : BitVec 3)
  -- branches, jumps, loops
  | beq (k : Nat) (s t : BitVec 5) (o : Word)
  | bne (k : Nat) (s t : BitVec 5) (o : Word)
  | blt (k : Nat) (s t : BitVec 5) (o : Word)
  | bge (k : Nat) (s t : BitVec 5) (o : Word)
  | bltu (k : Nat) (s t : BitVec 5) (o : Word)
  | bgeu (k : Nat) (s t : BitVec 5) (o : Word)
  | bcs (k : Nat) (o : Word)
  | bcc (k : Nat) (o : Word)
  | bmi (k : Nat) (o : Word)
  | bpl (k : Nat) (o : Word)
  | bzs (k : Nat) (o : Word)
  | bzc (k : Nat) (o : Word)
  | b (k : Nat) (o : Word)
  | j (k : Nat) (o : BitVec 30)
  | jal (k : Nat) (o : BitVec 30)
  | dbnz (k : Nat) (s : BitVec 5) (o : Word)
  | repi (k : Nat) (imm : Word)
  | rep (k : Nat) (s : BitVec 5)
  -- system
  | nop (k : Nat)
  | sync (k : Nat)
  | isync (k : Nat)
  | ret (k : Nat)
  | jr (k : Nat) (a : BitVec 3)
  | jalr (k : Nat) (a : BitVec 3)
  | mfc (k : Nat) (d n : BitVec 5)
  | mtc (k : Nat) (n s : BitVec 5)
  | vfcDiscard (k : Nat) (s : BitVec 5)
  | vprogWrite (k : Nat) (s : BitVec 5)
  | signal (k : Nat) (c : BitVec 5)
  | gate (k : Nat) (g : BitVec 10)
  | bkpt (k : Nat) (code : BitVec 10)
  | rfe (k : Nat)
  | rfg (k : Nat)
  | wait (k : Nat) (d s t : BitVec 5)
  -- scalar floating point
  | fadd (k : Nat) (wd : Bool) (d s t : BitVec 5)
  | fsub (k : Nat) (wd : Bool) (d s t : BitVec 5)
  | fmul (k : Nat) (wd : Bool) (d s t : BitVec 5)
  | fdiv (k : Nat) (wd : Bool) (d s t : BitVec 5)
  | fsqrt (k : Nat) (wd : Bool) (d s : BitVec 5)
  | fmin (k : Nat) (wd : Bool) (d s t : BitVec 5)
  | fmax (k : Nat) (wd : Bool) (d s t : BitVec 5)
  | fabs (k : Nat) (wd : Bool) (d s : BitVec 5)
  | fneg (k : Nat) (wd : Bool) (d s : BitVec 5)
  | fmov (k : Nat) (wd : Bool) (d s : BitVec 5)
  | fcmp (k : Nat) (wd : Bool) (wx s t : BitVec 5) (cond : BitVec 3)
  | fcvt (k : Nat) (wd : Bool) (d s : BitVec 5)
  | ftow (k : Nat) (wd : Bool) (wx s : BitVec 5) (code : BitVec 3) (tz : Bool)
  | ffrw (k : Nat) (wd : Bool) (d wx : BitVec 5) (code : BitVec 3)
  | fmfw (k : Nat) (wd : Bool) (wx s : BitVec 5)
  | fmtw (k : Nat) (wd : Bool) (d wx : BitVec 5)
  -- short vector
  | sadd (k : Nat) (f : SvForm) (d a b : BitVec 3) (sat : BitVec 2)
  | ssub (k : Nat) (f : SvForm) (d a b : BitVec 3) (sat : BitVec 2)
  | sand (k : Nat) (f : SvForm) (d a b : BitVec 3)
  | sor (k : Nat) (f : SvForm) (d a b : BitVec 3)
  | sxor (k : Nat) (f : SvForm) (d a b : BitVec 3)
  | sshl (k : Nat) (f : SvForm) (d a : BitVec 3) (p : BitVec 8)
  | sshr (k : Nat) (f : SvForm) (d a : BitVec 3) (p : BitVec 8)
  | ssha (k : Nat) (f : SvForm) (d a : BitVec 3) (p : BitVec 8)
  | sshls (k : Nat) (f : SvForm) (d a : BitVec 3) (p : BitVec 8) (sat : BitVec 2)
  | scmp (k : Nat) (f : SvForm) (d a b : BitVec 3) (cond : BitVec 3)
  | ssel (k : Nat) (f : SvForm) (d m a b : BitVec 3)
  | smin (k : Nat) (f : SvForm) (d a b : BitVec 3)
  | smax (k : Nat) (f : SvForm) (d a b : BitVec 3)
  | sabs (k : Nat) (f : SvForm) (d a : BitVec 3) (sat : BitVec 2)
  | sneg (k : Nat) (f : SvForm) (d a : BitVec 3) (sat : BitVec 2)
  | ssrs (k : Nat) (f : SvForm) (d a : BitVec 3) (p : BitVec 6) (hi : Bool) (o : Opt)
  | ssrsp (k : Nat) (d a : BitVec 3) (p : BitVec 6) (h : SvHalf) (o : Opt)
  | smulq (k : Nat) (f : SvForm) (d a b : BitVec 3) (o : Opt)
  | smulwL (k : Nat) (f : SvForm) (d a b : BitVec 3)
  | smulwH (k : Nat) (f : SvForm) (d a b : BitVec 3)
  | sdot (k : Nat) (f : SvForm) (d a b : BitVec 3)
  | sdota (k : Nat) (f : SvForm) (d a b : BitVec 3) (sat : BitVec 2)
  | sfadd (k : Nat) (f : SvForm) (d a b : BitVec 3)
  | sfsub (k : Nat) (f : SvForm) (d a b : BitVec 3)
  | sfmul (k : Nat) (f : SvForm) (d a b : BitVec 3)
  | scvt (k : Nat) (f : SvForm) (d a : BitVec 3) (code : BitVec 3) (tz : Bool) (hi : Bool)
  | sspl (k : Nat) (f : SvForm) (d : BitVec 3) (s : BitVec 5)
  | smtl (k : Nat) (d j : BitVec 3) (s : BitVec 5)
  | smfl (k : Nat) (s : BitVec 5) (a j : BitVec 3)
  | smov (k : Nat) (d a : BitVec 3)
  -- chain groups
  | chain (k : Nat) (n : BitVec 3) (rsv : BitVec 4) (c : BitVec 5)
  | vbar (k : Nat)
  | vbarCompletion (k : Nat)
  | mtt (k : Nat) (t : BitVec 4) (w : BitVec 3) (s : BitVec 5)
  | mft (k : Nat) (d : BitVec 5) (t : BitVec 4) (w : BitVec 3)
  | mtac (k : Nat) (m : BitVec 2) (l : BitVec 3) (p : BitVec 2) (s : BitVec 5)
  | mfac (k : Nat) (d : BitVec 5) (m : BitVec 2) (l : BitVec 3) (p : BitVec 2)
  | queuedGroupStart (k : Nat)
  | groupStep (k : Nat)
  | elementCommit (k : Nat)
  | groupRetire (k : Nat)
  | groupFault (k : Nat)
  | groupPreemptStop (k : Nat)
  -- core events
  | loadDataReturn (k : Nat)
  | storePerformed (k : Nat)
  | fetchRefillReturn (k : Nat) (a : Dbl)
  | interruptTaken (k : Nat)
  | clIpost (who : Master) (k : Nat) (v : Word)
  | clMflt (who : Master) (k : Nat) (v : Word)
  | watchdogWarning (k : Nat)
  | watchdogExpiry (k : Nat)
  | wdogCntWrite (k : Nat) (s : BitVec 5)
  -- contexts and scheduler
  | alloc (who : Master)
  | activate (who : Master)
  | suspend (who : Master)
  | wake (who : Master)
  | resumeContext (who : Master)
  | release (who : Master)
  | ctxCmdBadop (who : Master) (op : BitVec 4)
  | ctxCmdCompletion (who : Master)
  | deadlineReached (c : BitVec 20)
  | bindDecision (k : Nat)
  | sliceExpiry (k : Nat)
  | victimBoundary (k : Nat)
  | restoreComplete (k : Nat)
  | saveComplete (k : Nat)
  | queueRebuild
  | inboxDelivery
  -- region board
  | boardAccessGrant (n : Nat) (reqs : List BoardReq)
  | scrubRowDue (n : Nat)
  | scrubTurn (n : Nat)
  | storeScrubWord (st : StoreId)
  | castleGo (who : Master) (n : Nat) (v : Word)
  | castleCopyRow (n : Nat)
  | castleSwitchover (n : Nat)
  | rgnPreqNap (who : Master) (n : Nat) (v : Word)
  | rgnPreqOff (who : Master) (n : Nat) (v : Word)
  | rgnPreqAutomatic (who : Master) (n : Nat) (v : Word)
  | vacate (who : Master) (n : Nat) (v : Word)
  | hold (who : Master) (n : Nat) (v : Word)
  | requestedStateEntry (n : Nat)
  | regionIdleEntry (n : Nat)
  | regionNapEntry (n : Nat)
  | regionLogicUp (n : Nat)
  | zeroFillDone (n : Nat)
  | rgnVf (who : Master) (n : Nat) (v : Word)
  | voltageRampStep (n : Nat)
  | rgnTurns (who : Master) (n : Nat) (v : Word)
  | rgnEccFlip (who : Master) (n : Nat) (v : Word)
  -- fabric, DMA, HBM
  | fabricPieceGrant (d p : Nat) (reqs : List PieceReq)
  | fabricPortClockStop (d p : Nat)
  | dmaStart (who : Master) (n : Nat)
  | dmaStop (who : Master) (n : Nat)
  | dmaClear (who : Master) (n : Nat)
  | dmaKill (who : Master) (n : Nat)
  | dmaShadowWrite (who : Master) (n : Nat) (off : BitVec 4) (v : Word)
  | dmaReadReturn (n : Nat) (hds : List (BitVec 32)) (ep : HostCpl)
  | dmaWriteResponse (n : Nat)
  | dmaCompletion (n : Nat)
  | dmaHalt (n : Nat)
  | hbmRead (who : Master) (a : Dbl) (cnt : Nat)
  | hbmWholeBlockWrite (who : Master) (a : Dbl) (ws : List Word)
  | hbmReadModifyWrite (who : Master) (a : Dbl) (ws : List Word)
  | hbmScrubBlock (h : Nat)
  -- links
  | lnkPnCtl (who : Master) (p : Nat) (v : Word)
  | ethernetFrameReceive (p sub : Nat) (f : EthFrame)
  | bosumMsgReceive (p : Nat) (f : BosumFrame)
  | bosumSigReceive (p : Nat) (f : BosumFrame)
  | bosumCtrlReceive (p : Nat) (f : BosumFrame)
  | bosumNakReceive (p : Nat) (f : BosumFrame)
  | bosumInitReceive (p : Nat) (f : BosumFrame)
  | replayTimeout (p : Nat)
  | ctrlFrameSend (p : Nat)
  | initFrameSend (p : Nat)
  | pcsBlockLockLoss (p sub : Nat)
  | frameTransmit (p sub : Nat)
  | lnkTxsig (who : Master) (g : Dbl)
  | lnkFtIdx (who : Master) (v : Word)
  | lnkFtCmdWr (who : Master)
  -- time
  | ptpTodRead (who : Master)
  | ptpSet (who : Master) (v : Word)
  | ptpAdj (who : Master) (v : Word)
  | ptpCtlCap (who : Master) (v : Word)
  | tmrNextWrite (who : Master) (t : Nat) (v : Word)
  | timerEvent (t : Nat)
  | ppsInEdge
  | ppsOutRise
  | ppsOutFall
  | syncerrUpdate
  | pipNowRead (who : Master)
  -- host
  | hostBarRead (bar : Bar) (off : Nat) (cnt : Nat)
  | hostBarWrite (bar : Bar) (off : Nat) (ds : List HostDword)
  | hostKpost (who : Master) (v : Word)
  | mailboxPost (who : Master) (len : BitVec 12)
  | mailboxRelease (who : Master)
  | hostDmaTimeout (n : Nat)
  | functionLevelReset
  | pcieHotReset
  | pcieLinkDown
  | pcieLinkUp (width : BitVec 3) (speed : BitVec 3)
  -- integrity, ageing
  | intLdgDataRead (who : Master)
  | intLdgDataWrite (who : Master) (v : Word)
  | intLdgCtlErase (who : Master)
  | ledgerProgramDone
  | ledgerEraseDone
  | marginMeasurement (n : Nat) (q : BitVec 7) (m : BitVec 10)
  | thermalThrottleStep (n : Nat) (temp : BitVec 12)
  -- power input
  | powerCapLower (r : PowerReading)
  | powerCapRestore (r : PowerReading)
  | inputCurrentClamp (i : BitVec 13)
  | vinOutOfRange (v : Nat)
  | vinWarning (v : Nat)
  | inputPowerArrival (v : Nat)
  | thermtrip (temp : BitVec 12)
  -- rolls
  | rollRegion (who : Master) (tgt : BitVec 7)
  | rollCluster (who : Master) (tgt : BitVec 7)
  | rollIoDie (who : Master)
  | rollEnd (tgt : RollTarget) (bad : Option (BitVec 7))
  -- device power and resets
  | enterStandby (who : Master)
  | standbyEntry
  | returnToActive (who : Master)
  | activeReached
  | porstNAssert
  | porstNRelease (sadr : BitVec 3) (tmode : BitVec 2)
  | wrstNAssert
  | uartWakeByte (b : BitVec 8)
  | fusesSensed
  | hubPllLock
  | ioDieRollDone (pass : Bool)
  | contextStoreCleared
  | hbmFillDone
  | imageVerified (a b : FlashSlot)
  | lifeCycleProgramDone
  -- monitor
  | ident (r : MonReq)
  | status (r : MonReq)
  | authStart (r : MonReq) (role : BitVec 8) (qh : List (BitVec 8))
  | authProve (r : MonReq) (ph sig : List (BitVec 8))
  | authEnd (r : MonReq)
  | mread (r : MonReq) (a : Dbl) (cnt : BitVec 16)
  | mwrite (r : MonReq) (a : Dbl) (cnt : BitVec 16) (ws : List Word)
  | halt (r : MonReq) (k : BitVec 8)
  | step (r : MonReq) (k : BitVec 8)
  | resume (r : MonReq) (k : BitVec 8)
  | cread (r : MonReq) (k : BitVec 8) (sel : Word)
  | cwrite (r : MonReq) (k : BitVec 8) (sel : Word) (v : Dbl)
  | replan (r : MonReq)
  | resetWarm (r : MonReq)
  | resetCold (r : MonReq)
  | powerStandby (r : MonReq)
  | powerActive (r : MonReq)
  | powerOff (r : MonReq)
  | enroll (r : MonReq) (key : List (BitVec 8))
  | lcset (r : MonReq) (target : BitVec 8)
  | monitorFrameDiscard (ch : Channel) (bytes : List (BitVec 8))
  | sessionTimeout (ch : Channel)
  | authLockoutEnd (ch : Channel)
  -- run control and debug master
  | clRcHalt (who : Master) (k : Nat)
  | clRcStep (who : Master) (k : Nat)
  | clRcResume (who : Master) (k : Nat)
  | coreHalted (k : Nat)
  | clRcData (who : Master) (k : Nat) (w : Option Dbl)
  | dbgDataRead (who : Master)
  | dbgDataWrite (who : Master) (v : Word)
  | debugAccessDone
  -- PMBus
  | clearFaults
  | capability
  | statusWord
  | statusInput
  | statusTemperature
  | readVin
  | readIin
  | readTemperature1
  | readTemperature2 (temp : BitVec 12)
  | readPin
  | pmbusRevision
  | mfrId
  | mfrModel
  | alertResponseAddress
  | pmbusUnsupportedCommand (code : BitVec 8)
  -- others
  | registerWrite (who : Master) (a : Dbl) (v : Word)
  | pcsBlockLockGain (p sub : Nat)
  | wrstNRelease
  | internalResetHoldEnd
  | vinInRange5Ms
  | currentClampEnd (i : BitVec 13)
  | pendingMchkTaken (k : Nat)
  | pcieConfigurationWrite (c : CfgWrite) (d3 : Bool)
  | msiXTableWrite (vec : BitVec 6) (dw : BitVec 2) (v : BitVec 32)
  | storedBitError (e : ErrSite)
  | illegalInstruction (k : Nat)
  | fetchFault (k : Nat)
  deriving DecidableEq, Repr

end Sys2Proof
end

