-- ==== Sys2Proof/WellFormed.lean ====
section
/-! DEFINITION. Which commands name units, ranges and lengths that the manual gives the device; the parts that a fuse
disables are the state's matter. -/

namespace Sys2Proof

/-- One of the 96 clusters (R6). -/
def isCluster (k : Nat) : Bool := decide (k < 96)
/-- One of the 48 regions (R6). -/
def isRegion (n : Nat) : Bool := decide (n < 48)
/-- One of the 96 DMA channels (R293). -/
def isChannel (n : Nat) : Bool := decide (n < 96)
/-- One of the eight link ports (R312). -/
def isPort (p : Nat) : Bool := decide (p < 8)
/-- One of the sub-ports that a port may have (R312). -/
def isSubPort (sub : Nat) : Bool := decide (sub < 8)
/-- One of the 64 timers (R335). -/
def isTimer (t : Nat) : Bool := decide (t < 64)
/-- One of the four HBM stacks (R306). -/
def isStack (h : Nat) : Bool := decide (h < 4)
/-- One of the four die fabrics (R284). -/
def isDie (d : Nat) : Bool := decide (d < 4)
/-- One of the target ports of a die fabric (R284). -/
def isTarget (p : Nat) : Bool := decide (p < 15)
/-- One of the ports of a die fabric: its 15 target ports, then its 66 master ports (R284). -/
def isFabricPort (p : Nat) : Bool := decide (p < 81)
/-- An input voltage that a 13-bit reading in 10 mV holds (R395). -/
def isVoltage (v : Nat) : Bool := decide (v < 8192)
/-- A byte offset in a BAR, of a whole dword (R339). -/
def isBarOffset (off : Nat) : Bool := decide (off < 2 ^ 30) && decide (off % 4 = 0)
/-- The dwords of one host request, or the words of one read (R338). -/
def isRequest (n : Nat) : Bool := decide (1 ≤ n) && decide (n ≤ 1024)
/-- An uncompressed P-384 point (R386). -/
def isPoint (l : List Byte) : Bool := decide (l.length = 97)

/-- A master that exists (R23). -/
def Master.wf (m : Master) : Bool :=
  match m with
  | .stream k => isCluster k
  | .fetch k => isCluster k
  | .core k => isCluster k
  | .dma n => isChannel n
  | .dispatcher => true
  | .keeper => true
  | .debug => true
  | .host => true
  | .hardware => true

/-- A slot of R34 and an offset in a window (R28). -/
def BoardReq.wf (r : BoardReq) : Bool := decide (r.slot < 17) && decide (r.off < 0x7F0000) && r.who.wf

/-- A burst of one of the 66 masters has 1 to 256 beats (R284, R285). -/
def PieceReq.wf (r : PieceReq) : Bool := decide (1 ≤ r.beats) && decide (r.beats ≤ 256) && decide (r.master < 66)

/-- A store with a walker (R354). -/
def StoreId.wf (st : StoreId) : Bool := match st with | .coef k => isCluster k | .context => true

/-- A Bosum frame has the payload words that its LEN says (R319, R320). -/
def BosumFrame.wf (f : BosumFrame) : Bool := decide (f.payload.length = f.h0.toNat % 4096)

/-- FLAGS has its reserved bits 0 (R383). -/
def MonReq.wf (r : MonReq) : Bool := decide (r.flags.toNat < 4)

/-- A roll's target (R364). -/
def RollTarget.wf (t : RollTarget) : Bool := match t with | .region n => isRegion n | .cluster k => isCluster k

/-- An address in a store that has the code (R345, R306). -/
def ErrSite.wf (e : ErrSite) : Bool :=
  match e with
  | .sram a _ =>
    (decide (a.toNat < 0x18000000) && decide (a.toNat % 0x800000 < 0x7F0000))
      || (decide (0x20000000 ≤ a.toNat) && decide (a.toNat < 0x22000000))
      || (decide (0x40000000 ≤ a.toNat) && decide (a.toNat < 0x40180000))
  | .hbm a _ => decide (0x100000000 ≤ a.toNat) && decide (a.toNat < 0xA00000000)

/-- Readings that their registers hold (R395). -/
def PowerReading.wf (r : PowerReading) : Bool :=
  decide (r.vin < 8192) && decide (r.iin < 8192) && decide (r.pin < 8192) && decide (r.pdev < 8192)

/-- A slot's header has 512 bytes (R375). -/
def FlashSlot.wf (f : FlashSlot) : Bool := decide (f.header.length = 512)

/-- The command's units, ranges and lengths are the device's. -/
def Instr.wf (i : Instr) : Bool :=
  match i with
  | .add k .. | .sub k .. | .adc k .. | .sbc k .. | .and k .. | .or k .. | .xor k .. | .mul k .. | .mulw k ..
    | .shl k .. | .shr k .. | .sha k .. | .lw k .. | .sw k .. | .ld k .. | .sd k .. | .addi k .. | .subi k ..
    | .andi k .. | .ori k .. | .xori k .. | .movi k .. | .adds k .. | .subs k .. | .neg k .. | .abs k ..
    | .shls k .. | .shli k .. | .shri k .. | .shai k .. | .shlsi k .. | .shar k .. | .mulu k .. | .mulq k ..
    | .mulwu k .. | .mstart k .. | .mstartProductWrite k | .div k .. | .divu k .. | .divq k .. | .divw k ..
    | .divwu k .. | .divisionComplete k | .min k .. | .max k .. | .minu k .. | .maxu k .. | .lq k .. | .sq k ..
    | .la k .. | .sa k .. | .lf k .. | .sf k .. | .lfw k .. | .sfw k .. | .lwx k .. | .swx k .. | .vld k ..
    | .vst k .. | .vld2 k .. | .vld3 k .. | .vld4 k .. | .vgath k .. | .vscat k .. | .xadd k .. | .adda k ..
    | .addai k .. | .lal k .. | .lah k .. | .mtal k .. | .mtah k .. | .mfal k .. | .mfah k .. | .mtam k ..
    | .mfam k .. | .upda k .. | .mova k .. | .beq k .. | .bne k .. | .blt k .. | .bge k .. | .bltu k .. | .bgeu k ..
    | .bcs k .. | .bcc k .. | .bmi k .. | .bpl k .. | .bzs k .. | .bzc k .. | .b k .. | .j k .. | .jal k ..
    | .dbnz k .. | .repi k .. | .rep k .. | .nop k | .sync k | .isync k | .ret k | .jr k .. | .jalr k .. | .mfc k ..
    | .mtc k .. | .vfcDiscard k .. | .vprogWrite k .. | .signal k .. | .gate k .. | .bkpt k .. | .rfe k | .rfg k
    | .wait k .. | .fadd k .. | .fsub k .. | .fmul k .. | .fdiv k .. | .fsqrt k .. | .fmin k .. | .fmax k ..
    | .fabs k .. | .fneg k .. | .fmov k .. | .fcmp k .. | .fcvt k .. | .ftow k .. | .ffrw k .. | .fmfw k ..
    | .fmtw k .. | .sadd k .. | .ssub k .. | .sand k .. | .sor k .. | .sxor k .. | .sshl k .. | .sshr k ..
    | .ssha k .. | .sshls k .. | .scmp k .. | .ssel k .. | .smin k .. | .smax k .. | .sabs k .. | .sneg k ..
    | .ssrs k .. | .ssrsp k .. | .smulq k .. | .smulwL k .. | .smulwH k .. | .sdot k .. | .sdota k .. | .sfadd k ..
    | .sfsub k .. | .sfmul k .. | .scvt k .. | .sspl k .. | .smtl k .. | .smfl k .. | .smov k .. | .chain k ..
    | .vbar k | .vbarCompletion k | .mtt k .. | .mft k .. | .mtac k .. | .mfac k .. | .queuedGroupStart k
    | .groupStep k | .elementCommit k | .groupRetire k | .groupFault k | .groupPreemptStop k | .loadDataReturn k
    | .storePerformed k | .fetchRefillReturn k .. | .interruptTaken k | .watchdogWarning k | .watchdogExpiry k
    | .wdogCntWrite k .. | .bindDecision k | .sliceExpiry k | .victimBoundary k | .restoreComplete k
    | .saveComplete k | .coreHalted k | .pendingMchkTaken k | .illegalInstruction k | .fetchFault k => isCluster k
  | .clIpost who k .. | .clMflt who k .. | .clRcHalt who k | .clRcStep who k | .clRcResume who k
    | .clRcData who k .. => who.wf && isCluster k
  | .alloc who | .activate who | .suspend who | .wake who | .resumeContext who | .release who
    | .ctxCmdCompletion who | .lnkTxsig who .. | .lnkFtIdx who .. | .lnkFtCmdWr who | .ptpTodRead who
    | .ptpSet who .. | .ptpAdj who .. | .ptpCtlCap who .. | .pipNowRead who | .hostKpost who ..
    | .mailboxPost who .. | .mailboxRelease who | .intLdgDataRead who | .intLdgDataWrite who ..
    | .intLdgCtlErase who | .rollRegion who .. | .rollCluster who .. | .rollIoDie who | .enterStandby who
    | .returnToActive who | .dbgDataRead who | .dbgDataWrite who .. | .registerWrite who .. => who.wf
  | .ctxCmdBadop who op => who.wf && (decide (op = 0) || decide (6 < op.toNat))
  | .deadlineReached .. | .queueRebuild | .inboxDelivery | .ppsInEdge | .ppsOutRise | .ppsOutFall | .syncerrUpdate
    | .functionLevelReset | .pcieHotReset | .pcieLinkDown | .pcieLinkUp .. | .ledgerProgramDone | .ledgerEraseDone
    | .inputCurrentClamp .. | .thermtrip .. | .standbyEntry | .activeReached | .porstNAssert | .porstNRelease ..
    | .wrstNAssert | .uartWakeByte .. | .fusesSensed | .hubPllLock | .ioDieRollDone .. | .contextStoreCleared
    | .hbmFillDone | .lifeCycleProgramDone | .sessionTimeout .. | .authLockoutEnd .. | .debugAccessDone
    | .clearFaults | .capability | .statusWord | .statusInput | .statusTemperature | .readVin | .readIin
    | .readTemperature1 | .readTemperature2 .. | .readPin | .pmbusRevision | .mfrId | .mfrModel
    | .alertResponseAddress | .pmbusUnsupportedCommand .. | .wrstNRelease | .internalResetHoldEnd | .vinInRange5Ms
    | .currentClampEnd .. | .pcieConfigurationWrite .. | .msiXTableWrite .. => true
  | .boardAccessGrant n reqs => isRegion n && reqs.all BoardReq.wf
  | .scrubRowDue n | .scrubTurn n | .castleCopyRow n | .castleSwitchover n | .requestedStateEntry n
    | .regionIdleEntry n | .regionNapEntry n | .regionLogicUp n | .zeroFillDone n | .voltageRampStep n
    | .marginMeasurement n .. | .thermalThrottleStep n .. => isRegion n
  | .storeScrubWord st => st.wf
  | .castleGo who n .. | .rgnPreqNap who n .. | .rgnPreqOff who n .. | .rgnPreqAutomatic who n .. | .vacate who n ..
    | .hold who n .. | .rgnVf who n .. | .rgnTurns who n .. | .rgnEccFlip who n .. => who.wf && isRegion n
  | .fabricPieceGrant d p reqs => isDie d && isTarget p && reqs.all PieceReq.wf
  | .fabricPortClockStop d p => isDie d && isFabricPort p
  | .dmaStart who n | .dmaStop who n | .dmaClear who n | .dmaKill who n | .dmaShadowWrite who n .. => who.wf && isChannel n
  | .dmaReadReturn n .. | .dmaWriteResponse n | .dmaCompletion n | .dmaHalt n | .hostDmaTimeout n => isChannel n
  | .hbmRead who _ cnt => who.wf && isRequest cnt
  | .hbmWholeBlockWrite who _ ws => who.wf && decide (ws.length = 24)
  | .hbmReadModifyWrite who _ ws => who.wf && decide (1 ≤ ws.length) && decide (ws.length ≤ 24)
  | .hbmScrubBlock h => isStack h
  | .lnkPnCtl who p .. => who.wf && isPort p
  | .ethernetFrameReceive p sp .. | .pcsBlockLockLoss p sp | .frameTransmit p sp | .pcsBlockLockGain p sp => isPort p && isSubPort sp
  | .bosumMsgReceive p f | .bosumSigReceive p f | .bosumCtrlReceive p f | .bosumNakReceive p f
    | .bosumInitReceive p f => isPort p && f.wf
  | .replayTimeout p | .ctrlFrameSend p | .initFrameSend p => isPort p
  | .tmrNextWrite who t .. => who.wf && isTimer t
  | .timerEvent t => isTimer t
  | .hostBarRead _ off cnt => isBarOffset off && isRequest cnt
  | .hostBarWrite _ off ds => isBarOffset off && isRequest ds.length
  | .powerCapLower r | .powerCapRestore r => r.wf
  | .vinOutOfRange v | .vinWarning v | .inputPowerArrival v => isVoltage v
  | .rollEnd tgt .. => tgt.wf
  | .imageVerified x y => x.wf && y.wf
  | .ident r | .status r | .authEnd r | .mread r .. | .halt r .. | .step r .. | .resume r .. | .cread r ..
    | .cwrite r .. | .replan r | .resetWarm r | .resetCold r | .powerStandby r | .powerActive r | .powerOff r
    | .lcset r .. => r.wf
  | .authStart r _ qh => r.wf && isPoint qh
  | .authProve r ph sig => r.wf && isPoint ph && decide (sig.length = 96)
  | .mwrite r _ _ ws => r.wf && decide (1 ≤ ws.length) && decide (ws.length ≤ 512)
  | .enroll r key => r.wf && isPoint key
  | .monitorFrameDiscard _ bytes => decide (bytes.length ≤ 65535)
  | .storedBitError e => e.wf

end Sys2Proof
end

