-- ==== Sys2Proof/Decode.lean ====
section
/-! DEFINITION. The command that a word of the opcode table spells: the table gives no row any bits, because the
commands are events and accesses, so no word spells one. -/

namespace Sys2Proof

/-- The command spelled by a word of nbits bits. -/
def decodeTableWord (_nbits _w : Nat) : Option Instr := none

end Sys2Proof
end

