-- ==== Sys2Proof/Config.lean ====
section
/-! DEFINITION. What the manual leaves open or takes from published standards: constants without a body, so that
nothing can be proved of their values. -/

namespace Sys2Proof

/-- Free values (DESIGN CHOICE log 15): the n-th open value of a run; the step applies it to the state's counter and advances
that counter. -/
opaque Config.free : Nat → Nat

/-- The UID fuses (R376, DESIGN CHOICE log 19). -/
opaque Config.uid : BitVec 80

/-- The PCI Vendor ID fuses (R376, DESIGN CHOICE log 19). -/
opaque Config.vid : BitVec 16

/-- The D0 fuses of a region (R358, DESIGN CHOICE log 19). -/
opaque Config.ageD0 : Nat → BitVec 16

/-- The SENS fuses of a region (R358, DESIGN CHOICE log 19). -/
opaque Config.ageSens : Nat → BitVec 16

/-- The VKH fuses as Rongal programmed them (R382, DESIGN CHOICE log 19). -/
opaque Config.vkh : BitVec 384

/-- The VKD fuses as Rongal programmed them (R382, DESIGN CHOICE log 19). -/
opaque Config.vkd : BitVec 384

/-- The signature that a passing roll of a kind and target gives (R364, DESIGN CHOICE log 25). -/
opaque Config.rollSignature : Nat → Nat → Dbl

/-- Ticks of the 625 MHz PTP clock that fall in the n-th pip (R333, DESIGN CHOICE log 4). -/
opaque Config.ptpTicks : Nat → Nat

/-- Edges of SYNC_IN have arrived in the 1 ms before the n-th pip edge (R334, DESIGN CHOICE log 4). -/
opaque Config.syncEdges : Nat → Bool

/-- Frame preemption of a port stands verified by its peer in the n-th pip (R314, R332, DESIGN CHOICE log 32). -/
opaque Config.preemptVerified : Nat → Nat → Bool

/-- Codewords of a port that forward error correction has corrected in the n-th pip (R332, DESIGN CHOICE log 81). -/
opaque Config.fecCorrected : Nat → Nat → Nat

/-- Codewords of a port that forward error correction could not correct in the n-th pip (R332, DESIGN CHOICE log 81). -/
opaque Config.fecUncorrected : Nat → Nat → Nat

/-- The revision ID of the PCI Express function (R338, DESIGN CHOICE log 93). -/
opaque Config.pciRevision : BitVec 8

/-- Whether the last digit of the equivalent-time step is rounded up in the n-th pip, when odd (R358, DESIGN CHOICE
log 24). -/
opaque Config.eqtRound : Nat → Nat

/-- The delay that critical-path monitor k of region n has measured by the end of a pip, where it has measured one (R358,
DESIGN CHOICE log 24). -/
opaque Config.pathDelay : Nat → Nat → Nat → Option (BitVec 16)

/-- Which of two values equally near an exact quotient a LINEAR11 word holds (R399, DESIGN CHOICE log 24): true the greater. -/
opaque Config.tieUp : Int → Int → Bool

/-- Whether CAPNOW shows an exact cap that is no multiple of its unit, in units of 0.01 W, rounded up (R394, R395, DESIGN
CHOICE log 24). -/
opaque Config.capUp : Nat → Bool

/-- What VFA holds of a failing address outside 40 bits (R92, R166, DESIGN CHOICE log 87). -/
opaque Config.outsideVfa : Int → BitVec 40

/-- SHA-384 (R375, R381, R386, DESIGN CHOICE log 18). -/
opaque Config.sha384 : List Byte → BitVec 384

/-- ECDSA P-384 verification of a signature over a digest under a public key (R375, R386, DESIGN CHOICE log 18). -/
opaque Config.ecdsaVerify : List Byte → BitVec 384 → List Byte → Bool

/-- The device's ephemeral P-384 point of the n-th exchange (R386, DESIGN CHOICE log 18). -/
opaque Config.ephemeralPoint : Nat → List Byte

/-- The x-coordinate of the shared point of the n-th exchange with the host's point (R386, DESIGN CHOICE log 18). -/
opaque Config.sharedSecret : Nat → List Byte → List Byte

/-- HKDF-SHA-384 with salt, input and info, 48 bytes (R386, DESIGN CHOICE log 18). -/
opaque Config.hkdf384 : List Byte → List Byte → List Byte → List Byte

/-- The first 16 bytes of HMAC-SHA-384 (R383, DESIGN CHOICE log 18). -/
opaque Config.hmac128 : List Byte → List Byte → BitVec 128

/-- Random bytes, for the nonce of the n-th exchange (R386, DESIGN CHOICE log 18). -/
opaque Config.random : Nat → Nat → List Byte

end Sys2Proof
end

