-- ==== Sys2Proof/Machine/Sparse.lean ====
section
/-! DEFINITION. Reading and writing the sparse tables of the state, and their canonical form. -/

namespace Sys2Proof

/-- The entry of a key, or the table's default. -/
def SMap.get {α : Type} (d : α) : SMap α → Nat → α
  | [], _ => d
  | (a, v) :: m, k => if a = k then v else SMap.get d m k

/-- The table without a key. -/
def SMap.drop {α : Type} : SMap α → Nat → SMap α
  | [], _ => []
  | (a, v) :: m, k => if a = k then SMap.drop m k else (a, v) :: SMap.drop m k

/-- The table with a key set, in rising order of keys. -/
def SMap.ins {α : Type} : SMap α → Nat → α → SMap α
  | [], k, v => [(k, v)]
  | (a, w) :: m, k, v =>
    if k < a then (k, v) :: (a, w) :: m
    else if a = k then (k, v) :: m
    else (a, w) :: SMap.ins m k v

/-- A write: the default is never listed. -/
def SMap.set {α : Type} [DecidableEq α] (d : α) (m : SMap α) (k : Nat) (v : α) : SMap α :=
  if v = d then m.drop k else m.ins k v

/-- Change the entry of a key. -/
def SMap.upd {α : Type} [DecidableEq α] (d : α) (m : SMap α) (k : Nat) (f : α → α) : SMap α :=
  SMap.set d m k (f (SMap.get d m k))

/-- Change every listed entry; entries that become the default are dropped. -/
def SMap.map {α : Type} [DecidableEq α] (d : α) (m : SMap α) (f : Nat → α → α) : SMap α :=
  (List.map (fun p => (p.1, f p.1 p.2)) m).filter (fun p => decide (p.2 ≠ d))

/-- Drop every entry whose key satisfies a test. -/
def SMap.purge {α : Type} (m : SMap α) (p : Nat → Bool) : SMap α :=
  List.filter (fun e => !p e.1) m

/-- Keys above a bound, strictly rising, and no entry equal to the default. -/
def SMap.wfFrom {α : Type} [DecidableEq α] (d : α) : Nat → SMap α → Bool
  | _, [] => true
  | lo, (a, v) :: m => decide (lo ≤ a) && decide (v ≠ d) && SMap.wfFrom d (a + 1) m

/-- The canonical form of a table. -/
def SMap.wf {α : Type} [DecidableEq α] (d : α) (m : SMap α) : Bool := SMap.wfFrom d 0 m

end Sys2Proof
end

