-- ==== Sys2Proof/Machine/State.lean ====
section
/-! DEFINITION. Every piece of state the manual gives the module, as plain data, and its reset values. -/

namespace Sys2Proof.Machine

/-! ## Why a step stops -/

/-- Raised by a command for a unit that the device does not have: a cluster, region, DMA channel, port, timer or
die whose number is out of range or whose region is disabled by fuse (R4, R6, R7). Safe: the model stops where no
hardware exists to go on. -/
inductive Fault where
  | noSuchUnit
  deriving DecidableEq, Repr

/-- Raised only by an arm of exec whose command has no meaning yet. Safe. -/
inductive Refusal where
  | notModelled (mnemonic : String)
  deriving DecidableEq, Repr

/-! ## Small vocabularies -/

/-- Privilege levels (00_scope, R213). -/
inductive Priv where
  | u
  | s
  | m
  deriving DecidableEq, Repr

/-- Why an access fails: the subcauses of R264 for data, which other masters' causes follow. -/
inductive BusErr where
  | unmapped
  | access
  | window
  | atomic
  | uncorr
  | poison
  | refused
  deriving DecidableEq, Repr

/-- Power states of a region (R52, R369). -/
inductive PState where
  | run
  | idle
  | nap
  | off
  | waking
  | rolling
  deriving DecidableEq, Repr

/-- RGN_SPARE.CSTAT (R56). -/
inductive CStat where
  | idle
  | copying
  | done
  | refused
  deriving DecidableEq, Repr

/-- STAT.STATE of a DMA channel (R297). -/
inductive DmaState where
  | idle
  | armed
  | running
  | halted
  deriving DecidableEq, Repr

/-- CL_RC_STAT.STATE (R388), with the step in progress kept apart. -/
inductive RcState where
  | running
  | halting
  | stepping
  | halted
  | haltedErr
  deriving DecidableEq, Repr

/-- PWR_DEV.STATE (R372), device OFF, and the stopped converters of R392 and R401. -/
inductive DevState where
  | active
  | standby
  | entering
  | returning
  | off
  | unpowered
  deriving DecidableEq, Repr

/-- Machine-level interrupts to the keeper core, by their reason. -/
inductive KeeperIrq where
  | faulted (c : Nat)
  | coreHalt (k : Nat)
  | castle (n : Nat)
  | log (kind : Nat)
  | dma (n : Nat)
  | linkDown (p : Nat)
  | mailbox
  | roll (t : RollTarget)
  deriving DecidableEq, Repr

/-! ## The steward core -/

/-- CST (R213); RSV is read from the reservation. -/
structure Cst where
  pl : Priv := .m
  ie : Bool := false
  rpt : Bool := false
  n : Bool := false
  z : Bool := false
  c : Bool := false
  deriving DecidableEq, Repr

/-- Where one loaded word goes: a W cell, a half of an address or F register, or nowhere. -/
inductive Slot where
  | w (key : Nat)
  | alo (n : Nat)
  | ahi (n : Nat)
  | flo (n : Nat)
  | fhi (n : Nat)
  | flw (n : Nat)
  | nil
  deriving DecidableEq, Repr

/-- What a performed read gave: its words, or the first failing word's cause and address. -/
inductive LdData where
  | ok (ws : List Word)
  | bad (e : BusErr) (a : Nat)
  deriving DecidableEq, Repr

/-- An outstanding load (R216, R217): the words it reads and where each goes, the instructions executed since, its
data once performed, whether it sets the reservation, the post-modified address register to be put back if its
data faults (R246), where a short-vector load runs again after a fault and under which count of a REP (R175, R227),
whether a failure of its access is a write's (R267), and how many entries of the store buffer are older. -/
structure PendLoad where
  addrs : List Nat
  slots : List Slot
  age : Nat := 0
  data : Option LdData := none
  lwx : Bool := false
  undo : Option (Nat × Dbl) := none
  again : Option Dbl := none
  rep : Option Nat := none
  wr : Bool := false
  behind : Nat := 0
  deriving DecidableEq, Repr

/-- A store-buffer entry (R220): consecutive words from an address. -/
structure SbEntry where
  addr : Nat
  ws : List Word
  deriving DecidableEq, Repr

/-- A word of the fetch buffer: the word, or why its refill failed. -/
inductive FWord where
  | ok (w : Word)
  | bad (e : BusErr)
  deriving DecidableEq, Repr

/-- A line of the fetch buffer (R223). -/
structure FLine where
  base : Nat
  ws : List FWord
  deriving DecidableEq, Repr

/-- A word that a store has written among those that the core may have fetched already (R225): its address, its earlier
value, how many words in program order may still see that value, and whether the word is executed with it. -/
structure Stale where
  addr : Nat
  w : Word
  left : Nat
  old : Bool
  deriving DecidableEq, Repr

/-- A division held in X (R231). -/
structure DivPend where
  q : Word
  r : Word
  qk : Nat
  rk : Nat
  ov : Bool
  dz : Bool
  trap : Bool
  deriving DecidableEq, Repr

/-- Flags raised by an element or an instruction (R66, R73, R76). -/
structure Flags where
  ov : Bool := false
  dz : Bool := false
  nv : Bool := false
  fdz : Bool := false
  ofl : Bool := false
  ufl : Bool := false
  nx : Bool := false
  deriving DecidableEq, Repr

/-- A vector fault of an element (R165, R166). -/
structure VFault where
  cause : Nat
  va : Nat := 0
  stream : Nat := 0
  wr : Bool := false
  flg : Nat := 0
  instr : Nat := 7
  vfe : Nat := 0
  deriving DecidableEq, Repr

/-- An accumulator update that an element makes when it commits (R126). -/
inductive AccOp where
  | add (x : Int) (sat : Bool)
  | max (x : Int)
  | min (x : Int)
  | put (x : Int)
  deriving DecidableEq, Repr

/-- What one element, or one segment of a stationary group, does when it commits (R160): its writes with the stream
each belongs to and the stream's element, accumulator lanes set first (the Z option), updates, coefficient writes, flags,
its fault, and how many elements of VPROG it stands for. -/
structure ElemOut where
  cnt : Nat := 1
  writes : List (Nat × Word × Nat × Nat) := []
  zset : List (Nat × BitVec 48) := []
  accs : List (Nat × AccOp) := []
  coefs : List (Nat × Word × Nat) := []
  flags : Flags := {}
  fault : Option VFault := none
  deriving DecidableEq, Repr

/-- What a read position holds of an element of stream t (R100, R120): its words, the first that failed with its cause,
and the addresses read. -/
structure ReadEl where
  t : Nat
  i : Nat
  words : List Word := []
  bad : Option (Nat × Int) := none
  addrs : List Nat := []
  deriving DecidableEq, Repr

/-- A chain group in flight or stopped: its latched set (R102), progress (R160), elements of VPROG per commit (R124), the
accumulators that it writes, what its read positions hold and how many elements each has presented (R100, R120), results
on their way (R120) and the part of a segment under way (R124), the words it has written with stream, address and element
(R110), those of them that it will write again, each with its form before the group (R19), whether it was issued at M
(R183), whether its results are unpredictable (R110, R132), and the stored words that it has replaced since its last
checkpoint, each with its address, the old form and the new one (R161, R176). -/
structure Group where
  chain : Dbl
  n : Nat
  body : List (Word × Word)
  len : Nat
  start : Nat := 0
  vprog : Nat := 0
  unit : Nat := 1
  accs : List Nat := []
  vmode : Word
  fmode : Word
  descs : List (Nat × List Word) := []
  bcast : List (List Word) := []
  acs : SMap (BitVec 48) := []
  pos : Nat := 0
  shown : SMap Nat := []
  ahead : List ReadEl := []
  outq : List ElemOut := []
  part : List Int := []
  running : Bool := false
  stopAt : Option Nat := none
  stopped : Bool := false
  segOut : ElemOut := {}
  wrote : List (Nat × Nat × Nat) := []
  mid : List (Nat × BitVec 31) := []
  atM : Bool := false
  unpred : Bool := false
  unpredAcc : Bool := false
  fresh : List (Nat × BitVec 31 × BitVec 31) := []
  vfc : Word := 0
  vfe : Word := 0
  vfa : Dbl := 0
  deriving DecidableEq, Repr

/-- Why a context leaves its cluster (R186, R199, R275, R281, R194). -/
inductive LeaveKind where
  | higher
  | slice
  | suspend
  | wdog
  | machine
  | waiting
  deriving DecidableEq, Repr

/-- The switch buffer (R192): the outgoing context, why it leaves, its words by save-area offset, and whether its
groups have still to stop. -/
structure Outgoing where
  ctx : Nat
  why : LeaveKind
  words : List (Nat × Word)
  profT : Bool
  live : Bool
  faulted : Bool := false
  deriving DecidableEq, Repr

/-- The vector part that a bound context has restored but that waits for the groups of the outgoing one (R199): its
accumulators where it has them, its slots, the fault record, VPROG, and whether a pending fault has been delivered
(R174). -/
structure VecIn where
  ac : Option (SMap (BitVec 48)) := none
  slots : List Group := []
  vfc : Word := 0
  vfe : Word := 0
  vfa : Dbl := 0
  vprog : Word := 0
  fault : Bool := false
  deriving DecidableEq, Repr

/-- Where a cluster stands between contexts (R192, R194, R197): a leaving context executes nothing more and waits for
its switch-out. -/
inductive Phase where
  | free
  | restoring
  | running
  | leaving
  deriving DecidableEq, Repr

/-- One cluster: steward core, stream engine registers, accumulators, cluster block (09, 04, 05, 11, 15). -/
structure Core where
  pc : Dbl := 0
  w : SMap Word := []
  a : SMap Dbl := []
  am : SMap Word := []
  f : SMap Dbl := []
  t : SMap Word := []
  ac : SMap (BitVec 48) := []
  cst : Cst := {}
  vmode : Word := 0x60
  fmode : Word := 0
  vm1 : Word := 0x60
  vm2 : Word := 0x60
  fm1 : Word := 0
  fm2 : Word := 0
  cnt : Word := 0
  lk : Dbl := 0
  mh : Word := 0
  ml : Word := 0
  vprog : Word := 0
  vfc : Word := 0
  vfe : Word := 0
  vfa : Dbl := 0
  causeS : Word := 0
  causeM : Word := 0
  evb : Dbl := 0
  ssb : Dbl := 0
  gtb : Dbl := 0
  gtn : Word := 0
  halt : BitVec 2 := 0
  sfh : Bool := false
  wctl : Word := 0
  wcnt : Word := 0
  ipend : Word := 0
  imask : Word := 0x100
  mevb : Dbl := 0
  msb : Dbl := 0
  mgtb : Dbl := 0
  mgtn : Word := 0
  mset : BitVec 7 := 0
  mflt : Bool := false
  scratch : SMap Word := []
  resv : Option Nat := none
  rep : Option Nat := none
  repNew : Bool := false
  stale : List Stale := []
  loads : List PendLoad := []
  mstart : List (Nat × BitVec 40) := []
  div : Option DivPend := none
  vbar : Bool := false
  sbuf : List SbEntry := []
  mchk : Option (Nat × BusErr) := none
  fbuf : List FLine := []
  groups : List Group := []
  stopped : List Group := []
  bound : Option Nat := none
  phase : Phase := .free
  boundPips : Nat := 0
  bindNo : Nat := 0
  claim : Nat := 0
  preempt : Option LeaveKind := none
  out : Option Outgoing := none
  vecIn : Option VecIn := none
  inVec : Bool := false
  rc : RcState := .running
  rcPl : Priv := .u
  rcSel : Word := 0
  rolling : Bool := false
  deriving DecidableEq, Repr

/-- A core after reset: every field at its default above. -/
def Core.reset : Core := {}

/-! ## The region -/

/-- An access waiting at a board with the turns it has waited (R37, R52 C0_LATE). -/
structure PendAcc where
  req : BoardReq
  age : Nat
  deriving DecidableEq, Repr

/-- A granted access and what it returned. -/
structure Grant where
  slot : Nat
  off : Nat
  result : LdData
  deriving DecidableEq, Repr

/-- A write-back that a scrubber holds for its next turn (R37, R353): the word's address and the stored form to
write. A newer write of the word drops it. -/
structure WriteBack where
  addr : Nat
  cell : BitVec 31
  deriving DecidableEq, Repr

/-- One region: board, power, monitors (02, 14, 15). -/
structure Region where
  ctl : Word := 0
  c0late : Bool := false
  vf : Word := 0x514
  vnow : Nat := 40
  know : Nat := 20
  ramp : Bool := false
  pend : Bool := false
  thermal : Nat := 0
  cap : Nat := 0
  turns : Word := 0xC0
  turnsNow : Word := 0xC0
  moved : BitVec 7 := 0x7F
  target : BitVec 7 := 0
  cstat : CStat := .idle
  row : Nat := 0
  copySq : BitVec 7 := 0
  copyWr : Option Nat := none
  copyCell : BitVec 31 := 0
  castleWait : Bool := false
  contend : Dbl := 0
  turn : Nat := 0
  ptr : Nat := 0
  waiting : List PendAcc := []
  grants : List Grant := []
  spare : SMap (BitVec 31) := []
  flip : Dbl := 0
  flipLow : Word := 0
  rmth : BitVec 8 := 0x3C
  low : Bool := false
  lowsq : BitVec 7 := 0
  temp : BitVec 12 := 0
  tempOk : Bool := false
  eqt : Dbl := 0
  eqtFrac : Nat := 0
  cp : SMap Word := []
  sq : SMap Word := []
  pstate : PState := .off
  needsClear : Bool := false
  filling : Bool := false
  fromNap : Bool := false
  scrubWake : Option PState := none
  wakeLeft : Bool := false
  idlePips : Nat := 0
  scrubPtr : Nat := 0
  scrubDue : Bool := false
  scrubLast : Nat := 0
  scrubWb : List WriteBack := []
  rollNext : Bool := false
  deriving DecidableEq, Repr

/-- A region after a cold reset. -/
def Region.reset : Region := {}

/-! ## DMA -/

/-- A descriptor set (R294, R295). -/
structure DmaSet where
  src : Dbl := 0
  dst : Dbl := 0
  sstr : Dbl := 0
  dstr : Dbl := 0
  count : Word := 0
  rows : Word := 0
  ctl : Word := 0
  deriving DecidableEq, Repr

/-- A read beat that a channel has presented and that has not returned (R299): the index of its first word in the transfer,
its address and words, and how many words of the transfer had their writes presented before it (R288). -/
structure DmaRead where
  t : Nat
  addr : Int
  cnt : Nat
  writes : Nat
  deriving DecidableEq, Repr

/-- A write that a channel has presented and that is not answered (R299): the index of its first word in the
transfer, its address and its words, and how many words of the transfer had their reads presented before it (R288). -/
structure DmaWrite where
  t : Nat
  addr : Int
  ws : List Word
  reads : Nat := 0
  deriving DecidableEq, Repr

/-- The failing access of a channel (R303): cause, whether a write, address, index in the transfer. -/
structure DmaFail where
  cause : Nat
  wr : Bool
  addr : Dbl
  t : Nat
  deriving DecidableEq, Repr

/-- One DMA channel (R293-R301). -/
structure Dma where
  act : DmaSet := {}
  sh : DmaSet := {}
  rlen : Word := 0
  state : DmaState := .idle
  stopreq : Bool := false
  tlost : Bool := false
  wr : Bool := false
  cause : BitVec 4 := 0
  ndesc : BitVec 8 := 0
  trig : Word := 0
  ctx : Word := 0
  done : Dbl := 0
  faddr : Dbl := 0
  src0 : Int := 0
  dst0 : Int := 0
  rows0 : Nat := 0
  readT : Nat := 0
  rq : List DmaRead := []
  wrT : Nat := 0
  wq : List DmaWrite := []
  fail : Option DmaFail := none
  killed : Bool := false
  unpred : Bool := false
  deriving DecidableEq, Repr

/-- A channel after reset. -/
def Dma.reset : Dma := {}

/-! ## Links -/

/-- A frame queued for transmission (R321, R329), or a fragment that has left of a frame still queued (R314). -/
inductive TxFrame where
  | eth (c0 : Bool) (kind : Nat) (onestep : Bool) (seqId : Nat) (bytes : List Byte)
  | msg (vc : Bool) (f : BosumFrame)
  | frag (bytes : List Byte)
  deriving DecidableEq, Repr

/-- A frame in a Bosum link's replay buffer (R322). -/
structure Unacked where
  seq : BitVec 12
  f : BosumFrame
  deriving DecidableEq, Repr

/-- One link port (R312-R323, R332). -/
structure Port where
  ctl : Word := 0
  up : BitVec 8 := 0
  lock : BitVec 8 := 0
  bdown : Bool := false
  pv : Bool := false
  peer : BitVec 12 := 0
  svc : Word := 0
  mac : BitVec 48 := 0
  cnts : SMap Dbl := []
  txq : List (Nat × TxFrame) := []
  sent : List TxFrame := []
  linkUp : Bool := false
  initGot : Bool := false
  initSent : Bool := false
  txSeq : BitVec 12 := 0
  rxSeq : BitVec 12 := 0
  unacked : List Unacked := []
  tok0 : Nat := 0
  tok1 : Nat := 0
  ret0 : Nat := 0
  ret1 : Nat := 0
  ackDue : Bool := false
  replays : Nat := 0
  pver : Bool := false
  cut : SMap Nat := []
  deriving DecidableEq, Repr

/-- A port after reset. -/
def Port.reset : Port := {}

/-- A delivery that the dispatcher holds (R196, R326): the target, the entry, the flow entry that made it with the WK that
was read from it, the port, channel and tokens of the receive buffer that holds it (R321), and, once a write has replaced
its flow entry, which write and the count that the old entry has come to (R317). -/
structure Delivery where
  ctx : Nat
  words : List Word
  flow : Option Nat
  buf : Option (Nat × Bool × Nat)
  wk : Nat := 0
  old : Option (Nat × BitVec 16) := none
  deriving DecidableEq, Repr

/-- The device-wide link registers and tables (R316, R317, R329, R332). -/
structure Lnk where
  devnum : BitVec 12 := 0
  ftIdx : SMap Word := []
  ftD : SMap Word := []
  sigLow : SMap Word := []
  noroute : Dbl := 0
  nobox : Dbl := 0
  flow : SMap Word := []
  era : Nat := 0
  tmpl : SMap Word := []
  route : SMap Word := []
  deliveries : List Delivery := []
  deriving DecidableEq, Repr

/-! ## Time -/

/-- One PTP timer (R334). -/
structure Timer where
  next : BitVec 80 := 0
  buf : SMap Word := []
  period : Dbl := 0
  en : Bool := false
  wake : Bool := false
  fired : Bool := false
  ctx : Word := 0
  deriving DecidableEq, Repr

/-- A timer after reset. -/
def Timer.reset : Timer := {}

/-- The PTP block (R333, R334) and the timing pins (R336). -/
structure Ptp where
  time : BitVec 80 := 0
  frac : BitVec 32 := 0
  rate : Dbl := 0x19999999A#40
  latch : SMap Word := []
  setBuf : SMap Word := []
  adjLow : Word := 0
  ppsen : Bool := false
  ppsw : BitVec 8 := 0x64
  ppsf : Bool := false
  syncok : Bool := false
  svcen : Bool := false
  svc : Word := 0
  ppscap : BitVec 80 := 0
  todcap : BitVec 80 := 0
  pipcap : BitVec 60 := 0
  syncerr : Dbl := 0
  syncLast : BitVec 80 := 0
  syncFrac : BitVec 32 := 0
  ppsOut : Bool := false
  ppsRise : BitVec 80 := 0
  turned : Bool := false
  deriving DecidableEq, Repr

/-- PIP_NOW and its latched words per master (R372). -/
structure Pip where
  now : BitVec 60 := 0
  latch : SMap Word := []
  deriving DecidableEq, Repr

/-! ## Scheduler -/

/-- A command held BUSY (R189): its writer, operation and context, and whether it is a SUSPEND whose preemption has
begun. -/
structure HeldCmd where
  who : Nat
  op : BitVec 4
  ctx : Nat
  begun : Bool := false
  deriving DecidableEq, Repr

/-- The CTX block and the ready queues (R188, R197, R201). -/
structure Sched where
  arg : SMap Word := []
  stat : SMap Word := []
  slice : Word := 0x40
  c0act : Nat := 0
  qa : SMap Word := []
  ua : SMap Nat := []
  qt : SMap Nat := []
  ut : SMap Nat := []
  ready : SMap (List Nat) := []
  held : List HeldCmd := []
  waitRegs : SMap Nat := []
  rebuilt : Bool := true
  binds : Nat := 0
  deriving DecidableEq, Repr

/-! ## Host, integrity, rolls, power, start-up, debug -/

/-- What a host read returned (R339, R349). -/
inductive Cpl where
  | data (v : BitVec 32)
  | abort
  | ep
  deriving DecidableEq, Repr

/-- The HOST block and the endpoint (R338-R343). -/
structure HostBlk where
  lten : Bool := false
  hrst : Bool := false
  width : BitVec 3 := 0
  speed : BitVec 3 := 0
  lup : Bool := false
  bme : Bool := false
  d3 : Bool := false
  win : Dbl := 0
  dmahi : Word := 0
  err : BitVec 4 := 0
  eaddr : Dbl := 0
  h2kBusy : Bool := false
  h2kLen : BitVec 12 := 0
  k2hBusy : Bool := false
  k2hLen : BitVec 12 := 0
  imap : SMap Word := []
  buf : SMap Word := []
  msix : SMap (BitVec 32) := []
  pba : BitVec 64 := 0
  msixEn : Bool := false
  fmask : Bool := false
  aer : BitVec 32 := 0
  fell : Bool := false
  deriving DecidableEq, Repr

/-- What a ledger operation in progress does (R350, R362): a cell programmed, a slot erased, or a record of the keeper
firmware written into its slot. -/
inductive LdgOp where
  | program (cell : Nat) (v : BitVec 16)
  | erase (slot : Nat)
  | record (seq : Nat) (cells : List (BitVec 16))
  deriving DecidableEq, Repr

/-- The INT block and the ledger (R350, R351, R362). -/
structure IntBlk where
  celog : Bool := false
  ivl : Word := 0x38400
  age : Bool := false
  lost : Word := 0
  wr : Word := 0
  rd : Word := 0
  flipAddr : Dbl := 0
  ldgCell : BitVec 15 := 0
  ldgOp : Option LdgOp := none
  ce : SMap Word := []
  ue : SMap Word := []
  log : SMap Word := []
  ledger : SMap (BitVec 16) := []
  deriving DecidableEq, Repr

/-- The ROLL block (R365). -/
structure Rolls where
  res : SMap Word := []
  st : SMap Word := []
  sig : SMap Dbl := []
  deriving DecidableEq, Repr

/-- The PWR block and the power input (R372, R392-R401). -/
structure Pwr where
  dev : DevState := .active
  napidle : Word := 0x400
  vin : BitVec 13 := 0
  iin : BitVec 13 := 0
  pin : BitVec 13 := 0
  pdev : BitVec 13 := 0
  cap : BitVec 9 := 0x1F4
  capnow : BitVec 13 := 0x1388
  bind : Bool := false
  ilim : Bool := false
  low : Bool := false
  uvw : Bool := false
  ovw : Bool := false
  underCap : Nat := 0
  ilimPips : Nat := 0
  robin : Nat := 0
  steps : List Nat := []
  statInput : Byte := 0
  statTemp : Byte := 0
  cml : Bool := false
  ioTemp : BitVec 12 := 0
  deriving DecidableEq, Repr

/-- How far start-up has come (R374). -/
inductive BootStage where
  | held
  | started
  | fused
  | rom
  | rolled
  | cleared
  | firmware
  | recovery
  | stopped
  deriving DecidableEq, Repr

/-- What holds the device in reset (R377, R392). -/
inductive ResetHold where
  | none
  | porst
  | wrst
  | internalWarm
  | internalCold
  | power
  deriving DecidableEq, Repr

/-- Fuse programming in progress (R381). -/
inductive FuseOp where
  | none
  | enroll (okh : BitVec 384) (osk : BitVec 256)
  | sealing
  | toReturn
  | toVoid
  deriving DecidableEq, Repr

/-- The DEV block, fuses, straps, pins and resets (R376-R382, R398). -/
structure Dev where
  gx4816 : Bool := false
  disabled : List Nat := []
  lc : BitVec 3 := 0
  owner : Bool := false
  okh : BitVec 384 := 0
  osk : BitVec 256 := 0
  destroyed : Bool := false
  slot : BitVec 2 := 3
  bootCause : BitVec 4 := 0
  src : BitVec 3 := 0
  sadr : BitVec 3 := 0
  tmode : BitVec 2 := 0
  version : BitVec 32 := 0
  stage : BootStage := .started
  hbmFilled : Bool := false
  rst : ResetHold := .none
  fuseOp : FuseOp := .none
  porst : Bool := true
  wrst : Bool := true
  thermtrip : Bool := false
  dieDown : BitVec 4 := 0
  deriving DecidableEq, Repr

/-- An access of the debug master in flight (R390). -/
inductive DbgOp where
  | read
  | write (v : Word)
  deriving DecidableEq, Repr

/-- The DBG block (R390). -/
structure Dbg where
  addr : Dbl := 0
  data : Word := 0
  allowse : Bool := false
  inc : Bool := false
  op : Option DbgOp := none
  side : Bool := false
  err : Bool := false
  cause : BitVec 4 := 0
  deriving DecidableEq, Repr

/-- A response of the monitor: command code, sequence number, payload, and its MAC where the session gives one
(R383). -/
structure MonResp where
  cmd : Byte
  seq : BitVec 16
  payload : List Byte
  mac : Option (BitVec 128)
  deriving DecidableEq, Repr

/-- One channel of the monitor (R383, R386): the pending exchange, the session's key, role, next number and the pip of
its last valid request, failed proofs, the pip at which they locked the channel, and the last response. -/
structure MonCh where
  exch : Option (Byte × List Byte × Nat) := none
  key : Option (List Byte) := none
  role : Byte := 0
  next : BitVec 16 := 0
  last : Nat := 0
  fails : Nat := 0
  lockedAt : Option Nat := none
  resp : Option MonResp := none
  deriving DecidableEq, Repr

/-- A burst that waits at a target port: its request, the beats that it has still to move, and whether a piece of it has been
granted (R285, R291). -/
structure Burst where
  req : PieceReq
  left : Nat
  begun : Bool := false
  deriving DecidableEq, Repr

/-- One die fabric: for each target port where the rotation stands and how many class-0 grants have passed another piece
(R286), the bursts waiting, the granted pieces whose last beat has not crossed, each with its burst's rest, and the ports,
master ports after the target ports, whose clock has stopped (R289). -/
structure Fabric where
  rot : SMap Nat := []
  c0run : SMap Nat := []
  waiting : SMap (List Burst) := []
  flight : SMap (List Burst) := []
  stopped : SMap Bool := []
  deriving DecidableEq, Repr

/-- A fabric after reset. -/
def Fabric.reset : Fabric := {}

/-- The keeper firmware's own work (R360, R362, R363, R374): whether it has restored the plan since it started and
whether the start was a cold one, the pips of its last ledger record and daily plan, a record that it has still to write,
and the regions whose records of KIND 0x0E it has not acted on. -/
structure Keeper where
  cold : Bool := true
  restored : Bool := false
  lastRecord : Nat := 0
  lastPlan : Nat := 0
  due : Bool := false
  low : List Nat := []
  plans : List Nat := []
  deriving DecidableEq, Repr

/-- What the outside and the keeper core have been told, oldest first. -/
structure Outs where
  keeper : List KeeperIrq := []
  msix : List (Nat × Nat) := []
  cpls : List Cpl := []
  hostMem : SMap (BitVec 32) := []
  hbmReads : List LdData := []
  hbmWrites : List (Option BusErr) := []
  smbus : List Byte := []
  smbusAck : Bool := true
  deriving DecidableEq, Repr

/-- The module. -/
structure State where
  pending : List Instr := []
  draws : Nat := 0
  cores : SMap Core := []
  regions : SMap Region := []
  mem : SMap (BitVec 31) := []
  hbm : SMap (BitVec 512) := []
  walkers : SMap Nat := []
  walkWb : List WriteBack := []
  sched : Sched := {}
  dmas : SMap Dma := []
  ports : SMap Port := []
  lnk : Lnk := {}
  ptp : Ptp := {}
  timers : SMap Timer := []
  pip : Pip := {}
  host : HostBlk := {}
  int : IntBlk := {}
  rolls : Rolls := {}
  pwr : Pwr := {}
  dev : Dev := {}
  dbg : Dbg := {}
  monU : MonCh := {}
  monM : MonCh := {}
  fabrics : SMap Fabric := []
  keeper : Keeper := {}
  outs : Outs := {}
  deriving DecidableEq, Repr

/-- The module out of cold reset, at the first stage of start-up, before any command (DESIGN CHOICE log 7, DESIGN CHOICE log 26). -/
def State.reset : State := {}

end Sys2Proof.Machine
end

