-- ==== Sys2Proof/Machine/Flags.lean ====
section
/-! DEFINITION. Integer and fixed-point arithmetic with its flags (R59-R73), and the flag words. -/

namespace Sys2Proof.Machine

/-- The bits [hi:lo] of a word as a number. -/
def bits {w : Nat} (x : BitVec w) (hi lo : Nat) : Nat := (x.toNat >>> lo) % 2 ^ (hi - lo + 1)

/-- Bit i of a word. -/
def bit {w : Nat} (x : BitVec w) (i : Nat) : Bool := x.getLsbD i

/-- A flag as a number. -/
def b2n (b : Bool) : Nat := if b then 1 else 0

/-- Sign extension of a word to a double (00_scope, sext). -/
def sext40 {w : Nat} (x : BitVec w) : Dbl := x.signExtend 40

/-- The double of a low and a high word (R9). -/
def dbl (lo hi : Word) : Dbl := hi ++ lo

/-- The low word of a double. -/
def loW (x : Dbl) : Word := x.extractLsb' 0 20

/-- The high word of a double. -/
def hiW (x : Dbl) : Word := x.extractLsb' 20 20

/-- A 40-bit register with its low word replaced. -/
def putLo (x : Dbl) (v : Word) : Dbl := dbl v (hiW x)

/-- A 40-bit register with its high word replaced. -/
def putHi (x : Dbl) (v : Word) : Dbl := dbl (loW x) v

/-- The exact shift of R113 and R143 by a possibly negative amount is split by the caller; this is rounding of R64 to
fewer fraction bits. -/
def rnd (x : Int) (s : Nat) (mode : BitVec 2) : Int :=
  if s = 0 then x
  else
    let q := x / (2 : Int) ^ s
    let f := x % (2 : Int) ^ s
    let h := (2 : Int) ^ (s - 1)
    if mode = 0 then q
    else if mode = 1 then (if f ≥ h then q + 1 else q)
    else if mode = 2 then (if f > h ∨ (f = h ∧ q % 2 = 1) then q + 1 else q)
    else (if x < 0 ∧ f ≠ 0 then q + 1 else q)

/-- The signed range of n bits. -/
def fitsS (y : Int) (n : Nat) : Bool := decide (-((2 : Int) ^ (n - 1)) ≤ y ∧ y < (2 : Int) ^ (n - 1))

/-- The unsigned range of n bits. -/
def fitsU (y : Int) (n : Nat) : Bool := decide (0 ≤ y ∧ y < (2 : Int) ^ n)

/-- The low n bits of an integer read as a signed value. -/
def wrapS (y : Int) (n : Nat) : Int := (BitVec.ofInt n y).toInt

/-- The low n bits of an integer read as an unsigned value. -/
def wrapU (y : Int) (n : Nat) : Int := ((BitVec.ofInt n y).toNat : Int)

/-- Clamping to the signed n-bit range (00_scope, sat). -/
def satS (y : Int) (n : Nat) : Int :=
  if y < 0 then -((2 : Int) ^ (n - 1)) else (2 : Int) ^ (n - 1) - 1

/-- Narrowing to n signed bits (R65): the value and OV. -/
def narrow (x : Int) (s : Nat) (mode : BitVec 2) (sat : Bool) (n : Nat) : Int × Bool :=
  let y := rnd x s mode
  if fitsS y n then (y, false)
  else (if sat then satS y n else wrapS y n, true)

/-- Narrowing to n unsigned bits (R143): the value and OV. -/
def narrowU (x : Int) (s : Nat) (mode : BitVec 2) (sat : Bool) (n : Nat) : Int × Bool :=
  let y := rnd x s mode
  if fitsU y n then (y, false)
  else (if sat then (if y < 0 then 0 else (2 : Int) ^ n - 1) else wrapU y n, true)

/-- Negation by R71 at n bits. -/
def negate (x : Int) (sat : Bool) (n : Nat) : Int × Bool :=
  if x = -((2 : Int) ^ (n - 1)) then (if sat then (2 : Int) ^ (n - 1) - 1 else x, true) else (-x, false)

/-- Absolute value by R71 at n bits. -/
def absolute (x : Int) (sat : Bool) (n : Nat) : Int × Bool :=
  if x < 0 then negate x sat n else (x, false)

/-- Logical right shift (R72). -/
def shrL {n : Nat} (x : BitVec n) (c : Nat) : BitVec n := x >>> c

/-- Arithmetic right shift (R72). -/
def shrA {n : Nat} (x : BitVec n) (c : Nat) : BitVec n := x.sshiftRight c

/-- Logical left shift (R72). -/
def shlL {n : Nat} (x : BitVec n) (c : Nat) : BitVec n := x <<< c

/-- Saturating left shift (R72). A count of n or more sets OV for every x but 0, and its low bits are all 0. -/
def shlS (x : Int) (c : Nat) (sat : Bool) (n : Nat) : Int × Bool :=
  if c < n then narrow (x * (2 : Int) ^ c) 0 0 sat n
  else if x = 0 then (0, false)
  else (if sat then satS x n else 0, true)

/-- A division's quotient, remainder and flags (R73). The remainder has the sign of the dividend. -/
structure DivRes where
  q : Word
  r : Word
  ov : Bool
  dz : Bool

/-- Signed division of a by b, quotient of one word (R73). The remainder of a division by zero is the dividend's
low word. -/
def divS (a b : Int) (sat : Bool) : DivRes :=
  if b = 0 then
    { q := if a < 0 then 0x80000 else 0x7FFFF, r := BitVec.ofInt 20 a, ov := false, dz := true }
  else
    let q := narrow (Int.tdiv a b) 0 0 sat 20
    { q := BitVec.ofInt 20 q.1, r := BitVec.ofInt 20 (Int.tmod a b), ov := q.2, dz := false }

/-- Unsigned division of a by b, quotient of one word (R73, R143). -/
def divU (a b : Nat) (sat : Bool) : DivRes :=
  if b = 0 then { q := 0xFFFFF, r := BitVec.ofNat 20 a, ov := false, dz := true }
  else
    let q := narrowU ((a / b : Nat) : Int) 0 0 sat 20
    { q := BitVec.ofInt 20 q.1, r := BitVec.ofNat 20 (a % b), ov := q.2, dz := false }

/-- The saturation setting S of a SAT field beside VMODE (R65, R244): none where the field is excluded. -/
def satOf (f : BitVec 2) (vmode : Word) : Option Bool :=
  if f = 0 then some (bit vmode 6) else if f = 1 then some false else if f = 2 then some true else none

/-- The rounding mode of RDEF and RM beside VMODE (R65, R244). -/
def rmOf (rdef : Bool) (rm : BitVec 2) (vmode : Word) : BitVec 2 :=
  if rdef then vmode.extractLsb' 4 2 else rm

/-- Both sets of flags. -/
def Flags.or (a b : Flags) : Flags :=
  { ov := a.ov || b.ov, dz := a.dz || b.dz, nv := a.nv || b.nv, fdz := a.fdz || b.fdz,
    ofl := a.ofl || b.ofl, ufl := a.ufl || b.ufl, nx := a.nx || b.nx }

/-- VMODE with raised flags set (R66, R81). -/
def mergeV (v : Word) (f : Flags) : Word :=
  v ||| (if f.dz then 0x200 else 0) ||| (if f.ov then 0x100 else 0)

/-- FMODE with raised flags set (R82). -/
def mergeF (v : Word) (f : Flags) : Word :=
  v ||| (if f.nv then 0x40 else 0) ||| (if f.fdz then 0x20 else 0) ||| (if f.ofl then 0x10 else 0)
    ||| (if f.ufl then 0x8 else 0) ||| (if f.nx then 0x4 else 0)

/-- The flags that trap (R84), in the order of VFC.FLG: NV, DZ, OF, UF, NX (R165). -/
def trapFlags (f : Flags) (vmode fmode : Word) : Nat :=
  16 * b2n (f.nv && bit fmode 11) + 8 * b2n ((f.dz && bit vmode 7) || (f.fdz && bit fmode 10))
    + 4 * b2n (f.ofl && bit fmode 9) + 2 * b2n (f.ufl && bit fmode 8) + b2n (f.nx && bit fmode 7)

/-- The CST word (R213); RSV is bit 7. -/
def Cst.word (c : Cst) (rsv : Bool) : Word :=
  BitVec.ofNat 20 ((match c.pl with | .u => 0 | .s => 1 | .m => 3) * 1024 + b2n c.ie * 512 + b2n c.rpt * 256
    + b2n rsv * 128 + b2n c.n * 4 + b2n c.z * 2 + b2n c.c)

/-- The code of a level (R213). -/
def Priv.code (p : Priv) : Nat := match p with | .u => 0 | .s => 1 | .m => 3

/-- The level of a code; 10 names none. -/
def Priv.ofCode (n : Nat) : Option Priv :=
  if n = 0 then some .u else if n = 1 then some .s else if n = 3 then some .m else none

/-- A stored CST word's fields, at a given level. -/
def Cst.ofWord (x : Word) (pl : Priv) : Cst :=
  { pl := pl, ie := bit x 9, rpt := bit x 8, n := bit x 2, z := bit x 1, c := bit x 0 }

/-- N and Z of a result (R241). -/
def Cst.nz (c : Cst) (r : Word) : Cst := { c with n := bit r 19, z := r == 0 }

/-- N, Z and C of a sum of two words and a carry (R241, R232): the sum and the flags. -/
def addFlags (c : Cst) (x y : Word) (cin : Bool) : Word × Cst :=
  let t := x.toNat + y.toNat + b2n cin
  let r := BitVec.ofNat 20 t
  (r, { c with n := bit r 19, z := r == 0, c := decide (2 ^ 20 ≤ t) })

/-- As addFlags, with Z chained across words (R232). -/
def adcFlags (c : Cst) (x y : Word) : Word × Cst :=
  let r := addFlags c x y c.c
  (r.1, { r.2 with z := c.z && r.2.z })

end Sys2Proof.Machine
end

