-- ==== Sys2Proof/Machine/Operands.lean ====
section
/-! DEFINITION. Reading and writing the registers of a steward core, and the address forms (R208-R213, R217, R246). -/

namespace Sys2Proof.Machine

/-! ## W registers (R209) -/

/-- Where a W register lives: W30 is banked by level. -/
def wKey (pl : Priv) (n : BitVec 5) : Nat :=
  if n = 30 then (match pl with | .u => 32 | .s => 33 | .m => 34) else n.toNat

/-- A W register read at the executing level; W0 reads 0. -/
def Core.wr (c : Core) (n : BitVec 5) : Word := if n = 0 then 0 else SMap.get 0 c.w (wKey c.cst.pl n)

/-- A slot of an outstanding load that a later write of its register supersedes (R217). -/
def cancelSlot (p : Slot → Bool) (l : PendLoad) : PendLoad :=
  { l with slots := l.slots.map (fun x => if p x then .nil else x) }

/-- Outstanding loads no longer write what an instruction has written since (R217). -/
def Core.cancel (c : Core) (p : Slot → Bool) : Core := { c with loads := c.loads.map (cancelSlot p) }

/-- A W register written by an instruction; a write of W0 is discarded. -/
def Core.setW (c : Core) (n : BitVec 5) (v : Word) : Core :=
  if n = 0 then c
  else
    let k := wKey c.cst.pl n
    { c.cancel (fun x => x == .w k) with w := SMap.set 0 c.w k v }

/-- The even and odd registers of a pair (R229). -/
def pairLo (d : BitVec 5) : BitVec 5 := d &&& 0x1E
/-- The odd register of a pair. -/
def pairHi (d : BitVec 5) : BitVec 5 := d ||| 1

/-- A register pair written, low word in the even register. -/
def Core.setPair (c : Core) (d : BitVec 5) (v : Dbl) : Core := (c.setW (pairLo d) (loW v)).setW (pairHi d) (hiW v)

/-- A register pair read. -/
def Core.pair (c : Core) (n : BitVec 5) : Dbl := dbl (c.wr (pairLo n)) (c.wr (pairHi n))

/-! ## A, AM and F registers (R208, R210, R211) -/

/-- An address register. -/
def Core.ar (c : Core) (n : BitVec 3) : Dbl := SMap.get 0 c.a n.toNat
/-- The undo of a load's post-modification is dropped once a later instruction writes the register (DEDUCED log 11). -/
def keepUndo (n : Nat) (l : PendLoad) : PendLoad :=
  match l.undo with
  | some u => if u.1 = n then { l with undo := none } else l
  | none => l

/-- An address register written by an instruction. -/
def Core.setA (c : Core) (n : BitVec 3) (v : Dbl) : Core :=
  let d := c.cancel (fun x => x == .alo n.toNat || x == .ahi n.toNat)
  { d with a := SMap.set 0 c.a n.toNat v, loads := d.loads.map (keepUndo n.toNat) }
/-- An AM register. -/
def Core.amr (c : Core) (n : BitVec 3) : Word := SMap.get 0 c.am n.toNat
/-- An AM register written. -/
def Core.setAm (c : Core) (n : BitVec 3) (v : Word) : Core := { c with am := SMap.set 0 c.am n.toNat v }
/-- An F register. -/
def Core.fr (c : Core) (n : Nat) : Dbl := SMap.get 0 c.f n
/-- An F register written by an instruction. -/
def Core.setF (c : Core) (n : Nat) (v : Dbl) : Core :=
  { c.cancel (fun x => x == .flo n || x == .fhi n || x == .flw n) with f := SMap.set 0 c.f n v }

/-- Lane j of Vn as 8 lanes of 20 bits (R211). -/
def Core.v20 (c : Core) (n j : Nat) : Word :=
  if j % 2 = 0 then loW (c.fr (4 * n + j / 2)) else hiW (c.fr (4 * n + j / 2))

/-- Lane j of Vn as 4 lanes of 40 bits (R211). -/
def Core.v40 (c : Core) (n j : Nat) : Dbl := c.fr (4 * n + j)

/-- Vn written as 4 lanes of 40 bits. -/
def Core.setV40 (c : Core) (n : Nat) (l : List Dbl) : Core :=
  [0, 1, 2, 3].foldl (fun c j => c.setF (4 * n + j) (l.getD j 0)) c

/-- Vn written as 8 lanes of 20 bits. -/
def Core.setV20 (c : Core) (n : Nat) (l : List Word) : Core :=
  c.setV40 n ([0, 1, 2, 3].map (fun i => dbl (l.getD (2 * i) 0) (l.getD (2 * i + 1) 0)))

/-! ## Address update (R210) -/

/-- The number of bits b with 2^b ≥ n, for n from 1 to 2^18. -/
def log2Up (n : Nat) : Nat := (List.range 19).foldl (fun b i => if 2 ^ b < n then i + 1 else b) 0

/-- The low k bits of x in reverse order. -/
def revBits (x : Nat) : Nat → Nat
  | 0 => 0
  | k + 1 => x % 2 * 2 ^ k + revBits (x / 2) k

/-- upd(a, inc, am) of R210. -/
def upd (a : Dbl) (inc : Int) (am : Word) : Dbl :=
  let m := bits am 19 18
  if m = 1 then
    let n := bits am 17 0 + 1
    let b := log2Up n
    let base := a.toNat / 2 ^ b * 2 ^ b
    BitVec.ofNat 40 (base + ((a.toNat - base + inc : Int) % n).toNat)
  else if m = 2 then
    let k := bits am 4 0
    if k = 0 ∨ 20 < k then a + BitVec.ofInt 40 inc
    else
      let low := a.toNat % 2 ^ k
      let lo := ((revBits low k + inc : Int) % 2 ^ k).toNat
      BitVec.ofNat 40 (a.toNat - low + revBits lo k)
  else a + BitVec.ofInt 40 inc

/-- The four address forms of R246: the access address, and the address register's new value where the form updates
it. The offset is the signed field x in modes 00 and 01, and the register that r names in modes 10 and 11. -/
def eaOf (c : Core) (a : BitVec 3) (mode : BitVec 2) (x : Int) (r : BitVec 5) : Dbl × Option Dbl :=
  let b := c.ar a
  let d := if mode.toNat < 2 then x else (c.wr r).toInt
  if mode.toNat % 2 = 0 then (b + BitVec.ofInt 40 d, none) else (b, some (upd b d (c.amr a)))

/-- An address operand as R246 and R247 read it: none where word 1 of a register form has bits beyond the number. -/
def Core.ea (c : Core) (e : MemEa) : Option (BitVec 3 × Dbl × Option Dbl) :=
  match e with
  | .one a mode x => some (a, eaOf c a mode x.toInt x)
  | .two m =>
    if m.mode.toNat < 2 ∨ m.x.toNat < 32 then some (m.a, eaOf c m.a m.mode m.x.toInt (m.x.extractLsb' 0 5)) else none

/-- The length of an instruction with this address operand (R237, R247). -/
def eaLen (e : MemEa) : Nat := match e with | .one _ _ _ => 1 | .two _ => 2

/-! ## Control registers (R212, R213, R261, R262) -/

/-- The CST word with RSV as the reservation stands. -/
def Core.cstWord (c : Core) : Word := c.cst.word c.resv.isSome

/-- MSTAT (R262). -/
def Core.mstat (c : Core) : Word := BitVec.ofNat 20 (c.halt.toNat * 4 + b2n c.sfh * 2)

/-- CAUSE of a level. -/
def Core.causeOf (c : Core) (pl : Priv) : Word := if pl = .m then c.causeM else c.causeS

/-- A control register's value; none for a number that is reserved (R212, R261). -/
def Core.ctl (c : Core) (n : Nat) : Option Word :=
  match n with
  | 0 => some c.cstWord
  | 1 => some (c.causeOf c.cst.pl)
  | 2 => some c.vprog
  | 3 => some c.vmode
  | 4 => some c.fmode
  | 5 => some c.cnt
  | 6 => some (loW c.lk)
  | 7 => some (hiW c.lk)
  | 8 => some c.mh
  | 9 => some c.ml
  | 10 => some c.vfc
  | 11 => some c.vfe
  | 12 => some (loW c.vfa)
  | 13 => some (hiW c.vfa)
  | 16 => some (loW c.evb)
  | 17 => some (hiW c.evb)
  | 18 => some (loW c.ssb)
  | 19 => some (hiW c.ssb)
  | 20 => some (loW c.gtb)
  | 21 => some (hiW c.gtb)
  | 22 => some c.gtn
  | 23 => some c.mstat
  | 24 => some c.wctl
  | 25 => some c.wcnt
  | 26 => some c.ipend
  | 27 => some c.imask
  | _ => none

/-- A table length as it is stored: above 512 it is 512 (R262). -/
def gtnOf (v : Word) : Word := BitVec.ofNat 20 (min 512 (bits v 9 0))

/-- COUNT reloaded (R280): 16 × PERIOD, a PERIOD of 0 taken as 1. -/
def Core.reload (c : Core) : Core := { c with wcnt := BitVec.ofNat 20 (16 * max 1 (bits c.wctl 15 0)) }

/-- A write of WDOG_CTL (R279, R280): at S it cannot set LOCK and is ignored while LOCK is 1; leaving EN = 1 reloads. -/
def Core.setWctl (c : Core) (pl : Priv) (v : Word) : Core :=
  if pl != .m && bit c.wctl 18 then c
  else
    let w := if pl == .m then v &&& 0xCFFFF else v &&& 0x8FFFF
    let c := { c with wctl := w }
    if bit w 19 then c.reload else c

/-- IPEND written (R276): writing 1 clears; bit 8 only at M. -/
def Core.setIpend (c : Core) (pl : Priv) (v : Word) : Core :=
  { c with ipend := c.ipend &&& ~~~ (v &&& (if pl = .m then 0x103 else 0x003)) }

/-- IMASK written (R276): bit 8 only at M. -/
def Core.setImask (c : Core) (pl : Priv) (v : Word) : Core :=
  { c with imask := if pl = .m then v &&& 0x103 else (v &&& 0x003) ||| (c.imask &&& 0x100) }

/-- CST written by MTC (R213): PL and RSV stay, IE stays at U. -/
def Core.setCst (c : Core) (pl : Priv) (v : Word) : Core :=
  { c with cst := { Cst.ofWord v c.cst.pl with ie := if pl = .u then c.cst.ie else bit v 9 } }

/-- The defined bits of VMODE (R81) and FMODE (R82) written. -/
def Core.setVmode (c : Core) (v : Word) : Core := { c with vmode := v &&& 0x003F0 }
/-- FMODE written. -/
def Core.setFmode (c : Core) (v : Word) : Core := { c with fmode := v &&& 0x01FFF }

end Sys2Proof.Machine
end

