-- ==== Sys2Proof/Machine/Crc.lean ====
section
/-! DEFINITION. CRC-32 of IEEE 802.3, as monitor frames, ledger records and Bosum frames carry it (R319, R362, R383), and
numbers as bytes. -/

namespace Sys2Proof.Machine

/-- One bit of the reflected CRC-32 of IEEE 802.3. -/
def crcBit (c : BitVec 32) : BitVec 32 := if bit c 0 then (c >>> 1) ^^^ 0xEDB88320 else c >>> 1

/-- One byte taken into a CRC. -/
def crcByte (c : BitVec 32) (b : Byte) : BitVec 32 :=
  crcBit (crcBit (crcBit (crcBit (crcBit (crcBit (crcBit (crcBit (c ^^^ b.zeroExtend 32))))))))

/-- CRC-32 of bytes. -/
def crc32 (l : List Byte) : BitVec 32 := ~~~ l.foldl crcByte (BitVec.allOnes 32)

/-- The bytes of a number, the low one first. -/
def leBytes (v : Nat) : Nat → List Byte
  | 0 => []
  | n + 1 => BitVec.ofNat 8 v :: leBytes (v / 256) n

/-- A number as cells of 16 bits, the low one first (R362). -/
def leCells (v : Nat) : Nat → List (BitVec 16)
  | 0 => []
  | n + 1 => BitVec.ofNat 16 v :: leCells (v / 2 ^ 16) n

/-- Cells as bytes, the low byte of each first (R362). -/
def cellBytes (l : List (BitVec 16)) : List Byte := l.flatMap (fun c => leBytes c.toNat 2)

end Sys2Proof.Machine
end

