-- ==== Sys2Proof/Machine/Ecc.lean ====
section
/-! DEFINITION. The word code of region boards, context store and coefficient stores (R345-R348) and the block code
of HBM (R306-R308). -/

namespace Sys2Proof.Machine

/-- The sum (XOR) of the values p, step p, step (step p), … over the bits of x that are 1, bit 0 first, n bits. -/
def xorRun {w : Nat} (step : BitVec w → BitVec w) (p : BitVec w) (x : Nat) : Nat → BitVec w
  | 0 => 0
  | n + 1 => (if x % 2 = 1 then p else 0) ^^^ xorRun step (step p) (x / 2) n

/-- The least j below n with p advanced j times equal to t, or n. -/
def stepsTo {w : Nat} (step : BitVec w → BitVec w) (p t : BitVec w) : Nat → Nat
  | 0 => 0
  | n + 1 => if p = t then 0 else stepsTo step (step p) t n + 1

/-- Multiplication by x modulo a polynomial of degree w, given by its terms below x^w. -/
def mulX {w : Nat} (poly p : BitVec w) : BitVec w := (p <<< 1) ^^^ (if p.msb then poly else 0)

/-- Product in the field whose multiplication by α is step. -/
def gfMul {w : Nat} (step : BitVec w → BitVec w) (a b : BitVec w) : BitVec w := xorRun step a b.toNat w

/-- α to the power n. -/
def gfPow {w : Nat} (step : BitVec w → BitVec w) : Nat → BitVec w
  | 0 => 1
  | n + 1 => step (gfPow step n)

/-- Quotient in the field; b is not zero. -/
def gfDiv {w : Nat} (step : BitVec w → BitVec w) (a b : BitVec w) : BitVec w :=
  gfMul step a (gfPow step (2 ^ w - 1 - stepsTo step 1 b (2 ^ w - 1)))

/-- Exponents j below n at which x^2 + S1·x + C is 0 at α^j, from p on. -/
def quadRoots {w : Nat} (step : BitVec w → BitVec w) (s1 c p : BitVec w) (j : Nat) : Nat → List Nat
  | 0 => []
  | n + 1 =>
    let r := quadRoots step s1 c (step p) (j + 1) n
    if gfMul step p p ^^^ gfMul step s1 p ^^^ c = 0 then j :: r else r

/-- The pair of locations that the two-root row of R347 finds among the first n, if it finds two. -/
def twoRoots {w : Nat} (step : BitVec w → BitVec w) (s1 s3 : BitVec w) (n : Nat) : Option (Nat × Nat) :=
  let c := gfDiv step (s3 ^^^ gfMul step s1 (gfMul step s1 s1)) s1
  match quadRoots step s1 c 1 0 n with
  | [a, b] => some (a, b)
  | _ => none

/-- Whether an odd number of the low n bits of x are 1. -/
def oddBits (x n : Nat) : Bool := (xorRun (fun p => p) (1 : BitVec 1) x n) == 1

/-! ## The word code -/

/-- Multiplication by α in GF(2^5), p(x) = x^5 + x^2 + 1 (R345). -/
def x5 : BitVec 5 → BitVec 5 := mulX 0x05

/-- Multiplication by α^3. -/
def x5c (p : BitVec 5) : BitVec 5 := x5 (x5 (x5 p))

/-- Multiplication by x modulo g(x) = x^10 + x^9 + x^8 + x^6 + x^5 + x^3 + 1 (R345). -/
def xg : BitVec 10 → BitVec 10 := mulX 0x369

/-- The fold vectors of R346. -/
def foldVec : List (BitVec 10) :=
  [0x025, 0x04A, 0x06F, 0x094, 0x0B1, 0x0DE, 0x0FB, 0x128, 0x10D, 0x162, 0x147, 0x1BC, 0x199, 0x1F6, 0x1D3, 0x250]

/-- The sum of the fold vectors of the bits of a row that are 1. -/
def foldFrom : List (BitVec 10) → Nat → BitVec 10
  | [], _ => 0
  | v :: vs, r => (if r % 2 = 1 then v else 0) ^^^ foldFrom vs (r / 2)

/-- Φ(row) of R345. -/
def foldRow (row : Nat) : BitVec 10 := foldFrom foldVec row

/-- The ten check bits of a data word before the fold: m mod g(x). -/
def checkBits (d : Word) : BitVec 10 := xorRun xg (gfPow xg 10) d.toNat 20

/-- The stored form of a word (R345): P, d, K. -/
def encode (d : Word) (row : Nat) : BitVec 31 :=
  let k := checkBits d ^^^ foldRow row
  (BitVec.ofBool (oddBits d.toNat 20 ^^ oddBits k.toNat 10) ++ d) ++ k

/-- The vector Π of R348. -/
def poisonVec : BitVec 31 := 0x383

/-- What a reader makes of a stored word (R347): the data with the number of bits corrected, or why none. -/
inductive Decoded where
  | good (d : Word) (n : Nat)
  | uncorr
  | poison
  deriving DecidableEq, Repr

/-- The data bits of a stored word. -/
def cellData (x : BitVec 31) : Word := x.extractLsb' 10 20

/-- The stored word with the fold of a row taken out of its check bits. -/
def unfold31 (x : BitVec 31) (row : Nat) : BitVec 31 := x ^^^ (foldRow row).zeroExtend 31

/-- S0, S1 and S3 of R347. -/
def syndrome (x : BitVec 31) (row : Nat) : Bool × BitVec 5 × BitVec 5 :=
  let c := (unfold31 x row).toNat % 2 ^ 30
  (oddBits x.toNat 31, xorRun x5 1 c 30, xorRun x5c 1 c 30)

/-- SYN of a log record (R351). -/
def synWord (s : Bool × BitVec 5 × BitVec 5) : Word :=
  BitVec.ofNat 20 ((if s.1 then 1024 else 0) + s.2.1.toNat * 32 + s.2.2.toNat)

/-- The stored word with a bit inverted. -/
def flip31 (x : BitVec 31) (j : Nat) : BitVec 31 := x ^^^ BitVec.ofNat 31 (2 ^ j)

/-- The table of R347. -/
def decodeSyn (x : BitVec 31) (s : Bool × BitVec 5 × BitVec 5) : Decoded :=
  let s1 := s.2.1
  let s3 := s.2.2
  if s1 = 0 then
    if s3 = 0 then .good (cellData x) (if s.1 then 1 else 0)
    else if s.1 && s3 == gfPow x5 2 then .poison
    else .uncorr
  else if s3 = gfMul x5 s1 (gfMul x5 s1 s1) then
    let j := stepsTo x5 1 s1 31
    if j ≤ 29 then .good (cellData (flip31 x j)) (if s.1 then 1 else 2) else .uncorr
  else if s.1 then .uncorr
  else
    match twoRoots x5 s1 s3 30 with
    | some (a, b) => .good (cellData (flip31 (flip31 x a) b)) 2
    | none => .uncorr

/-- A reader's decoding of a stored word at the row where it expects it (R347). -/
def decode (x : BitVec 31) (row : Nat) : Decoded := decodeSyn x (syndrome x row)

/-! ## The block code of HBM -/

/-- Multiplication by α in GF(2^10), p(x) = x^10 + x^3 + 1 (R307). -/
def x10 : BitVec 10 → BitVec 10 := mulX 0x009

/-- Multiplication by α^3 in GF(2^10). -/
def x10c (p : BitVec 10) : BitVec 10 := x10 (x10 (x10 p))

/-- Multiplication by x modulo the generator of R307, whose m3(x), the minimal polynomial of α^3, is
x^10 + x^3 + x^2 + x + 1. -/
def xh : BitVec 21 → BitVec 21 := mulX 0x102899

/-- The code bits R of a block: m(x)·x^21 mod g(x), over the data bits and the device index (R307). -/
def blockCheck (data index : Nat) : BitVec 21 := xorRun xh (gfPow xh 21) (data + 2 ^ 480 * index) 511

/-- A block as stored, with its tag (R306). -/
def blockEncode (data index : Nat) (tag : Nat) : BitVec 512 :=
  BitVec.ofNat 512 (data + 2 ^ 480 * (blockCheck data index).toNat + 2 ^ 501 * tag)

/-- What the controller makes of a block (R307): its data with the number of stored bits corrected, clean or
poisoned, or uncorrectable. -/
inductive BlockDecoded where
  | clean (data : Nat) (n : Nat)
  | poisoned (data : Nat) (n : Nat)
  | uncorr
  deriving DecidableEq, Repr

/-- Errors in the code word of R307: their locations, the coefficient of x^0 first, or none where it cannot tell. -/
def blockErrors (c : Nat) : Option (List Nat) :=
  let s0 := oddBits c 532
  let s1 := xorRun x10 1 c 532
  let s3 := xorRun x10c 1 c 532
  let cube := gfMul x10 s1 (gfMul x10 s1 s1)
  if s1 = 0 then (if s3 = 0 && !s0 then some [] else none)
  else if s0 then
    let j := stepsTo x10 1 s1 1023
    if s3 = cube && j < 532 then some [j] else none
  else if s3 = cube then none
  else
    match twoRoots x10 s1 s3 532 with
    | some (a, b) => some [a, b]
    | none => none

/-- The number of 1 bits. -/
def ones (x : Nat) : Nat → Nat
  | 0 => 0
  | n + 1 => x % 2 + ones (x / 2) n

/-- A block's bits with those at the given locations of the code word inverted: location j below 21 is code bit j,
location 21 + i is block bit i. -/
def blockFlip (x : Nat) : List Nat → Nat
  | [] => x
  | j :: js => blockFlip (x ^^^ 2 ^ (if j < 21 then 480 + j else j - 21)) js

/-- Decoding a block of stored bits x at the index where it is expected (R307). -/
def blockDecode (x : BitVec 512) (index : Nat) : BlockDecoded :=
  let data := x.toNat % 2 ^ 480
  let r := bits x 500 480
  let tag := bits x 511 501
  let d0 := ones tag 11
  let d1 := ones (tag ^^^ 0x5A5) 11
  match blockErrors (r + 2 ^ 21 * data + 2 ^ 501 * index) with
  | none => .uncorr
  | some js =>
    let n := js.length + min d0 d1
    if js.any (fun j => decide (501 ≤ j)) || decide (2 < n) then .uncorr
    else
      let y := blockFlip x.toNat js % 2 ^ 480
      if d0 ≤ d1 then .clean y n else .poisoned y n

end Sys2Proof.Machine
end

