-- ==== Sys2Proof/Machine/Base.lean ====
section
/-! DEFINITION. Units of the device, their entries in the state, free values, the log (R351), and the address map
(R21, R4). -/

namespace Sys2Proof.Machine

/-- The outcome of a command. -/
abbrev Out := Host.Outcome State Fault Refusal

/-- The command goes on to this state. -/
abbrev ok (s : State) : Out := .next s

/-- A command for a unit that the device does not have (DESIGN CHOICE log 2). -/
abbrev noUnit : Out := .fault .noSuchUnit

/-- The device is powered and out of reset: masters act (R377, R378, R371). -/
def State.up (s : State) : Bool := s.dev.rst == .none && s.pwr.dev != .off && s.pwr.dev != .unpowered

/-! ## Entries of the state's tables -/

/-- Cluster k. -/
def State.core (s : State) (k : Nat) : Core := SMap.get {} s.cores k
/-- Cluster k replaced. -/
def State.setCore (s : State) (k : Nat) (c : Core) : State := { s with cores := SMap.set {} s.cores k c }
/-- Region n. -/
def State.rgn (s : State) (n : Nat) : Region := SMap.get {} s.regions n
/-- Region n replaced. -/
def State.setRgn (s : State) (n : Nat) (r : Region) : State := { s with regions := SMap.set {} s.regions n r }
/-- DMA channel n. -/
def State.chan (s : State) (n : Nat) : Dma := SMap.get {} s.dmas n
/-- DMA channel n replaced. -/
def State.setChan (s : State) (n : Nat) (d : Dma) : State := { s with dmas := SMap.set {} s.dmas n d }
/-- Link port p. -/
def State.port (s : State) (p : Nat) : Port := SMap.get {} s.ports p
/-- Link port p replaced. -/
def State.setPort (s : State) (p : Nat) (x : Port) : State := { s with ports := SMap.set {} s.ports p x }
/-- PTP timer t. -/
def State.tmr (s : State) (t : Nat) : Timer := SMap.get {} s.timers t
/-- PTP timer t replaced. -/
def State.setTmr (s : State) (t : Nat) (x : Timer) : State := { s with timers := SMap.set {} s.timers t x }

/-- Region n changed. -/
def State.onRgn (s : State) (n : Nat) (f : Region → Region) : State := s.setRgn n (f (s.rgn n))
/-- Cluster k changed. -/
def State.onCore (s : State) (k : Nat) (f : Core → Core) : State := s.setCore k (f (s.core k))

/-! ## Which units exist (R1 to R7) -/

/-- Region n is enabled (R1 to R4): every region of a GX-4820 is, and on a GX-4816 those that no fuse disables. -/
def State.regionOn (s : State) (n : Nat) : Bool := decide (n < 48) && !(s.dev.gx4816 && s.dev.disabled.contains n)

/-- Cluster k is enabled: its region is. -/
def State.clusterOn (s : State) (k : Nat) : Bool := s.regionOn (k / 2)

/-- The home region of a cluster (R6). -/
def homeOf (k : Nat) : Nat := k / 2

/-- The die of a region (R6). -/
def dieOf (n : Nat) : Nat := n / 12

/-! ## Free values -/

/-- The next free value, taken modulo 2^w, and the state that has drawn it (DESIGN CHOICE log 15). -/
def State.draw (s : State) (w : Nat) : BitVec w × State :=
  (BitVec.ofNat w (Config.free s.draws), { s with draws := s.draws + 1 })

/-- A drawn flag. -/
def State.drawBool (s : State) : Bool × State :=
  (decide (Config.free s.draws % 2 = 1), { s with draws := s.draws + 1 })

/-! ## Machine-level interrupts and the log -/

/-- A machine-level interrupt to the keeper core. -/
def State.keeperIrq (s : State) (i : KeeperIrq) : State :=
  { s with outs := { s.outs with keeper := s.outs.keeper ++ [i] } }

/-- The kinds of record that raise a machine-level interrupt (R351). -/
def logIrq (kind : Nat) : Bool := [3, 5, 6, 8, 9, 0xC, 0xD, 0xE].contains kind

/-- What word 1 of a record says of the master: its kind and number (R351). -/
abbrev LogWho := Nat × Nat

/-- The words of a log record (R351). -/
def logWords (kind mem num : Nat) (who : LogWho) (a : Nat) (syn : Word) (sq : Nat) (now : BitVec 60) : List Word :=
  [BitVec.ofNat 20 (kind * 2 ^ 14 + mem * 2 ^ 12 + num * 2 ^ 6), BitVec.ofNat 20 (who.1 * 2 ^ 16 + who.2 * 2 ^ 8),
   BitVec.ofNat 20 a, BitVec.ofNat 20 (a / 2 ^ 20), syn, BitVec.ofNat 20 sq,
   now.extractLsb' 0 20, now.extractLsb' 20 20]

/-- Consecutive words written to a table from a key. -/
def putWords (m : SMap Word) (k : Nat) : List Word → SMap Word
  | [] => m
  | v :: vs => putWords (SMap.set 0 m k v) (k + 1) vs

/-- A record written to the log, or counted as lost while it is full (R351). -/
def IntBlk.record (i : IntBlk) (ws : List Word) : IntBlk :=
  if (i.wr - i.rd).toNat = 256 then { i with lost := i.lost + 1 }
  else { i with log := putWords i.log (8 * (i.wr.toNat % 256)) ws, wr := i.wr + 1 }

/-- An event logged (R351), with its interrupt. -/
def State.logEvent (s : State) (kind mem num : Nat) (who : LogWho) (a : Nat) (syn : Word) (sq : Nat) : State :=
  let s := { s with int := s.int.record (logWords kind mem num who a syn sq s.pip.now) }
  if logIrq kind then s.keeperIrq (.log kind) else s

/-- A count that saturates at 0xFFFFF (R350). -/
def satInc (v : Word) : Word := if v = 0xFFFFF then v else v + 1

/-- INT_CE_CNT of unit u counts. -/
def State.countCe (s : State) (u : Nat) : State := { s with int := { s.int with ce := SMap.upd 0 s.int.ce u satInc } }

/-- INT_UE_CNT of unit u counts. -/
def State.countUe (s : State) (u : Nat) : State := { s with int := { s.int with ue := SMap.upd 0 s.int.ue u satInc } }

/-! ## The address map -/

/-- Where an address lies (R21): a usable offset of a region window, the context store, the register space, a
coefficient store, an HBM stack window, or nowhere. -/
inductive Loc where
  | region (n off : Nat)
  | ctx (off : Nat)
  | regs (off : Nat)
  | coef (k off : Nat)
  | hbm (h off : Nat)
  | none
  deriving DecidableEq, Repr

/-- The words of an HBM stack (R1, R21). -/
def State.hbmSize (s : State) : Nat := if s.dev.gx4816 then 0x180000000 else 0x240000000

/-- The address map of R21, without the parts of R4. -/
def State.locOf (s : State) (a : Nat) : Loc :=
  if a < 0x18000000 then
    (if s.regionOn (a / 0x800000) && decide (a % 0x800000 < 0x7F0000) then .region (a / 0x800000) (a % 0x800000)
     else .none)
  else if a < 0x20000000 then .none
  else if a < 0x22000000 then .ctx (a - 0x20000000)
  else if a < 0x30000000 then .none
  else if a < 0x40000000 then .regs (a - 0x30000000)
  else if a < 0x40180000 then
    (if s.clusterOn ((a - 0x40000000) / 0x4000) then .coef ((a - 0x40000000) / 0x4000) ((a - 0x40000000) % 0x4000)
     else .none)
  else if a < 0x100000000 then .none
  else if a < 0xA00000000 then
    (if (a - 0x100000000) % 0x240000000 < s.hbmSize then
       .hbm ((a - 0x100000000) / 0x240000000) ((a - 0x100000000) % 0x240000000)
     else .none)
  else .none

/-- Logical square and row of a window offset (R29). -/
def squareOf (off : Nat) : Nat := off % 127
/-- The row of a window offset (R29). -/
def rowOf (off : Nat) : Nat := off / 127
/-- The physical square that holds a logical one (R29). -/
def Region.physical (r : Region) (q : Nat) : Nat := if q = r.moved.toNat then 127 else q

/-- Device address of a word of a control block (R178). -/
def cbAddr (c w : Nat) : Nat := 0x20000000 + 32 * c + w

end Sys2Proof.Machine
end

