-- ==== Sys2Proof/Machine/Mem.lean ====
section
/-! DEFINITION. Reading and writing stored words: boards, context store, coefficient stores and HBM, with their codes
and errors (R17, R28, R43, R306-R309, R345-R349, R356), power states of regions met by an access (R27), and
protection windows (R183). -/

namespace Sys2Proof.Machine

/-! ## Stored cells -/

/-- The row folded into the word of a place (R345). -/
def Loc.row (l : Loc) : Nat :=
  match l with
  | .region _ off => off / 127
  | .ctx off => off / 512
  | .coef _ off => off / 8
  | .regs _ => 0
  | .hbm _ _ => 0
  | .none => 0

/-- The counters' unit of a place (R350). -/
def Loc.unit (l : Loc) : Nat :=
  match l with
  | .region n _ => n
  | .ctx _ => 52
  | .coef k _ => k / 2
  | .hbm h _ => 48 + h
  | .regs _ => 0
  | .none => 0

/-- MEM and the number beside it in a log record (R351). -/
def Loc.logMem (l : Loc) : Nat × Nat :=
  match l with
  | .region n _ => (0, n)
  | .ctx _ => (1, 0)
  | .coef k _ => (2, k / 2)
  | .hbm h _ => (3, h)
  | .regs _ => (0, 0)
  | .none => (0, 0)

/-- The physical square of a place, for the log (R351). -/
def State.logSquare (s : State) (l : Loc) : Nat :=
  match l with
  | .region n off => (s.rgn n).physical (squareOf off)
  | _ => 0

/-- An event of a place logged. -/
def State.logAt (s : State) (kind : Nat) (who : LogWho) (a : Nat) (l : Loc) (syn : Word) : State :=
  s.logEvent kind l.logMem.1 l.logMem.2 who a syn (s.logSquare l)

/-- The canonical form of a memory: addresses strictly rising, no entry that an unlisted address holds. -/
abbrev Memory.wf (m : SMap (BitVec 31)) : Bool := SMap.wf 0 m

/-- The 31 stored bits of the SRAM word at an address. -/
def State.stored (s : State) (a row : Nat) : BitVec 31 := SMap.get 0 s.mem a ^^^ encode 0 row

/-- The 31 stored bits replaced. -/
def State.putStored (s : State) (a row : Nat) (x : BitVec 31) : State :=
  { s with mem := SMap.set 0 s.mem a (x ^^^ encode 0 row) }

/-- What an SRAM word decodes to. -/
def State.peek (s : State) (a : Nat) (l : Loc) : Decoded := decode (s.stored a l.row) l.row

/-- A word read from SRAM by a master, counted and logged as R349 says. -/
def State.readSram (s : State) (who : LogWho) (a : Nat) (l : Loc) : State × FWord :=
  let syn := synWord (syndrome (s.stored a l.row) l.row)
  match s.peek a l with
  | .good d n =>
    if n = 0 then (s, .ok d)
    else
      let s := s.countCe l.unit
      (if s.int.celog then s.logAt n who a l syn else s, .ok d)
  | .uncorr => ((s.countUe l.unit).logAt 3 who a l syn, .bad .uncorr)
  | .poison => ((s.countUe l.unit).logAt 4 who a l syn, .bad .poison)

/-- Every reservation on a word cleared (R233). -/
def State.clearResv (s : State) (a : Nat) : State :=
  { s with cores := SMap.map {} s.cores (fun _ c => if c.resv = some a then { c with resv := none } else c) }

/-- The write-backs that a scrubber holds, without those of a word that has been written (R37, R353). -/
def dropWb (l : List WriteBack) (a : Nat) : List WriteBack := l.filter (fun w => !(w.addr == a))

/-- Whether RGN_ECC_FLIP is armed (R355). -/
def Region.armed (r : Region) : Bool := bit r.flip 39

/-- The region's side of a stored word that changes: while a copy runs, one of the target square below ROW changes in the
spare square too, and the copier's own write of that row is dropped (R43). -/
def Region.mirror (r : Region) (off : Nat) (x : BitVec 31) : Region :=
  let row := rowOf off
  if r.cstat == .copying && squareOf off == r.copySq.toNat && decide (row < r.row) then
    { r with
      spare := SMap.set 0 r.spare row (x ^^^ encode 0 row)
      copyWr := if r.copyWr == some row then none else r.copyWr }
  else r

/-- A word written to a region board (R28, R348), mirrored as R43 says while a copy runs; a write of slots 0 to 15
takes an armed mask (R356, R357). -/
def State.writeBoard (s : State) (n off : Nat) (v : Word) (slot015 : Bool) : State :=
  let a := 0x800000 * n + off
  let r := s.rgn n
  let take := slot015 && r.armed
  let x := encode v (rowOf off) ^^^ (if take then r.flip.extractLsb' 0 31 else 0)
  let r' := { r with flip := if take then r.flip &&& 0x7FFFFFFFFF else r.flip, scrubWb := dropWb r.scrubWb a }
  let s := (s.setRgn n (r'.mirror off x)).clearResv a
  let s := if take then { s with int := { s.int with flipAddr := BitVec.ofNat 40 a } } else s
  s.putStored a (rowOf off) x

/-- A stored form put back by a scrubber; on a board it is mirrored as R43 says while a copy runs. -/
def State.putCell (s : State) (a : Nat) (x : BitVec 31) : State :=
  match s.locOf a with
  | .region n off => (s.onRgn n (fun r => r.mirror off x)).putStored a (rowOf off) x
  | l => s.putStored a l.row x

/-- A word written to the context store or to a coefficient store. -/
def State.writeStore (s : State) (a : Nat) (l : Loc) (v : Word) : State :=
  ({ s with walkWb := dropWb s.walkWb a }).putStored a l.row (encode v l.row)

/-- A word of the coefficient store lies in the window of a VDOTS of a group (R125, R144). -/
def Group.coefHit (g : Group) (off : Nat) : Bool :=
  g.body.any (fun p => bits p.1 19 9 == 31 * 64 + 0x30 && decide (16 * bits p.1 6 0 ≤ off % 2048)
    && decide (off % 2048 < 16 * bits p.1 6 0 + 16 * (bits p.2 11 5 + 1)))

/-- Words of region boards that take free values: those that an unpredictable group has written (R110, R132). -/
def State.scramble (s : State) : List Nat → State
  | [] => s
  | a :: l =>
    let d := s.draw 20
    State.scramble (match d.2.locOf a with | .region n off => d.2.writeBoard n off d.1 true | _ => d.2) l

/-- Lanes of accumulators of cluster k that take free values (R132). -/
def State.freeLanes (s : State) (k : Nat) : List Nat → State
  | [] => s
  | i :: l =>
    let d := s.draw 48
    State.freeLanes (d.2.onCore k (fun c => { c with ac := SMap.set 0 c.ac i d.1 })) k l

/-- The lanes of accumulators. -/
def lanesOf (accs : List Nat) : List Nat := accs.flatMap (fun m => (List.range 8).map (fun l => 8 * m + l))

/-- A coefficient word written while a group in flight uses it makes that group's results unpredictable, those that it has
written included (R132). -/
def State.coefWritten (s : State) (l : Loc) : State :=
  match l with
  | .coef k off =>
    let hit := (s.core k).groups.filter (fun g => g.coefHit off && !g.unpredAcc)
    if hit = [] then s
    else
      let s := s.onCore k (fun c => { c with groups := c.groups.map (fun g =>
        if g.coefHit off then { g with unpred := true, unpredAcc := true } else g) })
      (s.scramble (hit.flatMap (fun g => g.wrote.map (fun w => w.2.1)))).freeLanes k
        (lanesOf (hit.flatMap (fun g => if g.vprog = 0 then [] else g.accs)))
  | _ => s

/-- The fabric target of a place that is no register (R284): a region with its coefficient stores, an HBM stack, the
context store. -/
def Loc.target (l : Loc) : Nat × Nat :=
  match l with
  | .region n _ => (0, n)
  | .coef k _ => (0, homeOf k)
  | .hbm h _ => (1, h)
  | .ctx _ => (3, 0)
  | .regs _ => (3, 1)
  | .none => (4, 0)

/-! ## HBM -/

/-- The device index of a block (R307). -/
def hbmIndex (h b : Nat) : Nat := 2 ^ 29 * h + b

/-- The 512 stored bits of a block. -/
def State.block (s : State) (h b : Nat) : BitVec 512 :=
  SMap.get 0 s.hbm (hbmIndex h b) ^^^ blockEncode 0 (hbmIndex h b) 0

/-- The stored bits of a block replaced. -/
def State.putBlock (s : State) (h b : Nat) (x : BitVec 512) : State :=
  { s with hbm := SMap.set 0 s.hbm (hbmIndex h b) (x ^^^ blockEncode 0 (hbmIndex h b) 0) }

/-- Address of the first word of a block. -/
def blockAddr (h b : Nat) : Nat := 0x100000000 + 0x240000000 * h + 24 * b

/-- Corrections of a block counted and logged (R307). -/
def State.blockFixed (s : State) (who : LogWho) (a : Nat) (l : Loc) (n : Nat) : State :=
  if n = 0 then s else (s.countCe l.unit).logAt 7 who a l (BitVec.ofNat 20 n)

/-- A block read and decoded by its controller: corrections counted, logged and, after two corrected bits, written
back (R307, R309); the data, or why none. A quiet read is of a block that the same access has read already. -/
def State.readBlock (s : State) (who : LogWho) (h b a : Nat) (quiet : Bool) : State × Nat × Option BusErr :=
  let l : Loc := .hbm h 0
  match blockDecode (s.block h b) (hbmIndex h b) with
  | .clean d n =>
    if quiet then (s, d, none)
    else
      let s := s.blockFixed who a l n
      (if n = 2 then s.putBlock h b (blockEncode d (hbmIndex h b) 0) else s, d, none)
  | .poisoned d n =>
    if quiet then (s, d, some .poison)
    else
      let s := ((s.blockFixed who a l n).countUe l.unit).logAt 4 who a l 0
      (if n = 2 then s.putBlock h b (blockEncode d (hbmIndex h b) 0x5A5) else s, d, some .poison)
  | .uncorr => (if quiet then s else (s.countUe l.unit).logAt 8 who a l 0, 0, some .uncorr)

/-- Word w of a block's data (R306). -/
def blockWord (d w : Nat) : Word := BitVec.ofNat 20 (d >>> (20 * w))

/-- A block's data with consecutive words replaced from position w. -/
def blockMerge (d w : Nat) : List Word → Nat
  | [] => d
  | v :: vs => blockMerge (d - (blockWord d w).toNat * 2 ^ (20 * w) + v.toNat * 2 ^ (20 * w)) (w + 1) vs

/-- A whole-block write (R308). -/
def State.hbmWhole (s : State) (h b : Nat) (ws : List Word) : State :=
  s.putBlock h b (blockEncode (blockMerge 0 0 ws) (hbmIndex h b) 0)

/-- A read-modify-write of consecutive words of one block (R308). -/
def State.hbmRmw (s : State) (who : LogWho) (h b w : Nat) (ws : List Word) : State × Option BusErr :=
  let r := s.readBlock who h b (blockAddr h b + w) false
  match r.2.2 with
  | some e => (r.1, some e)
  | none => (r.1.putBlock h b (blockEncode (blockMerge r.2.1 w ws) (hbmIndex h b) 0), none)

/-- Consecutive words written to a stack from an offset, block by block (R308): the first failing word's cause and
index. -/
def State.hbmWrite (s : State) (who : LogWho) (h : Nat) : Nat → Nat → List Word → State × Option (BusErr × Nat)
  | 0, _, _ => (s, none)
  | _ + 1, _, [] => (s, none)
  | n + 1, off, v :: vs =>
    let b := off / 24
    let w := off % 24
    let ws := (v :: vs).take (24 - w)
    let rest := (v :: vs).drop (24 - w)
    let r := if ws.length = 24 then (s.hbmWhole h b ws, none) else s.hbmRmw who h b w ws
    match r.2 with
    | some e => (r.1, some (e, 0))
    | none =>
      match State.hbmWrite r.1 who h n (off + ws.length) rest with
      | (s, none) => (s, none)
      | (s, some (e, i)) => (s, some (e, i + ws.length))

/-! ## A place read or written -/

/-- A word read at a place other than a register. -/
def State.readLoc (s : State) (who : LogWho) (a : Nat) (l : Loc) (quiet : Bool) : State × FWord :=
  match l with
  | .hbm h off =>
    let r := s.readBlock who h (off / 24) a quiet
    (r.1, match r.2.2 with
      | some e => .bad e
      | none => .ok (blockWord r.2.1 (off % 24)))
  | .none => (s, .bad .unmapped)
  | .regs _ => (s, .bad .unmapped)
  | .region _ _ => s.readSram who a l
  | .ctx _ => s.readSram who a l
  | .coef _ _ => s.readSram who a l

/-- A word written at a place other than a register and HBM. -/
def State.writeLoc (s : State) (a : Nat) (l : Loc) (v : Word) : State :=
  match l with
  | .region n off => s.writeBoard n off v true
  | .ctx _ => s.writeStore a l v
  | .coef _ _ => (s.writeStore a l v).coefWritten l
  | .regs _ => s
  | .hbm _ _ => s
  | .none => s

/-- Consecutive words written to SRAM. -/
def State.writeLocs (s : State) (a : Nat) : List Word → State
  | [] => s
  | v :: vs => State.writeLocs (s.writeLoc a (s.locOf a) v) (a + 1) vs

/-! ## Power states met by an access (R27) -/

/-- What an access finds at the region it needs: it goes on, waits for a wake, or is refused with a log kind. -/
inductive Gate where
  | go (s : State)
  | wait (s : State)
  | refuse (s : State)

/-- Whether the fabric of compute die d is off because of a fault or a keeper command, or of the device state (R27, R371). -/
def State.fabricOff (s : State) (d : Nat) : Bool :=
  s.dev.dieDown.getLsbD d || !(s.pwr.dev == .active || s.pwr.dev == .entering)

/-- A region's wake started (R27, R369): from IDLE it is in RUN at once (DESIGN CHOICE log 8), from NAP or OFF it starts WAKING. -/
def Region.wake (r : Region) : Region :=
  match r.pstate with
  | .idle => { r with pstate := .run, idlePips := 0, scrubWake := none }
  | .nap => { r with pstate := .waking, fromNap := true, filling := false, idlePips := 0, scrubWake := none }
  | .off => { r with pstate := .waking, fromNap := false, filling := false, idlePips := 0, scrubWake := none }
  | .run => { r with scrubWake := none }
  | .waking => { r with scrubWake := none }
  | .rolling => r

/-- An access of a master that needs region n (R27). -/
def State.regionGate (s : State) (who : LogWho) (n a : Nat) (l : Loc) : Gate :=
  if s.fabricOff (dieOf n) then .refuse (s.logAt 0xB who a l 0)
  else
    match (s.rgn n).pstate with
    | .run => if (s.rgn n).wakeLeft then .go (s.onRgn n (fun r => { r with wakeLeft := false })) else .go s
    | .idle => .go (s.onRgn n (fun r => { r.wake with wakeLeft := false }))
    | .rolling => .refuse (s.logAt 0xA who a l 0)
    | .nap => .wait (s.onRgn n (fun r => { r.wake with wakeLeft := true }))
    | .off => .wait (s.onRgn n (fun r => { r.wake with wakeLeft := true }))
    | .waking => .wait (s.onRgn n (fun r => { r.wake with wakeLeft := true }))

/-- An access to a place: what stands in its way (R27, R367). -/
def State.gate (s : State) (who : LogWho) (a : Nat) (l : Loc) : Gate :=
  match l with
  | .region n _ => s.regionGate who n a l
  | .coef k _ =>
    if (s.core k).rolling then .refuse (s.logAt 0xA who a l 0) else s.regionGate who (k / 2) a l
  | .hbm h _ => if s.fabricOff h then .refuse (s.logAt 0xB who a l 0) else .go s
  | .ctx _ => .go s
  | .regs _ => .go s
  | .none => .go s

/-! ## Reach (R23) and windows (R183) -/

/-- The log's kind and number of a master (R351). -/
def logWho (m : Master) : LogWho :=
  match m with
  | .stream k => (0, k)
  | .fetch k => (1, k)
  | .core k => (1, k)
  | .dma n => (2, n)
  | .dispatcher => (3, 0)
  | .keeper => (6, 0)
  | .debug => (7, 0)
  | .host => (8, 0)
  | .hardware => (9, 0)

/-- Which ranges a master reaches (R23). -/
def reaches (m : Master) (l : Loc) (wr : Bool) : Bool :=
  match l with
  | .none => false
  | .region _ _ => (match m with | .fetch _ => !wr | _ => true)
  | .ctx _ =>
    (match m with
      | .stream _ => false
      | .fetch _ => false
      | .dma n => decide (64 ≤ n)
      | _ => true)
  | .regs _ =>
    (match m with
      | .stream _ => false
      | .fetch _ => false
      | .dma _ => false
      | .dispatcher => false
      | .hardware => false
      | _ => true)
  | .coef _ _ =>
    (match m with
      | .stream _ => false
      | .fetch _ => false
      | .dma _ => wr
      | .dispatcher => false
      | _ => true)
  | .hbm _ _ =>
    (match m with
      | .stream _ => false
      | .fetch _ => false
      | .dispatcher => false
      | _ => true)

/-- A word of a control block as hardware reads it; one that cannot be read grants nothing (R349, DEDUCED log 29). -/
def State.cb (s : State) (c w : Nat) : Word :=
  match s.peek (cbAddr c w) (.ctx (32 * c + w)) with
  | .good d _ => d
  | .uncorr => 0
  | .poison => 0

/-- A word of a control block written by hardware. -/
def State.setCb (s : State) (c w : Nat) (v : Word) : State :=
  s.writeStore (cbAddr c w) (.ctx (32 * c + w)) v

/-- Whether the scheduler can read the words of a control block that it needs (R349). -/
def State.cbReadable (s : State) (c : Nat) (ws : List Nat) : Bool :=
  ws.all (fun w => match s.peek (cbAddr c w) (.ctx (32 * c + w)) with | .good _ _ => true | _ => false)

/-- What an access needs of a window (R183). -/
inductive Need where
  | r
  | w
  | x
  deriving DecidableEq, Repr

/-- The bit of window word 0 that grants a kind of access. -/
def Need.bitNo (n : Need) : Nat := match n with | .r => 0 | .w => 1 | .x => 2

/-- First and last word of window w of context c. -/
def State.window (s : State) (c w : Nat) : Nat × Nat :=
  (bits (s.cb c (16 + 4 * w)) 19 4 * 16 + 2 ^ 20 * (s.cb c (17 + 4 * w)).toNat,
   bits (s.cb c (18 + 4 * w)) 19 4 * 16 + 15 + 2 ^ 20 * (s.cb c (19 + 4 * w)).toNat)

/-- Window w of context c covers the words from a to b and grants an access. -/
def State.windowGrants (s : State) (c w : Nat) (need : Need) (a b : Nat) : Bool :=
  decide ((s.window c w).1 ≤ a) && decide (b ≤ (s.window c w).2) && bit (s.cb c (16 + 4 * w)) need.bitNo

/-- Some window of context c covers a word and grants an access (R183). -/
def State.permits (s : State) (c : Nat) (need : Need) (a : Nat) : Bool :=
  [0, 1, 2, 3].any (fun w => s.windowGrants c w need a a)

end Sys2Proof.Machine
end

