-- ==== Sys2Proof/Machine/Sched.lean ====
section
/-! DEFINITION. Contexts as the scheduler sees them: states, wake causes, ready queues, commands, preemption requests
and quotas (R180-R201). -/

namespace Sys2Proof.Machine

/-! ## Control block words -/

/-- A word of a control block read by the scheduler, the dispatcher or a cluster, with its counts and log (R349). -/
def State.cbRead (s : State) (who : LogWho) (c w : Nat) : State × Option Word :=
  match s.readSram who (cbAddr c w) (.ctx (32 * c + w)) with
  | (s, .ok v) => (s, some v)
  | (s, .bad _) => (s, none)

/-- STATE of CB.CTL (R180). -/
def ctlState (v : Word) : Nat := bits v 19 17
/-- CLASS of CB.CTL. -/
def ctlClass (v : Word) : Nat := bits v 16 14
/-- HOME of CB.CTL. -/
def ctlHome (v : Word) : Nat := bits v 13 8
/-- GROUP of CB.CTL. -/
def ctlGroup (v : Word) : Nat := bits v 7 0

/-- CB.CTL with another STATE. -/
def withState (v : Word) (st : Nat) : Word := (v &&& 0x1FFFF) ||| BitVec.ofNat 20 (st * 2 ^ 17)

/-- CB.CTL of a context. -/
def State.ctl (s : State) (c : Nat) : Word := s.cb c 0

/-- STATE of a context: 0 FREE, 1 DORMANT, 2 WAITING, 3 READY, 4 RUNNING, 5 FAULTED (R180). -/
def State.ctxState (s : State) (c : Nat) : Nat := ctlState (s.ctl c)

/-- STATE of a context changed; one whose CTL cannot be read keeps it (R349). -/
def State.setCtxState (s : State) (c st : Nat) : State :=
  match s.cbRead (9, 0) c 0 with
  | (s, some v) => s.setCb c 0 (withState v st)
  | (s, none) => s

/-- Words of a control block read by the scheduler, and whether all of them could be (R349). -/
def State.cbSeen (s : State) (c : Nat) : List Nat → State × Bool
  | [] => (s, true)
  | w :: ws =>
    match s.cbRead (9, 0) c w with
    | (s, some _) => State.cbSeen s c ws
    | (s, none) => (s, false)

/-- The states in which a context is active (R200). -/
def isActive (st : Nat) : Bool := decide (2 ≤ st) && decide (st ≤ 5)

/-- FCAUSE of CB.SAVE set (R182); a word that cannot be read stands (R349). -/
def State.setFcause (s : State) (c f : Nat) : State :=
  match s.cbRead (9, 0) c 4 with
  | (s, some v) => s.setCb c 4 ((v &&& 0xFFE1F) ||| BitVec.ofNat 20 (f * 32))
  | (s, none) => s

/-- The save-area address of a context (R182). -/
def State.saveArea (s : State) (c : Nat) : Nat := bits (s.cb c 4) 19 9 * 512 + 2 ^ 20 * (s.cb c 5).toNat

/-! ## Queues and quotas -/

/-- The key of the ready queue of a class on a die (R197). -/
def queueKey (die cls : Nat) : Nat := die * 8 + cls

/-- The ready queue that a context with this CB.CTL joins. -/
def queueOf (v : Word) : Nat := queueKey (dieOf (ctlHome v)) (ctlClass v)

/-- A context put at the tail, or the head, of its queue. -/
def State.enqueue (s : State) (c : Nat) (head : Bool) : State :=
  { s with sched := { s.sched with
      ready := SMap.upd [] s.sched.ready (queueOf (s.ctl c)) (fun q => if head then c :: q else q ++ [c]) } }

/-- A context taken out of its queue. -/
def State.dequeue (s : State) (c : Nat) : State :=
  { s with sched := { s.sched with
      ready := SMap.upd [] s.sched.ready (queueOf (s.ctl c)) (fun q => q.filter (fun x => !(x == c))) } }

/-- GRP_QA of a group (R201). -/
def State.qa (s : State) (g : Nat) : Word := SMap.get 0xFFFFF s.sched.qa g
/-- GRP_UA of a group. -/
def State.ua (s : State) (g : Nat) : Nat := SMap.get 0 s.sched.ua g
/-- GRP_QT of a group. -/
def State.qt (s : State) (g : Nat) : Nat := SMap.get 0x600 s.sched.qt g
/-- GRP_UT of a group. -/
def State.ut (s : State) (g : Nat) : Nat := SMap.get 0 s.sched.ut g

/-- A context with this CB.CTL becomes active (R200). -/
def State.countIn (s : State) (v : Word) : State :=
  { s with sched := { s.sched with
      ua := SMap.upd 0 s.sched.ua (ctlGroup v) (· + 1)
      c0act := s.sched.c0act + (if ctlClass v = 0 then 1 else 0) } }

/-- A context with this CB.CTL stops being active. -/
def State.countOut (s : State) (v : Word) : State :=
  { s with sched := { s.sched with
      ua := SMap.upd 0 s.sched.ua (ctlGroup v) (· - 1)
      c0act := s.sched.c0act - (if ctlClass v = 0 then 1 else 0) } }

/-! ## Blocks written by software (R185, R191, R207) -/

/-- The bits of a control block's word that are not reserved (R179-R183). -/
def cbForm (w : Nat) : Word :=
  if w = 1 then 0x0FC3F
  else if w = 4 then 0xFFFE7
  else if w = 14 ∨ w = 15 then 0
  else if 16 ≤ w ∧ w % 4 = 0 then 0xFFFF7
  else if 16 ≤ w ∧ w % 4 = 2 then 0xFFFF0
  else 0xFFFFF

/-- A write to a control block that R185 and R14 allow: the context is FREE, DORMANT or FAULTED, STATE keeps its value
and reserved fields are 0; PROFILE may also be set in a live context (R191). -/
def State.cbWriteOk (s : State) (c w : Nat) (v : Word) : Bool :=
  let st := s.ctxState c
  let live := decide (2 ≤ st) && decide (st ≤ 4)
  let profOnly := w == 4 && ((s.cb c 4 ^^^ v) &&& 0xFFFFC) == 0
  (!live || profOnly) && (w != 0 || ctlState v == st) && v &&& ~~~ cbForm w == 0

/-- A free value that word w of a block can hold in place of the value it holds: reserved fields are 0, STATE and FCAUSE
take codes that occur, and PRIV does not rise (R14, R15, R180, R182; DESIGN CHOICE log 17). -/
def cbLegal (w : Nat) (old free : Word) : Word :=
  let x := free &&& cbForm w
  if w = 0 then (if ctlState x ≤ 5 then x else withState x (ctlState old))
  else if w = 4 then
    let y := x &&& (0xFFFFB ||| (old &&& 4))
    if bits y 8 5 ≤ 5 then y else (y &&& 0xFFE1F) ||| (old &&& 0x001E0)
  else x

/-- The counts of active contexts follow a block whose CTL changes from one value to another (R188, R201). -/
def State.recount (s : State) (old new : Word) : State :=
  let s := if isActive (ctlState old) then s.countOut old else s
  if isActive (ctlState new) then s.countIn new else s

/-- A word of the context store written by software: where R207 calls it an unchecked host error, the word takes a
free value that it can hold (DESIGN CHOICE log 17). -/
def State.ctxWriteWord (s : State) (a off : Nat) (v : Word) : State :=
  let c := off / 32
  let w := off % 32
  let put (s : State) (x : Word) : State :=
    (if w = 0 then s.recount (s.cb c 0) x else s).writeStore a (.ctx off) x
  if s.cbWriteOk c w v then put s v
  else
    let d := s.draw 20
    put d.2 (cbLegal w (s.cb c w) d.1)

/-- A word written by software at a place other than a register and HBM. -/
def State.writeSoft (s : State) (a : Nat) (l : Loc) (v : Word) : State :=
  match l with
  | .ctx off => s.ctxWriteWord a off v
  | l => s.writeLoc a l v

/-- Consecutive words written by software to SRAM. -/
def State.writeSofts (s : State) (a : Nat) : List Word → State
  | [] => s
  | v :: vs => State.writeSofts (s.writeSoft a (s.locOf a) v) (a + 1) vs

/-! ## Clusters as the scheduler sees them -/

/-- A cluster's M-level registers count as set (R260). -/
def Core.msetAll (c : Core) : Bool := c.mset == 0x7F

/-- Cluster k is free (R197) and may bind (R260, R367). No cluster of a disabled region, or of one above 47, is ever free,
so a context that names it as HOME stays READY (R5, R15; DESIGN CHOICE log 86). -/
def State.clusterFree (s : State) (k : Nat) : Bool :=
  s.clusterOn k && (s.core k).bound.isNone && !(s.core k).rolling && !bit (s.rgn (homeOf k)).ctl 1
    && !((s.rgn (homeOf k)).pstate == .rolling) && !(s.rgn (homeOf k)).rollNext

/-- The cluster to which a context is bound or is being bound. -/
def State.clusterOf (s : State) (c : Nat) : Option Nat :=
  (List.range 96).find? (fun k => (s.core k).bound == some c)

/-- A context whose switch-out is still saving (R194). -/
def State.saving (s : State) (c : Nat) : Bool :=
  (List.range 96).any (fun k => match (s.core k).out with | some o => o.ctx == c | none => false)

/-- A context that is being bound or switched out (R189). -/
def State.switching (s : State) (c : Nat) : Bool :=
  s.saving c ||
    (match s.clusterOf c with
      | some k => (s.core k).phase == .restoring || (s.core k).preempt.isSome
      | none => false)

/-- The count at which a group stops for a preemption that is requested now (R163). -/
def Group.stopPoint (g : Group) : Nat :=
  if g.unit ≠ 1 then min g.len (g.vprog + (g.outq.map (fun e => e.cnt)).foldl (· + ·) 0)
  else
    let hi := (List.zip (List.range g.outq.length) g.outq).foldl
      (fun n q => if q.2.writes.isEmpty then n else g.vprog + q.1 + 1) g.vprog
    min g.len ((hi + 63) / 64 * 64)

/-- The oldest group of a context that is to leave gets its stop point, unless it has one. -/
def Core.setStop (c : Core) : Core :=
  match c.groups with
  | [] => c
  | g :: l => { c with groups := { g with stopAt := some (g.stopAt.getD g.stopPoint) } :: l }

/-- A preemption requested of cluster k (R198, R199): the stop point of its groups is that of this moment (R163). -/
def State.requestPreempt (s : State) (k : Nat) (why : LeaveKind) : State :=
  s.onCore k (fun c => { c.setStop with preempt := some why })

/-- The class of the context bound to cluster k, if it can be chosen as a victim; that of a halted core cannot (R389). -/
def State.victimClass (s : State) (k : Nat) : Option Nat :=
  let c := s.core k
  match c.bound with
  | some x =>
    if c.preempt.isNone && c.rc != .halted && c.rc != .haltedErr then some (ctlClass (s.ctl x)) else none
  | none => none

/-- The cluster of region n that a READY context of class cls preempts: of two that qualify equally the one whose bind
is the older (R198). -/
def State.victimFor (s : State) (n cls : Nat) : Option Nat :=
  let v (k : Nat) : Option Nat := (s.victimClass k).filter (fun x => decide (cls < x))
  match v (2 * n), v (2 * n + 1) with
  | none, none => none
  | some _, none => some (2 * n)
  | none, some _ => some (2 * n + 1)
  | some a, some b =>
    if a < b then some (2 * n + 1)
    else if b < a then some (2 * n)
    else if (s.core (2 * n + 1)).bindNo < (s.core (2 * n)).bindNo then some (2 * n + 1)
    else some (2 * n)

/-- A context that has become READY preempts where no cluster of its home region is free (R198). -/
def State.preemptFor (s : State) (c : Nat) : State :=
  let n := ctlHome (s.ctl c)
  if s.clusterFree (2 * n) || s.clusterFree (2 * n + 1) then s
  else
    match s.victimFor n (ctlClass (s.ctl c)) with
    | some k => s.requestPreempt k .higher
    | none => s

/-- A context enters READY: its state, its queue, and the preemption that its class may cause (R186, R197, R198). -/
def State.toReady (s : State) (c : Nat) (head : Bool) : State :=
  ((s.setCtxState c 3).enqueue c head).preemptFor c

/-- A context enters FAULTED with a cause; the keeper core is interrupted (R186). -/
def State.toFaulted (s : State) (c f : Nat) : State :=
  ((s.setFcause c f).setCtxState c 5).keeperIrq (.faulted c)

/-! ## Wake causes -/

/-- A cause bit set in CB.WAKE of a context in state st; a WAITING context whose MASK holds it becomes READY (R193). A word
that cannot be read is left alone (R349). SUPER acts as if its mask bit were 1 (R181). -/
def State.setCause (s : State) (c k st : Nat) : State :=
  match s.cbRead (9, 0) c 1 with
  | (s, none) => s
  | (s, some w) =>
    let s := s.setCb c 1 (w ||| BitVec.ofNat 20 (2 ^ (10 + k)))
    if st = 2 ∧ (k = 5 ∨ bit w k = true) then s.toReady c false else s

/-- A cause set by an event; a block that cannot be read is left alone (R349). -/
def State.mergeCause (s : State) (c k : Nat) : State :=
  match s.cbRead (9, 0) c 0 with
  | (s, none) => s
  | (s, some v) => s.setCause c k (ctlState v)

/-- A cause set by an event that does not affect a FREE context (R195, R297, R325, R335). -/
def State.wakeCtx (s : State) (c k : Nat) : State :=
  match s.cbRead (9, 0) c 0 with
  | (s, none) => s
  | (s, some v) => if ctlState v = 0 then s else s.setCause c k (ctlState v)

/-- m of R194: the pending causes that the mask, with SUPER, holds. -/
def wakeMatch (w : Word) : Nat := bits w 15 10 &&& (bits w 5 0 ||| 32)

/-- Causes m cleared in CB.WAKE. -/
def State.clearCauses (s : State) (c m : Nat) : State :=
  s.setCb c 1 (s.cb c 1 &&& ~~~ BitVec.ofNat 20 (m * 1024))

/-! ## Commands (R189) -/

/-- The number of a master in the banked CTX, ROLL and latch registers: cores 0 to 95, keeper 96, debug 97, host 98. -/
def bankOf (m : Master) : Nat :=
  match m with
  | .core k => k
  | .keeper => 96
  | .debug => 97
  | .host => 98
  | .stream _ => 99
  | .fetch _ => 99
  | .dma _ => 99
  | .dispatcher => 99
  | .hardware => 99

/-- CTX_STAT of a master: FOUND and RESULT (R188). -/
def State.setStat (s : State) (b found result : Nat) : State :=
  { s with sched := { s.sched with stat := SMap.set 0 s.sched.stat b (BitVec.ofNat 20 (found * 16 + result)) } }

/-- RESULT of a master. -/
def State.result (s : State) (b : Nat) : Nat := bits (SMap.get 0 s.sched.stat b) 2 0

/-- Words 1 to 31 of a block set to 0 (R186). -/
def State.zeroBlock (s : State) (c : Nat) : Nat → State
  | 0 => s
  | n + 1 => (State.zeroBlock s c n).setCb c (n + 1) 0

/-- A context of a master's SUSPEND leaves its queue where it was READY, and its group's count. -/
def State.toDormant (s : State) (c : Nat) : State :=
  let v := s.ctl c
  let s := if ctlState v = 3 then s.dequeue c else s
  (s.countOut v).setCtxState c 1

/-- A command held. -/
def State.hold (s : State) (h : HeldCmd) (found : Nat) : State :=
  { s.setStat h.who found 1 with sched := { (s.setStat h.who found 1).sched with held := s.sched.held ++ [h] } }

/-- No WAIT result is due to a context any more. -/
def State.forgetWait (s : State) (c : Nat) : State :=
  { s with sched := { s.sched with waitRegs := SMap.set 0 s.sched.waitRegs c 0 } }

/-- A command carried out on a context that is neither being bound nor switched out (R186, R189). -/
def State.doCmd (s : State) (b : Nat) (op : BitVec 4) (c : Nat) : State :=
  match s.cbRead (9, 0) c 0 with
  | (s, none) =>
    let f := s.draw 3
    let r := f.2.draw 3
    r.2.setStat b f.1.toNat r.1.toNat
  | (s, some v) =>
    let st := ctlState v
    let done (s : State) : State := s.setStat b st 0
    let bad : State := s.setStat b st 2
    if op = 1 then (if st = 0 then done (((s.zeroBlock c 31).setCtxState c 1).forgetWait c) else bad)
    else if op = 2 then
      if st ≠ 1 then bad
      else if (s.qa (ctlGroup v)).toNat ≤ s.ua (ctlGroup v) then s.setStat b st 3
      else if ctlClass v = 0 ∧ 4096 ≤ s.sched.c0act then s.setStat b st 4
      else done ((s.countIn v).toReady c false)
    else if op = 3 then
      if st = 4 then
        match s.clusterOf c with
        | some k => (s.requestPreempt k .suspend).hold { who := b, op := op, ctx := c, begun := true } st
        | none => done (s.toDormant c)
      else if isActive st then done (s.toDormant c)
      else bad
    else if op = 4 then (if st = 0 then bad else done (s.mergeCause c 5))
    else if op = 5 then
      if st = 5 then done ((s.setFcause c 0).toReady c false) else bad
    else if op = 6 then
      if st = 1 then done (s.setCtxState c 0)
      else if st = 5 then done ((s.countOut v).setCtxState c 0)
      else bad
    else s.setStat b st 5

/-- A write to CTX_CMD (R189). -/
def State.ctxCmd (s : State) (b : Nat) (op : BitVec 4) : State :=
  let c := (SMap.get 0 s.sched.arg b).toNat
  if s.result b = 1 then s
  else if 1 ≤ op.toNat ∧ op.toNat ≤ 6 ∧ (s.switching c ∨ s.sched.held.any (fun h => h.ctx == c)) then
    s.hold { who := b, op := op, ctx := c } (s.ctxState c)
  else s.doCmd b op c

/-- A SUSPEND whose preemption has ended: a context that left for another reason meanwhile and is FAULTED becomes DORMANT,
unless its save failed (R186, R189). -/
def State.suspendEnd (s : State) (c : Nat) : State :=
  if s.ctxState c = 5 ∧ bits (s.cb c 4) 8 5 ≠ 3 then s.toDormant c else s

/-- A held command of a master completes once its context is no longer switching and no earlier command on the
context is held (R189). -/
def State.ctxComplete (s : State) (b : Nat) : State :=
  match s.sched.held.find? (fun h => h.who == b) with
  | none => s
  | some h =>
    let earlier := s.sched.held.takeWhile (fun x => !(x.who == b))
    if s.switching h.ctx || earlier.any (fun x => x.ctx == h.ctx) then s
    else
      let s := { s with sched := { s.sched with held := s.sched.held.filter (fun x => !(x.who == b)) } }
      if h.begun then (s.suspendEnd h.ctx).setStat b (bits (SMap.get 0 s.sched.stat b) 6 4) 0 else s.doCmd b h.op h.ctx

/-! ## Host interrupts (R340) -/

/-- A dword of the MSI-X table; a vector's control dword reads 1, masked, after reset (PRESUMED log 31). -/
def HostBlk.table (h : HostBlk) (k : Nat) : BitVec 32 := SMap.get (if k % 4 = 3 then 1 else 0) h.msix k

/-- A vector is masked: by its own mask bit, by Function Mask, or because MSI-X is not enabled (R338, R340, PRESUMED
log 31). -/
def HostBlk.masked (h : HostBlk) (v : Nat) : Bool := bit (h.table (4 * v + 3)) 0 || h.fmask || !h.msixEn

/-- A vector's message sent, or left pending while the vector is masked. -/
def State.msixSend (s : State) (v : Nat) : State :=
  if s.host.masked v then
    { s with host := { s.host with pba := s.host.pba ||| BitVec.ofNat 64 (2 ^ v) } }
  else { s with outs := { s.outs with msix := s.outs.msix ++ [(v, (s.host.table (4 * v + 2)).toNat)] } }

/-- A pending message of a vector that is masked no more is sent (R340). -/
def State.msixRelease (s : State) (v : Nat) : State :=
  if bit s.host.pba v && !s.host.masked v then
    { s with host := { s.host with pba := s.host.pba &&& ~~~ BitVec.ofNat 64 (2 ^ v) } }.msixSend v
  else s

/-- A bit of the uncorrectable error status of advanced error reporting is set (R338, PRESUMED log 31): 12 a poisoned
completion, 14 a completion timeout, 15 a Completer Abort given. -/
def State.aerSet (s : State) (b : Nat) : State :=
  { s with host := { s.host with aer := s.host.aer ||| BitVec.ofNat 32 (2 ^ b) } }

/-- Interrupt source n is raised (R340). -/
def State.hostIrq (s : State) (n : Nat) : State :=
  let w := SMap.get 0 s.host.imap n
  if bit w 19 then s.msixSend (bits w 5 0) else s

/-! ## Binding -/

/-- The class-0 turns that binding to region n claims (R200). -/
def State.claimOf (s : State) (n : Nat) : Nat := bits (s.rgn n).turns 5 0 / 2

/-- The words of a block that a bind needs. -/
def bindWords : List Nat := [0, 1, 2, 3, 4, 5]

/-- A READY context may bind to a cluster of region n now (R197, R200, R194). -/
def State.eligible (s : State) (n c : Nat) : Bool :=
  let v := s.ctl c
  s.cbReadable c bindWords && ctlHome v == n && !s.saving c && (s.clusterOf c).isNone && ctlState v == 3
    && (ctlClass v != 0 || decide (s.ut (ctlGroup v) + s.claimOf n ≤ s.qt (ctlGroup v)))

/-- The first context of a queue that may bind; the blocks on the way are read, with their counts and log (R349). -/
def State.pick (s : State) (n : Nat) : List Nat → State × Option Nat
  | [] => (s, none)
  | c :: l =>
    let r := s.cbSeen c bindWords
    if r.1.eligible n c then (r.1, some c) else State.pick r.1 n l

/-- The context that a free cluster of region n binds, from class cls on (R197). -/
def State.chooseFrom (s : State) (n : Nat) : Nat → State × Option Nat
  | 0 => (s, none)
  | m + 1 =>
    let cls := 7 - m
    match s.pick n (SMap.get [] s.sched.ready (queueKey (dieOf n) cls)) with
    | (s, some c) => (s, some c)
    | (s, none) => State.chooseFrom s n m

/-- The class-0 turns of a bound context given back (R200). -/
def State.unclaim (s : State) (k : Nat) : State :=
  match (s.core k).bound with
  | none => s
  | some c =>
    { s with sched := { s.sched with ut := SMap.upd 0 s.sched.ut (ctlGroup (s.ctl c)) (· - (s.core k).claim) } }

end Sys2Proof.Machine
end

