-- ==== Sys2Proof/Machine/Links.lean ====
section
/-! DEFINITION. Link ports: frames, the flow table, the Bosum transport, the dispatcher and transmission (R312-R329,
R337). -/

namespace Sys2Proof.Machine

/-! ## Bytes and words (R327) -/

/-- Words of bytes in groups of five, the last one filled with zero bytes. -/
def packBytes : List Byte → List Word
  | [] => []
  | [a] => packGroup a 0 0 0 0
  | [a, b] => packGroup a b 0 0 0
  | [a, b, c] => packGroup a b c 0 0
  | [a, b, c, d] => packGroup a b c d 0
  | a :: b :: c :: d :: e :: l => packGroup a b c d e ++ packBytes l
where
  /-- The two words of five bytes. -/
  packGroup (a b c d e : Byte) : List Word :=
    let v : Dbl := (((a ++ b) ++ c) ++ d) ++ e
    [hiW v, loW v]

/-- Bytes of words in pairs; an odd last word gives none. -/
def unpackWords : List Word → List Byte
  | [] => []
  | [_] => []
  | x :: y :: l =>
    let v : Dbl := x ++ y
    [v.extractLsb' 32 8, v.extractLsb' 24 8, v.extractLsb' 16 8, v.extractLsb' 8 8, v.extractLsb' 0 8] ++ unpackWords l

/-- A big-endian number of bytes. -/
def beNat (l : List Byte) : Nat := l.foldl (fun n b => n * 256 + b.toNat) 0

/-- n bytes of a number, most significant first. -/
def beBytes (v : Nat) : Nat → List Byte
  | 0 => []
  | n + 1 => BitVec.ofNat 8 (v / 256 ^ n) :: beBytes v n

/-- The bytes from position i, n of them. -/
def slice (l : List Byte) (i n : Nat) : List Byte := (l.drop i).take n

/-- An 80-bit value as four words, low word first. -/
def words80 (t : BitVec 80) : List Word :=
  [t.extractLsb' 0 20, t.extractLsb' 20 20, t.extractLsb' 40 20, t.extractLsb' 60 20]

/-! ## Port registers and counters (R312, R332) -/

/-- LNK_Pn_CTL.EN. -/
def Port.en (p : Port) : Bool := bit p.ctl 19
/-- LNK_Pn_CTL.MODE: 1 is Bosum. -/
def Port.bosum (p : Port) : Bool := bit p.ctl 18
/-- The links of the port (R312). -/
def Port.links (p : Port) : Nat := if p.bosum then 1 else 2 ^ bits p.ctl 17 16

/-- LNK_Pn_STAT (R332). -/
def Port.stat (p : Port) : Word := BitVec.ofNat 20 (p.up.toNat * 4096 + b2n p.bdown * 2048 + b2n p.pver * 1024)

/-- Frame preemption may stand verified: an enabled Ethernet port with PREEMPT set and a link that is up (R314, R332). -/
def Port.mayVerify (p : Port) : Bool := p.en && !p.bosum && bit p.ctl 15 && p.up != 0

/-- PVER falls with what it needs. -/
def Port.settle (p : Port) : Port := { p with pver := p.pver && p.mayVerify }

/-- Frame preemption is in force (R314, R332). -/
def Port.preempting (p : Port) : Bool := p.mayVerify && p.pver

/-- A counter of the port counts n (R332): 0 RXFR, 1 TXFR, 2 FCSERR, 3 RXDROP, 4 REPLAY, 5 FECCOR,
6 FECUNC, 7 EXPFR. -/
def Port.count (p : Port) (i n : Nat) : Port :=
  { p with cnts := SMap.upd 0 p.cnts i (fun v => v + BitVec.ofNat 40 n) }

/-- A port changed; a change of LNK_Pn_STAT raises host source 2 (R340). -/
def State.onPort (s : State) (p : Nat) (f : Port → Port) : State :=
  let x := s.port p
  let y := f x
  let s := s.setPort p y
  if x.stat = y.stat then s else s.hostIrq 2

/-- The up bit of a sub-port. -/
def upBit (sub : Nat) : BitVec 8 := BitVec.ofNat 8 (2 ^ sub)

/-- Reserved bits of LNK_Pn_CTL. -/
def lnkCtlRsv : Word := 0x00FFF

end Sys2Proof.Machine

namespace Sys2Proof

open Sys2Proof.Machine

/-! ## Bosum frames (R319-R323) -/

/-- The bytes that the CRC covers: the header and the payload, packed in pairs of words (R319, R327). -/
def BosumFrame.body (f : BosumFrame) : List Byte :=
  unpackWords ([f.h0, f.h1, f.h2, f.h3, f.h4, f.h5, f.h6, f.h7] ++ f.payload ++ List.replicate (f.payload.length % 2) 0)

/-- The frame's CRC passes (R319, R322). -/
def BosumFrame.crcOk (f : BosumFrame) : Bool := f.crc == crc32 f.body

/-- A frame with the CRC of its body. -/
def BosumFrame.seal (f : BosumFrame) : BosumFrame := { f with crc := crc32 f.body }

/-- TYPE of a frame (R320). -/
def BosumFrame.type (f : BosumFrame) : Nat := bits f.h0 19 16
/-- VC 1. -/
def BosumFrame.vc1 (f : BosumFrame) : Bool := bit f.h0 15
/-- LEN. -/
def BosumFrame.len (f : BosumFrame) : Nat := bits f.h0 11 0
/-- SEQ. -/
def BosumFrame.seq (f : BosumFrame) : BitVec 12 := f.h1.extractLsb' 8 12
/-- HOPS. -/
def BosumFrame.hops (f : BosumFrame) : Nat := bits f.h1 7 4
/-- ACK. -/
def BosumFrame.ack (f : BosumFrame) : BitVec 12 := f.h2.extractLsb' 8 12
/-- DDEV. -/
def BosumFrame.ddev (f : BosumFrame) : BitVec 12 := f.h5.extractLsb' 0 12

/-- The tokens that a frame costs (R321). -/
def BosumFrame.cost (f : BosumFrame) : Nat := (8 + f.len + 63) / 64

/-- A frame of R320 whose reserved fields and LEN are as they must be. -/
def BosumFrame.legal (f : BosumFrame) : Bool :=
  decide (f.type ≤ 4) && bits f.h0 14 12 == 0 && bits f.h1 3 0 == 0 && bits f.h2 7 0 == 0 && bits f.h5 19 12 == 0
    && decide (f.len ≤ 2048) && (!([1, 2, 3].contains f.type) || f.len == 0)

end Sys2Proof

namespace Sys2Proof.Machine

/-- A header word with a field replaced. -/
def putField (w : Word) (lo n v : Nat) : Word :=
  (w &&& ~~~ BitVec.ofNat 20 ((2 ^ n - 1) * 2 ^ lo)) ||| BitVec.ofNat 20 (v % 2 ^ n * 2 ^ lo)

/-- A frame that this device originates (R320, R324): HOPS is 15. -/
def mkFrame (type : Nat) (vc1 : Bool) (len dctx ddev sctx tag sdev : Nat) (payload : List Word) : BosumFrame :=
  { crc := 0, h0 := BitVec.ofNat 20 (type * 2 ^ 16 + b2n vc1 * 2 ^ 15 + len), h1 := 0xF0, h2 := 0, h3 := 0,
    h4 := BitVec.ofNat 20 dctx, h5 := BitVec.ofNat 20 ddev, h6 := BitVec.ofNat 20 sctx,
    h7 := BitVec.ofNat 20 (tag * 2 ^ 12 + sdev), payload := payload }

/-- The tokens returned in one frame: TRET fields hold 10 bits (R320). -/
def tretOf (n : Nat) : Nat := min n 1023

/-- A frame as it leaves the port: ACK and the tokens returned, which are then returned no more (R321, R322). -/
def Port.stamp (p : Port) (f : BosumFrame) : Port × BosumFrame :=
  let g := { f with
    h2 := putField f.h2 8 12 p.rxSeq.toNat
    h3 := BitVec.ofNat 20 (tretOf p.ret1 * 2 ^ 10 + tretOf p.ret0) }
  ({ p with ret0 := p.ret0 - tretOf p.ret0, ret1 := p.ret1 - tretOf p.ret1, ackDue := false }, g)

/-- A frame as it is on the line: a Bosum frame carries its CRC (R319). -/
def TxFrame.wire (f : TxFrame) : TxFrame := match f with | .msg v g => .msg v g.seal | g => g

/-- A frame put on the line. -/
def Port.put (p : Port) (f : TxFrame) : Port := { p with sent := p.sent ++ [f.wire] }

/-- A frame that its Bosum link, not up, drops and counts (R332, R344, DEDUCED log 34). -/
def Port.dropped (p : Port) (f : BosumFrame) : Port := p.count (if f.crcOk then 3 else 2) 1

/-- A CTRL or NAK frame sent (R322). -/
def Port.sendBare (p : Port) (type : Nat) : Port :=
  let r := p.stamp (mkFrame type false 0 0 0 0 0 0 [])
  r.1.put (.msg false r.2)

/-- ACK and TRET of a received frame taken in (R321, R322): frames that ACK covers leave the replay buffer. -/
def Port.takeAck (p : Port) (f : BosumFrame) : Port :=
  let n := match p.unacked with | [] => 0 | u :: _ => (f.ack - u.seq).toNat
  let k := if n ≤ p.unacked.length then n else 0
  { p with
    unacked := p.unacked.drop k
    replays := if k = 0 then p.replays else 0
    tok0 := p.tok0 + bits f.h3 9 0
    tok1 := p.tok1 + bits f.h3 19 10 }

/-- A link-down (R323). -/
def State.bosumDown (s : State) (p : Nat) : State :=
  let x := s.port p
  let s := s.setPort p
    { x.count 3 (x.txq.length + x.unacked.length) with
      txq := [], unacked := [], bdown := true, linkUp := false, initGot := false, initSent := false, pv := false
      up := 0, ackDue := false, replays := 0, ret0 := 0, ret1 := 0 }
  (s.keeperIrq (.linkDown p)).hostIrq 2

/-- A replay of every unacknowledged frame, in order; the sixteenth without progress ends the link (R322, R323). -/
def State.replay (s : State) (p : Nat) : State :=
  let s := s.onPort p (fun x =>
    let q := x.unacked.foldl (fun y u =>
      let r := y.stamp u.f
      r.1.put (.msg u.f.vc1 { r.2 with h1 := putField r.2.h1 8 12 u.seq.toNat })) x
    { q.count 4 1 with replays := q.replays + 1 })
  if 16 ≤ (s.port p).replays then s.bosumDown p else s

/-- A Bosum link comes up once both INITs have been seen (R323). -/
def State.tryLinkUp (s : State) (p : Nat) : State :=
  let x := s.port p
  if x.initGot && x.initSent && !x.linkUp then
    s.onPort p (fun y => { y with linkUp := true, pv := true, up := 1, txSeq := 0, rxSeq := 0, unacked := [], replays := 0 })
  else s

/-! ## Delivery (R324-R328) -/

/-- Tokens of a receive buffer returned to the peer (R321). -/
def State.freeBuf (s : State) (b : Option (Nat × Bool × Nat)) : State :=
  match b with
  | none => s
  | some (p, vc1, n) =>
    s.onPort p (fun x => if vc1 then { x with ret1 := x.ret1 + n } else { x with ret0 := x.ret0 + n })

/-- A delivery handed to the dispatcher. -/
def State.deliver (s : State) (d : Delivery) : State :=
  { s with lnk := { s.lnk with deliveries := s.lnk.deliveries ++ [d] } }

/-- The header words and payload of an entry (R326). -/
def entry (kind port : Nat) (w1 w2 w3 : Word) (time : List Word) (payload : List Word) : List Word :=
  BitVec.ofNat 20 (kind * 2 ^ 16 + port * 2 ^ 13 + (4 + time.length + payload.length)) :: w1 :: w2 :: w3
    :: (time ++ payload)

/-- LNK_NOBOX counts. -/
def State.nobox (s : State) : State := { s with lnk := { s.lnk with nobox := s.lnk.nobox + 1 } }

/-- A frame queued on a Bosum port. -/
def State.queueBosum (s : State) (p : Nat) (f : BosumFrame) : State :=
  s.setPort p { s.port p with txq := (s.port p).txq ++ [(0, .msg f.vc1 f)] }

/-- The decision of R324 on a MSG or SIG frame, at origin or on arrival with its buffer. -/
def State.routeFrame (s : State) (f : BosumFrame) (origin : Bool) (port : Nat) (buf : Option (Nat × Bool × Nat)) :
    State :=
  if f.ddev = s.lnk.devnum then
    if f.type = 1 then (s.wakeCtx f.h4.toNat 4).freeBuf buf
    else
      s.deliver { ctx := f.h4.toNat, flow := none, buf := buf,
                  words := entry 3 port f.h6 (BitVec.ofNat 20 (bits f.h7 11 0)) (BitVec.ofNat 20 (bits f.h7 19 12)) []
                    f.payload }
  else
    let r := SMap.get 0 s.lnk.route f.ddev.toNat
    let q := bits r 2 0
    let x := s.port q
    if f.hops = 0 || !bit r 19 || !(x.bosum && x.en && x.linkUp) then
      ({ s with lnk := { s.lnk with noroute := s.lnk.noroute + 1 } }).freeBuf buf
    else
      let g := if origin then f else { f with h1 := putField f.h1 4 4 (f.hops - 1) }
      (s.queueBosum q g).freeBuf buf

/-- A MSG or SIG frame received (R322, R324, R325). -/
def State.bosumData (s : State) (p : Nat) (f : BosumFrame) : State :=
  let x := s.port p
  if !(x.en && x.bosum) then s
  else if !x.linkUp then s.onPort p (fun y => y.dropped f)
  else if !f.crcOk then s.onPort p (fun y => (y.count 2 1).sendBare 3)
  else if !f.legal then s.onPort p (fun y => (y.count 0 1).count 3 1)
  else if f.seq ≠ x.rxSeq then s.onPort p (fun y => ((y.count 0 1).takeAck f).sendBare 3)
  else
    let s := s.onPort p (fun y => { (y.count 0 1).takeAck f with rxSeq := y.rxSeq + 1, ackDue := true })
    s.routeFrame f false p (some (p, f.vc1, f.cost))

/-- A flow entry's word (R316). -/
def State.flowWord (s : State) (i w : Nat) : Word := SMap.get 0 s.lnk.flow (3 * i + w)

/-- A received Ethernet frame, its tag removed: the bytes without it. -/
def untag (b : List Byte) : List Byte := if slice b 12 2 = [0x81, 0x00] then b.take 12 ++ b.drop 16 else b

/-- The handling of a frame that passes the checks of R315; its time is that of the PTP clock (R337, DESIGN CHOICE log 4). -/
def State.classify (s : State) (p sub : Nat) (f : EthFrame) : State :=
  let b := untag f.bytes
  let etype := beNat (slice b 12 2)
  let x := s.port p
  let drop : State := s.onPort p (fun y => y.count 3 1)
  let svc (kind : Nat) (time : List Word) (payload : List Byte) : State :=
    if bit x.ctl 12 then
      s.deliver { ctx := x.svc.toNat, flow := none, buf := none,
                  words := entry kind p (BitVec.ofNat 20 etype) (BitVec.ofNat 20 sub) (BitVec.ofNat 20 payload.length) time
                    (packBytes payload) }
    else drop
  if etype = 0x88F7 then
    if s.ptp.svcen then
      s.deliver { ctx := s.ptp.svc.toNat, flow := none, buf := none,
                  words := entry 5 p (BitVec.ofNat 20 etype) (BitVec.ofNat 20 sub) (BitVec.ofNat 20 b.length)
                    (words80 s.ptp.time) (packBytes b) }
    else drop
  else if etype = 0xAEFE then
    let h := (beNat (slice b 14 1))
    let type := beNat (slice b 15 1)
    let size := beNat (slice b 16 2)
    if h % 2 = 1 ∨ h / 16 ≠ 1 then drop
    else if type = 5 then svc 2 (words80 s.ptp.time) (slice b 18 size)
    else if type = 0 ∨ type = 2 then
      let i := beNat (slice b 18 2)
      let w1 := s.flowWord i 1
      if bit w1 19 && bit w1 (11 + p) && (if type = 0 then bit w1 10 else bit w1 9) then
        let payload := slice b 22 (size - 4)
        s.deliver { ctx := (s.flowWord i 0).toNat, flow := some i, buf := none, wk := bits w1 8 5,
                    words := entry (type / 2) p (BitVec.ofNat 20 i) (BitVec.ofNat 20 (beNat (slice b 20 2)))
                      (BitVec.ofNat 20 payload.length) [] (packBytes payload) }
      else drop
    else svc 4 [] b
  else svc 4 [] b

/-- A ring of R184 at a header address: within the usable offsets of one enabled region, aligned, its size legal. -/
def State.ringOk (s : State) (h lg : Nat) : Bool :=
  decide (h ≠ 0) && decide (h % 8 = 0) && decide (6 ≤ lg) && decide (lg ≤ 18) &&
    (match s.locOf h, s.locOf (h + 8 + 2 ^ lg - 1) with
      | .region n _, .region m _ => n == m
      | _, _ => false)

/-- Entry words written into ring data from index k (R184). -/
def State.ringWrite (s : State) (h lg : Nat) (k : Nat) : List Word → State
  | [] => s
  | v :: vs =>
    let a := h + 8 + k % 2 ^ lg
    State.ringWrite (s.writeLoc a (s.locOf a) v) h lg (k + 1) vs

/-- Four words read in turn by the dispatcher, none if one cannot be read. -/
def State.readHeader (s : State) (a : Nat) : Nat → State × Option (List Word)
  | 0 => (s, some [])
  | n + 1 =>
    match s.readLoc (3, 0) a (s.locOf a) false with
    | (s, .bad _) => (s, none)
    | (s, .ok v) =>
      match State.readHeader s (a + 1) n with
      | (s, none) => (s, none)
      | (s, some l) => (s, some (v :: l))

/-- A flow entry counts a delivery (R318): the new count, and whether INBOX is set. An entry that a write has replaced goes on
counting among the frames that were looked up in it (R317). -/
def State.flowCount (s : State) (i : Nat) (d : Delivery) : State × Bool :=
  match d.old with
  | none =>
    let c := BitVec.ofNat 16 ((s.flowWord i 2).toNat + 1)
    ({ s with lnk := { s.lnk with flow := SMap.set 0 s.lnk.flow (3 * i + 2) (c.zeroExtend 20) } },
     decide (c.toNat % 2 ^ d.wk = 0))
  | some (n, c) =>
    let again (e : Delivery) : Delivery := if e.old.map Prod.fst = some n then { e with old := some (n, c + 1) } else e
    ({ s with lnk := { s.lnk with deliveries := s.lnk.deliveries.map again } }, decide ((c + 1).toNat % 2 ^ d.wk = 0))

/-- The delivery of an entry into an inbox whose header has been read (R196, R318). -/
def State.inboxPut (s : State) (d : Delivery) (h lg : Nat) (wr rd drops : Word) : State :=
  if 2 ^ lg < (wr - rd).toNat + d.words.length then s.writeLoc (h + 3) (s.locOf (h + 3)) (drops + 1)
  else
    let s := s.ringWrite h lg wr.toNat d.words
    let s := s.writeLoc (h + 1) (s.locOf (h + 1)) (wr + BitVec.ofNat 20 d.words.length)
    match d.flow with
    | none => s.mergeCause d.ctx 0
    | some i =>
      let r := s.flowCount i d
      if r.2 then r.1.mergeCause d.ctx 0 else r.1

/-- The dispatcher performs its oldest delivery (R196, R326-R328, R349); while the ring's region wakes it waits, and a
refused access drops the delivery. -/
def State.dispatch (s : State) : State :=
  match s.lnk.deliveries with
  | [] => s
  | d :: ds =>
    let pop (s : State) : State := { s with lnk := { s.lnk with deliveries := ds } }
    let lose (s : State) : State := ((pop s).nobox).freeBuf d.buf
    match s.cbRead (3, 0) d.ctx 0 with
    | (s, none) => lose s
    | (s, some v) =>
      if ctlState v = 0 then lose s
      else
        match s.cbRead (3, 0) d.ctx 12 with
        | (s, none) => lose s
        | (s, some lo) =>
          match s.cbRead (3, 0) d.ctx 13 with
          | (s, none) => lose s
          | (s, some hi) =>
            let h := (dbl lo hi).toNat
            if h = 0 || !s.ringOk h 6 then lose s
            else
              match s.gate (3, 0) h (s.locOf h) with
              | .wait s => s
              | .refuse s => lose s
              | .go s =>
                match s.readHeader h 4 with
                | (s, some [z, wr, rd, dr]) =>
                  if s.ringOk h (bits z 4 0) then ((pop s).inboxPut d h (bits z 4 0) wr rd dr).freeBuf d.buf
                  else lose s
                | (s, _) => lose s

/-! ## Transmission (R321, R329, R337) -/

/-- A word of a transmit template (R329). -/
def State.tmplWord (s : State) (t w : Nat) : Word := SMap.get 0 s.lnk.tmpl (8 * t + w)

/-- The bytes that an Ethernet row sends: as many as its count, its capacity and the frame allow (R330). -/
def rowBytes (ws : List Word) (overhead : Nat) : List Byte :=
  match ws with
  | [] => []
  | n :: l =>
    let b := unpackWords l
    b.take (min n.toNat (min b.length (9216 - overhead)))

/-- Padding to 64 bytes with the FCS (R330). -/
def padFrame (b : List Byte) : List Byte := b ++ List.replicate (60 - b.length) 0

/-- The Ethernet frame of a row under template t (R329, R330), without its FCS. -/
def State.ethFrame (s : State) (t : Nat) (ws : List Word) : List Byte :=
  let w0 := s.tmplWord t 0
  let kind := bits w0 19 17
  let p := s.port (bits w0 16 14)
  let dst := beBytes ((s.tmplWord t 4).toNat + (s.tmplWord t 5).toNat * 2 ^ 20 + (s.tmplWord t 6).toNat * 2 ^ 40) 6
  let tag := if bit w0 10 then [0x81, 0x00] ++ beBytes (bits w0 9 7 * 2 ^ 13 + bits (s.tmplWord t 3) 11 0) 2 else []
  let etype := if kind ≤ 2 then 0xAEFE else bits (s.tmplWord t 1) 15 0
  let head := dst ++ beBytes p.mac.toNat 6 ++ tag ++ beBytes etype 2
  let ecpri := if kind ≤ 1 then 8 else if kind = 2 then 4 else 0
  let body := rowBytes ws (head.length + ecpri + 4)
  let ids := beBytes (bits (s.tmplWord t 1) 15 0) 2 ++ beBytes (bits (s.tmplWord t 2) 15 0) 2
  let hdr :=
    if kind ≤ 1 then [0x10, BitVec.ofNat 8 (2 * kind)] ++ beBytes (body.length + 4) 2 ++ ids
    else if kind = 2 then [0x10, 0x05] ++ beBytes body.length 2
    else []
  padFrame (head ++ hdr ++ body)

/-- SEQ_ID of an eCPRI template advances with each frame (R329). -/
def State.bumpSeq (s : State) (t : Nat) : State :=
  let w := s.tmplWord t 2
  if bits (s.tmplWord t 0) 19 17 ≤ 2 then
    { s with lnk := { s.lnk with tmpl := SMap.set 0 s.lnk.tmpl (8 * t + 2) (putField w 0 16 (bits w 15 0 + 1)) } }
  else s

/-- Bytes with n of them replaced from position i. -/
def patch (b : List Byte) (i : Nat) (v : List Byte) : List Byte := b.take i ++ v ++ b.drop (i + v.length)

/-- Where the payload begins: after the addresses, any tag and the EtherType. -/
def payloadAt (b : List Byte) : Nat := if slice b 12 2 = [0x81, 0x00] then 18 else 14

/-- The transmit time written into a one-step frame (R337). -/
def stampFrame (kind : Nat) (onestep : Bool) (time : BitVec 80) (b : List Byte) : List Byte :=
  let o := payloadAt b
  if !onestep then b
  else if kind = 5 then (if beNat (slice b o 1) % 16 = 0 then patch b (o + 34) (beBytes time.toNat 10) else b)
  else if kind = 2 then patch b (o + 4 + 2) (beBytes time.toNat 10)
  else b

/-- Express frames of R314: a channel's with CTL.C0 = 1, PTP frames and eCPRI type-5 frames. -/
def express (c0 : Bool) (kind : Nat) : Bool := c0 || kind == 5 || kind == 2

/-- A queued frame of the express class. -/
def TxFrame.express (f : TxFrame) : Bool := match f with | .eth c0 kind _ _ _ => Machine.express c0 kind | _ => false

/-- The position in the queue of the frame that a sub-port sends next: under frame preemption an express frame goes before
any other (R314); on a Bosum link VC 0 goes first and a frame needs its tokens and room in the replay buffer (R321,
R322). -/
def Port.nextTx (p : Port) (sub : Nat) : Option (Nat × TxFrame) :=
  let q := (List.zip (List.range p.txq.length) p.txq).filter (fun e => e.2.1 == sub)
  let held := (p.unacked.map (fun u => u.f.cost)).foldl (· + ·) 0
  let fits (f : BosumFrame) : Bool := decide (held + f.cost ≤ 1024) && decide (p.unacked.length < 2047)
  let pick (g : TxFrame → Bool) : Option (Nat × TxFrame) := (q.find? (fun e => g e.2.2)).map (fun e => (e.1, e.2.2))
  let isEth (x : TxFrame) : Bool := match x with | .eth _ _ _ _ _ => true | _ => false
  let first := if p.preempting then (pick TxFrame.express).or (pick isEth) else pick isEth
  let v0 := pick (fun x => match x with | .msg v _ => !v | _ => false)
  let v1 := pick (fun x => match x with | .msg v _ => v | _ => false)
  let ok (x : Option (Nat × TxFrame)) : Bool :=
    match x with
    | some (_, .msg v f) => fits f && decide (f.cost ≤ if v then p.tok1 else p.tok0)
    | _ => false
  if p.bosum then (if ok v0 then v0 else if ok v1 then v1 else none) else first

/-- The list without its element at a position. -/
def dropAt {α : Type} (l : List α) (i : Nat) : List α := l.take i ++ l.drop (i + 1)

/-- The smallest fragment of a preempted frame but the last, without its check bytes: AFS is addFragSize (R314, PRESUMED
log 94). -/
def Port.fragMin (p : Port) : Nat := 64 * (1 + bits p.ctl 14 13) - 4

/-- What the express frame at position i of the queue preempts (R314): the oldest other frame of its sub-port, if it stands
before it, may have begun to leave, and is then cut where neither fragment is too short (DESIGN CHOICE log 32). -/
def State.preemptAt (s : State) (p sub i : Nat) : State :=
  let x := s.port p
  match (x.txq.take i).find? (fun e => e.1 == sub && !e.2.express) with
  | some (_, .eth _ _ _ _ b) =>
    if x.preempting then
      let d := s.draw 14
      let o := SMap.get 0 x.cut sub
      let n := d.1.toNat
      if o + x.fragMin ≤ n ∧ n + 60 ≤ b.length then
        d.2.setPort p { x.put (.frag (slice b o (n - o))) with cut := SMap.set 0 x.cut sub n }
      else d.2
    else s
  | _ => s

/-- The next frame of a sub-port leaves (R314, R321, R322, R329, R337). -/
def State.transmit (s : State) (p sub : Nat) : State :=
  let x := s.port p
  if !(x.en && bit x.up sub) then s
  else
    match x.nextTx sub with
    | none => s
    | some (i, .msg v f) =>
      s.onPort p (fun y =>
        let y := { y with txq := dropAt y.txq i }
        let y := if v then { y with tok1 := y.tok1 - f.cost } else { y with tok0 := y.tok0 - f.cost }
        let r := y.stamp { f with h1 := putField f.h1 8 12 y.txSeq.toNat }
        let z : Port := { r.1 with unacked := r.1.unacked ++ [{ seq := r.1.txSeq, f := f }], txSeq := r.1.txSeq + 1 }
        (z.put (.msg v r.2)).count 1 1)
    | some (_, .frag _) => s
    | some (i, .eth c0 kind onestep seqId b) =>
      let g : TxFrame := .eth c0 kind onestep seqId (stampFrame kind onestep s.ptp.time b)
      let s := if express c0 kind then s.preemptAt p sub i else s
      let s := s.onPort p (fun y =>
        let z : Port := { y with txq := dropAt y.txq i, cut := if express c0 kind then y.cut else SMap.set 0 y.cut sub 0 }
        let y := (z.put g).count 1 1
        if express c0 kind then y.count 7 1 else y)
      if kind = 5 && !onestep then
        if s.ptp.svcen then
          s.deliver { ctx := s.ptp.svc.toNat, flow := none, buf := none,
                      words := entry 6 p (BitVec.ofNat 20 seqId) (BitVec.ofNat 20 sub) 0 (words80 s.ptp.time) [] }
        else s.onPort p (fun y => y.count 3 1)
      else s

/-! ## Writes of the port's control register (R312, R313) -/

/-- A legal pair of MODE and SPLIT (R312). -/
def splitOk (v : Word) : Bool := !(bit v 18) || bits v 17 16 == 0

/-- Clearing EN (R313, R323). -/
def State.portOff (s : State) (p : Nat) : State :=
  let x := s.port p
  let s := if x.bosum && x.linkUp then s.bosumDown p else s
  s.onPort p (fun y => { y.count 3 y.txq.length with
    txq := [], cut := [], up := 0, linkUp := false, initGot := false, initSent := false, pv := false, pver := false })

/-- The sub-ports that are up once a port is enabled: an Ethernet link whose PCS has block lock (R332). -/
def Port.ethUp (p : Port) : BitVec 8 := p.lock &&& BitVec.ofNat 8 (2 ^ p.links - 1)

/-- UP of an Ethernet port follows its block locks. -/
def Port.relink (p : Port) : Port := { p with up := p.ethUp }.settle

/-- A write to LNK_Pn_CTL: a change of MODE or SPLIT while EN = 1, and a split Bosum port, are ignored. -/
def State.writeLnkCtl (s : State) (p : Nat) (v : Word) : State :=
  let x := s.port p
  if !splitOk v || (x.en && bits x.ctl 18 16 != bits v 18 16) then s
  else
    let s := if x.en && !bit v 19 then s.portOff p else s
    s.onPort p (fun y =>
      let y := { y with ctl := v &&& 0xFF000 }
      if y.en && !y.bosum then y.relink else y.settle)

end Sys2Proof.Machine
end

