-- ==== Sys2Proof/Machine/Dma.lean ====
section
/-! DEFINITION. DMA channels: promotion, reads, writes, completion, halts, triggers and commands (R293-R305, R330,
R331). -/

namespace Sys2Proof.Machine

/-! ## Descriptors -/

/-- SKIND of a CTL word (R295). -/
def DmaSet.skind (d : DmaSet) : Nat := bits d.ctl 13 12
/-- DKIND of a CTL word. -/
def DmaSet.dkind (d : DmaSet) : Nat := bits d.ctl 11 10
/-- The compute die of a channel, 4 for the I/O die (R7). -/
def chanDie (n : Nat) : Nat := if n < 64 then n / 16 else 4
/-- The channels of a die. -/
def dieChans (d : Nat) : List Nat :=
  if d < 4 then (List.range 16).map (· + 16 * d) else (List.range 32).map (· + 64)

/-- The words of the transfer. -/
def Dma.total (d : Dma) : Nat := d.rlen.toNat * d.rows0

/-- Address of word t of the source (R299): exact, with no wrap. -/
def Dma.srcAt (d : Dma) (t : Nat) : Int :=
  d.src0 + (t / d.rlen.toNat : Nat) * d.act.sstr.toInt + (t % d.rlen.toNat : Nat)

/-- Address of word t of the destination (R299); DSTRIDE is ignored for link transmit (R330). -/
def Dma.dstAt (d : Dma) (t : Nat) : Int :=
  d.dst0 + (if d.act.dkind = 1 then 0 else (t / d.rlen.toNat : Nat) * d.act.dstr.toInt) + (t % d.rlen.toNat : Nat)

/-- Whether i·st lies between lo and hi for some i below n. -/
def hitsRow (st lo hi : Int) (n : Nat) : Bool :=
  if st = 0 then decide (0 < n ∧ lo ≤ 0 ∧ 0 ≤ hi)
  else
    let a := if 0 < st then -((-lo) / st) else -((hi) / (-st))
    let b := if 0 < st then hi / st else (-lo) / (-st)
    decide (max a 0 ≤ min b (n - 1 : Int))

/-- The source and destination words of a descriptor have a word in common (R311). -/
def Dma.overlaps (d : Dma) : Bool :=
  let r : Int := d.rlen.toNat
  (List.range d.rows0).any (fun j =>
    let lo := d.dst0 + j * d.act.dstr.toInt
    hitsRow d.act.sstr.toInt (lo - r + 1 - d.src0) (lo + r - 1 - d.src0) d.rows0)

/-- The cause KIND of a promotion (R299, R330). -/
def State.kindBad (s : State) (n : Nat) (d : DmaSet) : Bool :=
  let t := bits d.dst 7 0
  let k := bits (s.tmplWord t 0) 19 17
  let sk := d.skind
  let dk := d.dkind
  decide ((sk ≠ 0 ∨ dk ≠ 0) ∧ n < 64) || sk == 3 || dk == 3 || sk == 1 || (sk != 0 && dk != 0)
    || (dk == 1 && (k == 3 && decide (2048 < d.count.toNat) || decide (6 ≤ k)
        || (k != 3 && decide (k < 6) && decide (3689 < d.count.toNat))))

/-- The shadow becomes the active descriptor (R299); a running one presents its first reads next. -/
def State.promoted (s : State) (n : Nat) (st : DmaState) : State :=
  let d := s.chan n
  let bad := s.kindBad n d.sh
  let empty := d.sh.count = 0 ∨ d.sh.rows = 0
  let d' : Dma := { d with
    act := { d.sh with
      ctl := d.sh.ctl ||| 0x80000
      count := if !bad && empty then 0 else d.sh.count
      rows := if !bad && empty then 0 else d.sh.rows }
    sh := { d.sh with ctl := d.sh.ctl &&& 0x7FFFF }
    rlen := d.sh.count, done := 0, faddr := 0, state := st
    src0 := d.sh.src.toNat, dst0 := d.sh.dst.toNat, rows0 := if empty then 0 else d.sh.rows.toNat
    readT := 0, rq := [], wrT := 0, wq := [], killed := false, unpred := false
    fail := if bad then some { cause := 5, wr := false, addr := 0, t := 0 } else none }
  s.setChan n { d' with unpred := d'.act.skind == 0 && d'.act.dkind == 0 && d'.overlaps }

/-! ## Errors and interrupts -/

/-- An error recorded for the host (R342): the address of the first since HOST_ERR was 0. -/
def State.hostErr (s : State) (b : Nat) (a : Nat) : State :=
  { s with host := { s.host with
      eaddr := if s.host.err = 0 then BitVec.ofNat 40 a else s.host.eaddr
      err := s.host.err ||| BitVec.ofNat 4 (2 ^ b) } }

/-- STAT.CAUSE of a failed access (R297). -/
def dmaCause (e : BusErr) : Nat :=
  match e with
  | .unmapped => 1
  | .uncorr => 2
  | .poison => 3
  | .refused => 4
  | .access => 1
  | .window => 1
  | .atomic => 1

/-- Completion or halt wakes the context and raises the host interrupt that CTL names (R295, R300, R303). -/
def State.dmaNotify (s : State) (n : Nat) (ctl ctx : Word) : State :=
  let s := if bit ctl 17 then s.wakeCtx ctx.toNat 3 else s
  if bit ctl 15 then s.hostIrq (32 + n) else s

/-! ## Reads -/

/-- A failing access: that of the earlier word stands, and the read-ahead from its word on is discarded (R303). -/
def Dma.addFail (d : Dma) (f : DmaFail) : Dma :=
  let g := match d.fail with | some g => if g.t ≤ f.t then g else f | none => f
  { d with fail := some g, rq := d.rq.filter (fun r => decide (r.t < g.t)) }

/-- What an access of a channel meets. -/
inductive DmaRd where
  | hold
  | words (ws : List Word) (bad : Option BusErr)

/-- Where an exact address lies for a channel: nowhere outside 40 bits. -/
def State.dmaLoc (s : State) (a : Int) : Loc :=
  if 0 ≤ a ∧ a < 2 ^ 40 then s.locOf a.toNat else .none

/-- Consecutive words of one 8-word group read (R299); HBM words of one block are one read. -/
def State.dmaWords (s : State) (n : Nat) : Nat → Int → Bool → State × List Word × Option BusErr
  | 0, _, _ => (s, [], none)
  | k + 1, a, more =>
    let l := s.dmaLoc a
    if !reaches (.dma n) l false then (s, [], some .unmapped)
    else
      let quiet := more && match l with | .hbm _ o => decide (o % 24 ≠ 0) | _ => false
      match s.readLoc (2, n) a.toNat l quiet with
      | (s, .bad e) => (s, [], some e)
      | (s, .ok v) =>
        match State.dmaWords s n k (a + 1) true with
        | (s, vs, e) => (s, v :: vs, e)

/-- One read beat of a channel: from device memory, or from host memory as the host completes it (R299, R330). -/
def State.dmaBeat (s : State) (n k : Nat) (a : Int) (hds : List (BitVec 32)) (ep : HostCpl) : State × DmaRd :=
  if (s.chan n).act.skind = 2 then
    match ep with
    | .good => (s, .words ((List.range k).map (fun i => (hds.getD i 0).extractLsb' 0 20)) none)
    | .poisoned => ((s.hostErr 0 a.toNat).aerSet 12, .words [] (some .poison))
    | .failed => (s.hostErr 0 a.toNat, .words [] (some .refused))
  else
    match s.gate (2, n) a.toNat (s.dmaLoc a) with
    | .wait s => (s, .hold)
    | .refuse s => (s, .words [] (some .refused))
    | .go s => let r := s.dmaWords n k a false; (r.1, .words r.2.1 r.2.2)

/-- Whether a word joins the last presented write: the next word of its row, in the same 8-word group, HBM block
between 2,048-word boundaries, or frame (R285, R299, R330). -/
def State.joins (s : State) (d : Dma) (e : DmaWrite) (t : Nat) : Bool :=
  let a := d.dstAt t
  decide (t = e.t + e.ws.length) && decide (t % d.rlen.toNat ≠ 0) &&
    (if d.act.dkind = 1 then true
     else
      match s.dmaLoc a with
      | .hbm _ o => decide (o % 24 ≠ 0) && decide (a % 2048 ≠ 0)
      | _ => decide (a % 8 ≠ 0))

/-- A word's write presented, or the reason why it cannot be (R299, R303, R330). -/
def State.presentWord (s : State) (n : Nat) (d : Dma) (t : Nat) (v : Word) : Dma :=
  let a := d.dstAt t
  let bad :=
    if d.act.dkind = 1 then decide (256 ≤ d.dst0)
    else if d.act.dkind = 2 then decide (a < 0 ∨ 2 ^ 40 ≤ a)
    else !reaches (.dma n) (s.dmaLoc a) true
  if d.fail.any (fun f => decide (f.t ≤ t)) then d
  else if bad then d.addFail { cause := 1, wr := true, addr := BitVec.ofInt 40 a, t := t }
  else
    let next := if t + 1 < d.total then d.dstAt (t + 1) else a + 1
    let wq :=
      match d.wq.getLast? with
      | some e =>
        if s.joins d e t then d.wq.dropLast ++ [{ e with ws := e.ws ++ [v], reads := d.readT }]
        else d.wq ++ [{ t := t, addr := a, ws := [v], reads := d.readT }]
      | none => [{ t := t, addr := a, ws := [v], reads := d.readT }]
    { d with wq := wq, wrT := t + 1, act := { d.act with dst := BitVec.ofInt 40 next } }

/-- Words' writes presented in transfer order. -/
def State.presentAll (s : State) (n : Nat) (d : Dma) (t : Nat) : List Word → Dma
  | [] => d
  | v :: vs => State.presentAll s n (s.presentWord n d t v) (t + 1) vs

/-- The read side's registers once the reads of k words have been presented (R299). -/
def Dma.advance (d : Dma) (k : Nat) : Dma :=
  let src := d.act.src + BitVec.ofNat 40 k
  let count := d.act.count - BitVec.ofNat 20 k
  let rows := d.act.rows - 1
  let a : DmaSet :=
    if count = 0 then
      if rows = 0 then { d.act with src := src, count := 0, rows := 0 }
      else { d.act with src := src - d.rlen.zeroExtend 40 + d.act.sstr, count := d.rlen, rows := rows }
    else { d.act with src := src, count := count }
  { d with act := a, readT := d.readT + k }

/-- Why the read of word a cannot be presented (R303, R330): the cause, and whether the host is told. -/
def State.readStop (s : State) (n : Nat) (d : Dma) (a : Int) : Option (Nat × Bool) :=
  if d.act.skind = 2 then
    if a < 0 ∨ 2 ^ 40 ≤ a then some (1, false) else if !s.host.bme then some (4, true) else none
  else if !reaches (.dma n) (s.dmaLoc a) false then some (1, false)
  else none

/-- The channel presents its next read beat (R299): the words up to the end of their 8-word group, or those before the one
whose read cannot be presented, which fails (R303). -/
def State.presentRead (s : State) (n : Nat) (d : Dma) : State :=
  let a := d.srcAt d.readT
  let k := min d.act.count.toNat (8 - (a % 8).toNat)
  let beat (m : Nat) : Dma :=
    if m = 0 then d
    else { d.advance m with rq := d.rq ++ [{ t := d.readT, addr := a, cnt := m, writes := d.wrT }] }
  match (List.range k).findSome? (fun (i : Nat) => (s.readStop n d (a + i)).map (fun c => (i, c))) with
  | none => s.setChan n (beat k)
  | some (i, c) =>
    let x := a + i
    (if c.2 then s.hostErr 0 x.toNat else s).setChan n
      ((beat i).addFail { cause := c.1, wr := false, addr := BitVec.ofInt 40 x, t := d.readT + i })

/-- A running channel presents its reads until 16 beats are outstanding, a read cannot be presented, or there is no more
(R299, DESIGN CHOICE log 89). -/
def State.presentReads (s : State) (n : Nat) : Nat → State
  | 0 => s
  | m + 1 =>
    let d := s.chan n
    if d.state == .running && d.fail.isNone && !d.killed && d.act.rows != 0 && decide (d.rq.length < 16) then
      State.presentReads (s.presentRead n d) n m
    else s

/-- A channel's reads presented. -/
def State.readOn (s : State) (n : Nat) : State := s.presentReads n 16

/-- Promotion (R299). -/
def State.promote (s : State) (n : Nat) (st : DmaState) : State := (s.promoted n st).readOn n

/-- A trigger (R298). -/
def State.dmaTrigger (s : State) (n : Nat) : State :=
  let d := s.chan n
  match d.state with
  | .idle => if bit d.sh.ctl 19 then s.promote n .running else s.setChan n { d with tlost := true }
  | .armed => (s.setChan n { d with state := .running }).readOn n
  | .running => s.setChan n { d with tlost := true }
  | .halted => s.setChan n { d with tlost := true }

/-- The event (kind, num) reaches the channels of a die that name it (R297). -/
def State.dmaEvent (s : State) (die kind num : Nat) : State :=
  (dieChans die).foldl (fun s m =>
    let t := (s.chan m).trig
    if bits t 19 18 = kind ∧ bits t 6 0 = num then s.dmaTrigger m else s) s

/-- The beats of a write: the 8-word groups that it touches (R285). -/
def DmaWrite.beats (e : DmaWrite) : Nat := ((e.addr % 8).toNat + e.ws.length + 7) / 8

/-- The beats that a channel has presented and that are not answered (R299). -/
def Dma.writeBeats (d : Dma) : Nat := (d.wq.map DmaWrite.beats).foldl (· + ·) 0

/-- Where a channel's accesses on one side go (R284, R288). -/
def State.sideTarget (s : State) (kind : Nat) (a : Int) : Nat × Nat := if kind = 0 then (s.dmaLoc a).target else (5, kind)

/-- A read and a write of a channel go to one target. -/
def State.meet (s : State) (d : Dma) (r : DmaRead) (e : DmaWrite) : Bool :=
  s.sideTarget d.act.skind r.addr == s.sideTarget d.act.dkind e.addr

/-- The oldest read beat returns (R299, R303): its words go to the write side, or the channel has a failing access. It
waits for writes to its target that were presented before it (R288), and for room among the 16 write beats. -/
def State.dmaRead (s : State) (n : Nat) (hds : List (BitVec 32)) (ep : HostCpl) : State :=
  let d := s.chan n
  match d.rq with
  | [] => s
  | r :: rest =>
    if !(d.state == .running) || d.killed || (d.act.dkind != 1 && decide (14 < d.writeBeats))
        || d.wq.any (fun e => decide (e.t + e.ws.length ≤ r.writes) && s.meet d r e) then s
    else
      match s.dmaBeat n r.cnt r.addr hds ep with
      | (s, .hold) => s
      | (s, .words ws none) => (s.setChan n (s.presentAll n { d with rq := rest } r.t ws)).readOn n
      | (s, .words ws (some e)) =>
        s.setChan n ((s.presentAll n { d with rq := rest } r.t ws).addFail
          { cause := dmaCause e, wr := false, addr := BitVec.ofInt 40 (r.addr + ws.length), t := r.t + ws.length })

/-! ## Writes -/

/-- A write whose words have all been presented, so that it can be answered: the next word does not join it (R285). -/
def State.writeWhole (s : State) (d : Dma) (e : DmaWrite) : Bool :=
  decide (1 < d.wq.length) || d.fail.isSome || d.killed || d.act.rows == 0 || !s.joins d e (e.t + e.ws.length)

/-- Free values in place of the words of an unpredictable transfer (R311, R15). -/
def State.drawWords (s : State) : List Word → State × List Word
  | [] => (s, [])
  | _ :: vs =>
    let r := s.draw 20
    match State.drawWords r.2 vs with
    | (s, l) => (s, r.1 :: l)

/-- A word after a refused write that its target takes. -/
def State.lateWrite (s : State) (n a : Nat) (v : Word) : State :=
  let l := s.locOf a
  match s.gate (2, n) a l with
  | .wait s => s
  | .refuse s => s
  | .go s =>
    match l with
    | .hbm h o => (s.hbmWrite (2, n) h 1 o [v]).1
    | _ => s.writeSoft a l v

/-- Words after a refused write, each written or not as a free value says (R303). -/
def State.maybeWrite (s : State) (n a : Nat) : List Word → State
  | [] => s
  | v :: vs =>
    let r := s.drawBool
    State.maybeWrite (if r.1 then r.2.lateWrite n a v else r.2) n (a + 1) vs

/-- A frame of a row queued on its port (R329, R331): the port's refusal, or a wait for tokens. -/
def State.dmaFrame (s : State) (d : Dma) (e : DmaWrite) : Gate :=
  let t := d.dst0.toNat
  let w0 := s.tmplWord t 0
  let kind := bits w0 19 17
  let p := bits w0 16 14
  let sub := bits w0 13 11
  let x := s.port p
  if !x.en || decide (x.links ≤ sub) || (x.bosum && sub != 0) || (x.bosum != (kind == 3)) then .refuse s
  else if kind = 3 then
    let f := mkFrame 0 (!bit d.act.ctl 14) d.rlen.toNat (s.tmplWord t 1).toNat (bits (s.tmplWord t 2) 11 0) d.ctx.toNat
      (bits (s.tmplWord t 3) 7 0) s.lnk.devnum.toNat e.ws
    if !x.linkUp then .refuse s
    else
      let queued := (x.txq.map (fun q => match q.2 with | .msg v g => if v == f.vc1 then g.cost else 0 | _ => 0)).foldl (· + ·) 0
      if (if f.vc1 then x.tok1 else x.tok0) < queued + f.cost then .wait s
      else .go (s.routeFrame f true p none)
  else
    let b := s.ethFrame t e.ws
    let g : TxFrame := .eth (bit d.act.ctl 14) kind (bit w0 6) (beNat (slice b (payloadAt b + 30) 2)) b
    .go ((s.setPort p { x with txq := x.txq ++ [(sub, g)] }).bumpSeq t)

/-- Words written to host memory (R330). -/
def State.hostWrite (s : State) (hi : Word) (a : Int) : List Word → State
  | [] => s
  | v :: vs =>
    let s := { s with outs := { s.outs with
      hostMem := SMap.set 0 s.outs.hostMem (hi.toNat * 2 ^ 40 + a.toNat) (v.zeroExtend 32) } }
    State.hostWrite s hi (a + 1) vs

/-- One presented write performed: what it meets (R299, R303, R308, R331). -/
def State.dmaPut (s : State) (n : Nat) (d : Dma) (e : DmaWrite) (ws : List Word) : State × Option (Option (BusErr × Nat)) :=
  if d.act.dkind = 1 then
    match s.dmaFrame d e with
    | .wait s => (s, none)
    | .refuse s => (s, some (some (.refused, 0)))
    | .go s => (s, some none)
  else if d.act.dkind = 2 then
    if s.host.bme then (s.hostWrite s.host.dmahi e.addr ws, some none)
    else (s.hostErr 0 e.addr.toNat, some (some (.refused, 0)))
  else
    let l := s.dmaLoc e.addr
    match s.gate (2, n) e.addr.toNat l with
    | .wait s => (s, none)
    | .refuse s => (s, some (some (.refused, 0)))
    | .go s =>
      match l with
      | .hbm h o => let r := s.hbmWrite (2, n) h ws.length o ws; (r.1, some r.2)
      | _ => (s.writeSofts e.addr.toNat ws, some none)

/-- A frame whose row the channel will not complete: it is never sent (R303, R331). -/
def Dma.cutFrame (d : Dma) (e : DmaWrite) : Bool :=
  d.act.dkind == 1 && decide (e.ws.length < d.rlen.toNat) && (d.fail.isSome || d.killed)

/-- The oldest presented write is answered (R299, R303, R304), after the reads of its target that were presented before it
(R288). -/
def State.dmaWriteResp (s : State) (n : Nat) : State :=
  let d := s.chan n
  match d.wq with
  | [] => s
  | e :: rest =>
    if !s.writeWhole d e || d.rq.any (fun r => decide (r.t < e.reads) && s.meet d r e) then s
    else
      let pop (s : State) (f : Dma → Dma) : State := s.setChan n (f { s.chan n with wq := rest })
      if d.fail.any (fun f => f.wr && decide (f.t < e.t)) then
        pop (if d.act.dkind = 0 then s.maybeWrite n e.addr.toNat e.ws else s) id
      else if d.cutFrame e then pop s id
      else
        let r := if d.unpred then s.drawWords e.ws else (s, e.ws)
        match r.1.dmaPut n d e r.2 with
        | (s, none) => s
        | (s, some none) => pop s (fun x => { x with done := x.done + BitVec.ofNat 40 e.ws.length })
        | (s, some (some (b, i))) =>
          pop s (fun x => ({ x with done := x.done + BitVec.ofNat 40 i }).addFail
            { cause := dmaCause b, wr := true, addr := BitVec.ofInt 40 (e.addr + i), t := e.t + i })

/-! ## Ends -/

/-- A descriptor completes (R300, R301). -/
def State.dmaComplete (s : State) (n : Nat) : State :=
  let d := s.chan n
  if !(d.state == .running || (d.state == .armed && d.rows0 == 0)) || d.fail.isSome || d.killed || d.act.rows != 0
      || d.rq != [] || d.wq != [] then s
  else
    let ctl := d.act.ctl
    let s := s.setChan n { d with act := { d.act with ctl := ctl &&& 0x7FFFF }, ndesc := d.ndesc + 1, stopreq := false }
    let s := s.dmaNotify n ctl d.ctx
    let s := if bit ctl 16 then s.keeperIrq (.dma n) else s
    let s :=
      if bit d.sh.ctl 19 && !d.stopreq then s.promote n (if bit d.sh.ctl 9 then .armed else .running)
      else s.setChan n { s.chan n with state := .idle }
    s.dmaEvent (chanDie n) 2 n

/-- The place of a failing access, for the log (R351). -/
def State.failLoc (s : State) (d : Dma) (a : Dbl) : Loc := if d.act.dkind = 1 then .none else s.locOf a.toNat

/-- A channel halts once its presented writes are answered (R303, R304, R297). -/
def State.dmaHalt (s : State) (n : Nat) : State :=
  let d := s.chan n
  let halts := (d.state == .running || d.state == .armed || d.killed) && (d.fail.isSome || d.killed) && d.rq == [] && d.wq == []
  if !halts then s
  else
    let ctl := d.act.ctl
    let f : DmaFail := d.fail.getD { cause := 6, wr := false, addr := 0, t := d.done.toNat }
    let cause : BitVec 4 := if d.killed then 6 else BitVec.ofNat 4 f.cause
    let d' : Dma := { d with
      act := { d.act with ctl := (ctl &&& 0x7FFFF) ||| 0x40000 }
      state := .halted, cause := cause, wr := f.wr, faddr := f.addr, done := BitVec.ofNat 40 f.t
      fail := none, killed := false, stopreq := false }
    let s := (s.setChan n d').logAt 0xD (2, n) f.addr.toNat (s.failLoc d f.addr) (cause.zeroExtend 20)
    (s.dmaNotify n ctl d.ctx).keeperIrq (.dma n)

/-- The first beats of some writes, and the address of the first beat after them. -/
def keepBeats : Nat → List DmaWrite → List DmaWrite × Option Int
  | _, [] => ([], none)
  | b, e :: l =>
    if e.beats ≤ b then let r := keepBeats (b - e.beats) l; (e :: r.1, r.2)
    else
      let m := 8 * b - (e.addr % 8).toNat
      (if m = 0 then [] else [{ e with ws := e.ws.take m }], some (e.addr + m))

/-- What is kept of a killed channel's presented writes: the beats that its targets had accepted, a free number of them; the
first dropped beat is logged (R292). A block of which beats are missing is written by read-modify-write (R308). -/
def State.abortWrites (s : State) (n : Nat) : State :=
  let d := s.chan n
  match d.wq with
  | [] => s
  | _ :: _ =>
    let r := s.draw 16
    let q := keepBeats (r.1.toNat % (d.writeBeats + 1)) d.wq
    let s := r.2.setChan n { d with wq := q.1 }
    match q.2 with
    | none => s
    | some a => s.logAt 0xC (2, n) a.toNat (s.dmaLoc a) 0

/-- CMD.KILL (R297, R292): the channel stops presenting and halts once its accepted writes are answered. -/
def State.dmaKill (s : State) (n : Nat) : State :=
  let d := s.chan n
  if d.state == .halted then s
  else
    let s := (s.setChan n { d with killed := true, rq := [] }).abortWrites n
    if (s.chan n).wq = [] then s.dmaHalt n else s

/-- A write to CMD (R297, R301): KILL, CLEAR, STOP, START. -/
def State.dmaCmd (s : State) (n : Nat) (v : Word) (mayKill : Bool) : State :=
  let s := if bit v 3 && mayKill then s.dmaKill n else s
  let s :=
    if bit v 2 && (s.chan n).state == .halted then
      let d := s.chan n
      s.setChan n { d with state := .idle, cause := 0, act := { d.act with ctl := d.act.ctl &&& 0xBFFFF } }
    else s
  let s :=
    if bit v 1 then
      let d := s.chan n
      match d.state with
      | .running => s.setChan n { d with stopreq := true }
      | .armed => s.setChan n { d with state := .idle, act := { d.act with ctl := d.act.ctl &&& 0x7FFFF } }
      | .idle => s
      | .halted => s
    else s
  if bit v 0 then s.dmaTrigger n else s

/-- No completion of a host read came within 50 µs (R330). -/
def State.dmaTimeout (s : State) (n : Nat) : State :=
  let d := s.chan n
  match d.rq with
  | [] => s
  | r :: _ =>
    if d.state == .running && d.act.skind == 2 && !d.killed then
      ((s.hostErr 0 r.addr.toNat).aerSet 14).setChan n
        (d.addFail { cause := 4, wr := false, addr := BitVec.ofInt 40 r.addr, t := r.t })
    else s

/-! ## Registers (R293-R297) -/

/-- A register of a descriptor set, by its offset from the set's base. -/
def DmaSet.get (d : DmaSet) (off : Nat) : Word :=
  match off with
  | 0 => loW d.src
  | 1 => hiW d.src
  | 2 => loW d.dst
  | 3 => hiW d.dst
  | 4 => loW d.sstr
  | 5 => hiW d.sstr
  | 6 => loW d.dstr
  | 7 => hiW d.dstr
  | 8 => d.count
  | 9 => d.rows
  | _ => d.ctl

/-- A register of the shadow set written; SH_CTL's reserved bits and ERR stay 0. -/
def DmaSet.put (d : DmaSet) (off : Nat) (v : Word) : DmaSet :=
  match off with
  | 0 => { d with src := putLo d.src v }
  | 1 => { d with src := putHi d.src v }
  | 2 => { d with dst := putLo d.dst v }
  | 3 => { d with dst := putHi d.dst v }
  | 4 => { d with sstr := putLo d.sstr v }
  | 5 => { d with sstr := putHi d.sstr v }
  | 6 => { d with dstr := putLo d.dstr v }
  | 7 => { d with dstr := putHi d.dstr v }
  | 8 => { d with count := v }
  | 9 => { d with rows := v }
  | _ => { d with ctl := v &&& 0xBFEF0 }

/-- A write to the shadow set: any register but SH_CTL clears SH_CTL.VALID (R296). -/
def DmaSet.shadow (d : DmaSet) (off : Nat) (v : Word) : DmaSet :=
  if off = 10 then d.put 10 v else { d.put off v with ctl := d.ctl &&& 0x7FFFF }

/-- STAT (R297). -/
def Dma.statWord (d : Dma) : Word :=
  let st := match d.state with | .idle => 0 | .armed => 1 | .running => 2 | .halted => 3
  BitVec.ofNat 20 (st * 2 ^ 17 + b2n d.stopreq * 2 ^ 16 + b2n d.tlost * 2 ^ 15 + b2n d.wr * 2 ^ 14 + d.cause.toNat * 2 ^ 10
    + d.ndesc.toNat)

/-- A register of a channel read; none at an offset that is not listed (R293). -/
def Dma.reg (d : Dma) (off : Nat) : Option Word :=
  if off < 0xB then some (d.act.get off)
  else if off = 0xB then some d.rlen
  else if off < 0x10 then none
  else if off < 0x1B then some (d.sh.get (off - 0x10))
  else if off < 0x20 then none
  else match off with
    | 0x20 => some 0
    | 0x21 => some d.statWord
    | 0x22 => some d.trig
    | 0x23 => some d.ctx
    | 0x24 => some (loW d.done)
    | 0x25 => some (hiW d.done)
    | 0x26 => some (loW d.faddr)
    | 0x27 => some (hiW d.faddr)
    | _ => none

/-- A register of a channel written. -/
def State.dmaRegWrite (s : State) (n off : Nat) (v : Word) (mayKill : Bool) : State :=
  let d := s.chan n
  if 0x10 ≤ off ∧ off < 0x1B then s.setChan n { d with sh := d.sh.shadow (off - 0x10) v }
  else match off with
    | 0x20 => s.dmaCmd n v mayKill
    | 0x21 => if bit v 15 then s.setChan n { d with tlost := false } else s
    | 0x22 => s.setChan n { d with trig := v &&& 0xC007F }
    | 0x23 => s.setChan n { d with ctx := v }
    | _ => s

end Sys2Proof.Machine
end

