-- ==== Sys2Proof/Machine/Region.lean ====
section
/-! DEFINITION. The region board and its registers: power states, planned voltage and frequency, turns, scrubbing,
castling and monitors (R27-R58, R206, R352-R358, R369, R370). -/

namespace Sys2Proof.Machine

/-! ## Live status (R52) -/

/-- An address lies in the window of region n. -/
def inWindow (n a : Nat) : Bool := decide (0x800000 * n ≤ a) && decide (a < 0x800000 * (n + 1))

/-- An address lies in the coefficient store of one of region n's clusters. -/
def inCoef (n a : Nat) : Bool := decide (0x40000000 + 0x8000 * n ≤ a) && decide (a < 0x40000000 + 0x8000 * (n + 1))

/-- Some master holds an access, not yet performed, to a word of which p holds: a buffered store, a load without data, a
write that a chain group has on its way, a DMA write presented, or the debug master's access in flight. -/
def State.addressing (s : State) (p : Nat → Bool) : Bool :=
  s.cores.any (fun e => e.2.sbuf.any (fun x => p x.addr)
      || e.2.loads.any (fun l => l.data.isNone && l.addrs.any p)
      || e.2.groups.any (fun g => g.outq.any (fun x => x.writes.any (fun w => p w.1))))
    || s.dmas.any (fun e => e.2.wq.any (fun w => p w.addr.toNat) || e.2.rq.any (fun r => p r.addr.toNat))
    || (s.dbg.op.isSome && p s.dbg.addr.toNat)

/-- Some master holds an access to region n that has not been performed. -/
def State.pendingTo (s : State) (n : Nat) : Bool := s.addressing (inWindow n)

/-- RGN_STATE.DRAINED (R52). -/
def State.drained (s : State) (n : Nat) : Bool :=
  let r := s.rgn n
  r.waiting == [] && r.cstat != .copying && !r.castleWait && !r.wakeLeft && (s.core (2 * n)).groups == []
    && (s.core (2 * n + 1)).groups == [] && (s.core (2 * n)).out.isNone && (s.core (2 * n + 1)).out.isNone && !s.pendingTo n

/-- No context is bound to either cluster of region n. -/
def State.unbound (s : State) (n : Nat) : Bool := (s.core (2 * n)).bound.isNone && (s.core (2 * n + 1)).bound.isNone

/-- RGN_CTL.HOLD. -/
def Region.hold (r : Region) : Bool := bit r.ctl 0
/-- RGN_CTL.VACATE. -/
def Region.vacate (r : Region) : Bool := bit r.ctl 1
/-- RGN_CTL.PREQ. -/
def Region.preq (r : Region) : Nat := bits r.ctl 4 2

/-- RGN_STATE.VACATED (R52). -/
def State.vacated (s : State) (n : Nat) : Bool := (s.rgn n).vacate && s.unbound n

/-- The code of a power state (R52). -/
def PState.code (p : PState) : Nat :=
  match p with | .run => 0 | .idle => 1 | .nap => 2 | .off => 3 | .waking => 4 | .rolling => 5

/-- FDIV_K in force: the plan's, the thermal steps and the cap's, at most 20 (R206, R359). -/
def Region.kNow (r : Region) : Nat := min 20 (r.know + r.thermal + r.cap)

/-- RGN_STATE (R52). -/
def State.rgnState (s : State) (n : Nat) : Word :=
  let r := s.rgn n
  BitVec.ofNat 20 (b2n r.c0late * 512 + b2n (r.moved != 0x7F) * 256 + b2n (r.cstat == .copying) * 128
    + b2n (r.kNow != 0) * 64 + b2n r.needsClear * 32 + b2n (s.drained n) * 16 + b2n (s.vacated n) * 8 + r.pstate.code)

/-- RGN_VF_NOW (R53). -/
def Region.vfNow (r : Region) : Word := BitVec.ofNat 20 (r.vnow * 32 + r.kNow)

/-- RGN_VF (R53). -/
def Region.vfWord (r : Region) : Word := r.vf ||| (if r.pend then 0x2000 else 0)

/-- RGN_SPARE (R56). -/
def Region.spareWord (r : Region) : Word :=
  let c := match r.cstat with | .idle => 0 | .copying => 1 | .done => 2 | .refused => 3
  BitVec.ofNat 20 (c * 2 ^ 15 + r.target.toNat * 128 + r.moved.toNat)

/-! ## Power states (R369, R370) -/

/-- The stored words of region n and of its coefficient stores all become encode(0, row) (R370, R364). -/
def State.zeroRegion (s : State) (n : Nat) : State :=
  { s with
    mem := s.mem.purge (fun a => inWindow n a || inCoef n a)
    walkWb := s.walkWb.filter (fun w => !inCoef n w.addr) }

/-- A copy of the square named when GO was accepted starts (R41). -/
def Region.startCopy (r : Region) : Region :=
  { r with cstat := .copying, row := 0, copyWr := none, spare := [], castleWait := false }

/-- A region runs from now on; a castling that waited for it starts (R41). -/
def Region.toRun (r : Region) : Region :=
  let r := { r with pstate := .run, filling := false }
  if r.castleWait then r.startCopy else r

/-- A region reaches RUN, or the roll for which it was woken (R366). -/
def Region.arrive (r : Region) : Region :=
  if r.rollNext then { r with pstate := .rolling, rollNext := false, filling := false } else r.toRun

/-- A region's wake, castling included, seen from outside (R27). -/
def State.wakeRegion (s : State) (n : Nat) : State := s.onRgn n Region.wake

/-- The region's logic is back after a wake (R369, R370): it is filled, or runs. The turn counter and pointer start at
0 (R37). -/
def State.logicUp (s : State) (n : Nat) : State :=
  let r := s.rgn n
  if r.pstate != .waking || r.filling then s
  else
    let r := { r with turn := 0, ptr := 0, turnsNow := r.turns }
    if (!r.fromNap && !r.rollNext) || (r.fromNap && r.needsClear) then s.setRgn n { r with filling := true }
    else s.setRgn n r.arrive

/-- The zero-fill of a wake ends (R370). -/
def State.fillDone (s : State) (n : Nat) : State :=
  let r := s.rgn n
  if r.pstate != .waking || !r.filling then s
  else (s.zeroRegion n).setRgn n { r with needsClear := false, scrubPtr := 0, scrubWb := [] }.arrive

/-- An entry to IDLE lets a waiting frequency increase take effect (R54). -/
def Region.idleVf (r : Region) : Region :=
  if r.pend && !r.ramp then { r with know := bits r.vf 4 0, pend := false } else r

/-- The automatic entries apply to region n (R51, R369): PREQ is 000 and HOLD 0. Under a reserved code of PREQ that is
open (R58), and so free (DESIGN CHOICE log 16). -/
def State.automatic (s : State) (n : Nat) : Bool × State :=
  let r := s.rgn n
  if r.hold then (false, s) else if r.preq ≤ 2 then (r.preq == 0, s) else s.drawBool

/-- The automatic entry to IDLE (R369). -/
def State.idleEntry (s : State) (n : Nat) : State :=
  let r := s.rgn n
  let a := s.automatic n
  if r.pstate == .run && s.unbound n && !r.scrubDue && s.int.ivl != 0 && s.drained n && a.1 && r.scrubWake != some .nap then
    a.2.setRgn n { r with pstate := .idle, scrubWake := none }.idleVf
  else a.2

/-- The automatic entry to NAP: IDLE for PWR_NAPIDLE pips, or after a wake from NAP for a scrub row (R369). -/
def State.napEntry (s : State) (n : Nat) : State :=
  let r := s.rgn n
  let timed := r.pstate == .idle && s.pwr.napidle != 0 && decide (s.pwr.napidle.toNat ≤ r.idlePips)
  let back := r.pstate == .run && r.scrubWake == some .nap && !r.scrubDue
  let a := s.automatic n
  if (timed || back) && s.unbound n && s.drained n && a.1 then
    a.2.setRgn n { r with pstate := .nap, scrubWake := none, idlePips := 0 }
  else a.2

/-- A region turned OFF: its contents are lost, and so is a spare copy (R369). NEEDS_CLEAR keeps its value: the fill of
the next wake clears it (R370). -/
def State.regionOff (s : State) (n : Nat) : State :=
  (s.zeroRegion n).onRgn n (fun r =>
    { r with pstate := .off, filling := false, scrubWake := none, scrubDue := false, scrubWb := []
             idlePips := 0 })

/-- The state that PREQ requests is entered (R51, R46, R369). -/
def State.requestedEntry (s : State) (n : Nat) : State :=
  let r := s.rgn n
  let up := r.pstate == .run || r.pstate == .idle
  if r.hold || !s.vacated n || !s.drained n || r.rollNext then s
  else if r.preq == 1 && up then s.setRgn n { r with pstate := .nap, scrubWake := none, idlePips := 0 }
  else if r.preq == 2 && (up || r.pstate == .nap) then s.regionOff n
  else s

/-- A write to RGN_CTL: setting HOLD wakes the region (R51, R27). After a reserved code of PREQ the field holds a free
value (R58, DESIGN CHOICE log 16). -/
def State.writeRgnCtl (s : State) (n : Nat) (v : Word) : State :=
  let d := s.draw 20
  let p := if bits v 4 2 ≤ 2 then (v, s) else ((v &&& 3) ||| (d.1 &&& 0x1C), d.2)
  let s := p.2.onRgn n (fun r => { r with ctl := p.1 &&& 0x1F })
  if bit v 0 then s.wakeRegion n else s

/-! ## Voltage and frequency (R53, R54, R206, R359) -/

/-- A write to RGN_VF (R53, R54). The frequency in force that it is compared with is that of the plan, without the steps
of R206 and R359 (DEDUCED log 82). -/
def Region.writeVf (r : Region) (v : Word) : Region :=
  let vc := min 120 (bits v 12 5)
  let k := min 20 (bits v 4 0)
  { r with
    vf := BitVec.ofNat 20 (vc * 32 + k)
    know := if r.know < k then k else r.know
    pend := decide (k < r.know)
    ramp := decide (r.vnow ≠ vc) }

/-- One step of a voltage ramp: at most 4 codes toward VCODE (R54). -/
def Region.rampStep (r : Region) : Region :=
  let vc := bits r.vf 12 5
  let v := if r.vnow < vc then min vc (r.vnow + 4) else max vc (r.vnow - 4)
  { r with vnow := v, ramp := decide (v ≠ vc) }

/-- A temperature reading and the throttling step that it calls for (R359): 100 °C is 800, 97 °C is 776. -/
def Region.throttle (r : Region) (t : BitVec 12) : Region :=
  let r := { r with temp := t, tempOk := true }
  if 800 ≤ t.toInt then (if r.kNow < 20 then { r with thermal := r.thermal + 1 } else r)
  else if t.toInt < 776 then { r with thermal := r.thermal - 1 }
  else r

/-- A write to RGN_TURNS: RES above 32 is taken as 32; in force from the next round (R55). -/
def Region.writeTurns (r : Region) (v : Word) : Region :=
  { r with turns := BitVec.ofNat 20 (bits v 8 6 * 64 + min 32 (bits v 5 0)) }

/-! ## Castling (R41-R44) -/

/-- The lowest physical square in service whose margin is below the threshold (R358). -/
def Region.lowSquare (r : Region) : Option Nat :=
  (List.range 128).find? (fun q =>
    let w := SMap.get 0 r.sq q
    bit w 19 && decide (bits w 9 0 < r.rmth.toNat) && q != r.moved.toNat && (q != 127 || r.moved != 0x7F))

/-- LOW and LOWSQ as the margins and the squares in service give them (R358). -/
def Region.relow (r : Region) : Region :=
  match r.lowSquare with
  | none => { r with low := false, lowsq := 0 }
  | some q => { r with low := true, lowsq := BitVec.ofNat 7 q }

/-- LOW and LOWSQ brought up to date; a rise of LOW is logged, and the keeper firmware will act on it (R358, R360). -/
def State.updateLow (s : State) (n : Nat) : State :=
  let r := s.rgn n
  let t := s.setRgn n r.relow
  if r.low || !r.relow.low then t
  else { t.logEvent 0xE 0 n (0, 0) 0 0 r.relow.lowsq.toNat with keeper := { t.keeper with low := t.keeper.low ++ [n] } }

/-- Square j held in the spare square from now on: physical square j is retired and has no margin (R44, R358). -/
def Region.retire (r : Region) (j : BitVec 7) : Region :=
  { r with moved := j, sq := if j = 0x7F then r.sq else SMap.set 0 r.sq j.toNat 0 }

/-- A start of castling, by the first matching row of R41. ROW starts from 0 at every accepted GO (R57). -/
def State.castleGo (s : State) (n : Nat) (j : BitVec 7) : State :=
  let r := s.rgn n
  if r.cstat == .copying then s
  else if r.moved != 0x7F || j == 0x7F || r.pstate == .rolling then s.setRgn n { r with cstat := .refused }
  else
    match r.pstate with
    | .off => (s.setRgn n { r.retire j with target := j, cstat := .done, row := 0 }).updateLow n
    | .run => s.setRgn n { r with target := j, copySq := j }.startCopy
    | .idle => s.setRgn n { r.wake with target := j, copySq := j }.startCopy
    | .nap => s.setRgn n { r.wake with target := j, copySq := j, castleWait := true, row := 0 }
    | .waking => s.setRgn n { r.wake with target := j, copySq := j, castleWait := true, row := 0 }
    | .rolling => s

/-- A write to RGN_SPARE (R56, R41). With GO = 1 it acts on TARGET alone, in OFF too, where the MOVED field of the same
write is not taken (DESIGN CHOICE log 83). -/
def State.writeSpare (s : State) (n : Nat) (v : Word) : State :=
  if bit v 14 then s.castleGo n (v.extractLsb' 7 7)
  else
    let r := { s.rgn n with target := v.extractLsb' 7 7 }
    if r.pstate == .off then (s.setRgn n (r.retire (v.extractLsb' 0 7))).updateLow n else s.setRgn n r

/-- The copier's write of the row that it has read (R42). -/
def Region.copyWrite (r : Region) : Region :=
  match r.copyWr with
  | some p => { r with spare := SMap.set 0 r.spare p (r.copyCell ^^^ encode 0 p), copyWr := none }
  | none => r

/-- What the copier writes of a word it has read, counted and logged (R42, R349). -/
def State.copyRead (s : State) (n a : Nat) : State × BitVec 31 :=
  let l : Loc := .region n (a % 0x800000)
  let x := s.stored a l.row
  let syn := synWord (syndrome x l.row)
  match decode x l.row with
  | .good d k =>
    if k = 0 then (s, encode d l.row)
    else
      let s := s.countCe n
      (if s.int.celog then s.logAt k (5, 0) a l syn else s, encode d l.row)
  | .uncorr => ((s.countUe n).logAt 6 (5, 0) a l syn, encode (cellData x) l.row ^^^ poisonVec)
  | .poison => (s, encode (cellData x) l.row ^^^ poisonVec)

/-- The copier has a row to read. -/
def Region.copies (r : Region) : Bool := r.cstat == .copying && decide (r.row < 65536)

/-- The window offset of the word that the copier reads next (R42). -/
def Region.copyOff (r : Region) : Nat := r.row * 127 + r.copySq.toNat

/-- The copier's read is granted, and in the same turn its write of the row that it holds (R42): square 127 has no other
access in that turn, since only a mirrored write uses it, and that takes the target square as well (R43). -/
def State.copyGrant (s : State) (n : Nat) : State :=
  let x := s.copyRead n (0x800000 * n + (s.rgn n).copyOff)
  x.1.onRgn n (fun q => { q.copyWrite with row := q.row + 1, copyWr := some q.row, copyCell := x.2 })

/-- The copier's grant in a turn in which nothing stands in its way (R42, R43); one that competes with other accesses is
an access of slot 16 in BOARD_ACCESS_GRANT (DESIGN CHOICE log 84). -/
def State.copyRow (s : State) (n : Nat) : State :=
  let r := s.rgn n
  if !r.copies || r.pstate != .run then s
  else (s.copyGrant n).onRgn n (fun q => { q with waiting := q.waiting.filter (fun w => !(w.req.slot == 16)) })

/-- The words of a logical square replaced by those of the spare square. -/
def State.adoptSpare (s : State) (n j : Nat) (sp : SMap (BitVec 31)) : State :=
  let m := s.mem.purge (fun a => inWindow n a && decide (a % 0x800000 % 127 = j))
  { s with mem := sp.foldl (fun m e => SMap.set 0 m (0x800000 * n + e.1 * 127 + j) e.2) m }

/-- The board switches over (R44). -/
def State.switchover (s : State) (n : Nat) : State :=
  let r := s.rgn n
  if r.cstat != .copying || decide (r.row ≠ 65536) then s
  else
    let r := r.copyWrite
    let s := (s.adoptSpare n r.copySq.toNat r.spare).setRgn n { r.retire r.copySq with cstat := .done, spare := [] }
    (s.updateLow n).keeperIrq (.castle n)

/-! ## Turns (R34-R39) -/

/-- Whether turn t is reserved, with RES = N (R36). -/
def isReserved (t res : Nat) : Bool := (t % 128 + 1) * res / 128 != t % 128 * res / 128

/-- Whether turn t is a scrub turn (R36). -/
def isScrub (t sp : Nat) : Bool := t % (128 * 2 ^ sp) == 0

/-- The class-0 contexts of cluster k among those bound to it and leaving it (R34): the bound one's, and the outgoing
one's, whose save traffic keeps its class. -/
def State.boundC0 (s : State) (k : Nat) : Bool :=
  match (s.core k).bound with | some x => ctlClass (s.ctl x) == 0 | none => false

/-- The outgoing context of cluster k is of class 0. -/
def State.outC0 (s : State) (k : Nat) : Bool :=
  match (s.core k).out with | some o => ctlClass (s.ctl o.ctx) == 0 | none => false

/-- The cluster of region n that slot t belongs to (R34). -/
def slotCluster (n t : Nat) : Nat := if t ≤ 5 ∨ t = 12 then 2 * n else 2 * n + 1

/-- An access of save traffic (R34): hardware writes through the slot of a steward core. -/
def reqSaves (q : BoardReq) : Bool :=
  (q.slot == 12 || q.slot == 13) && q.who == Master.hardware && (match q.kind with | .read => false | _ => true)

/-- Whether an access is class 0 (R34). -/
def State.reqC0 (s : State) (n : Nat) (q : BoardReq) : Bool :=
  if q.slot ≤ 13 then (if reqSaves q then s.outC0 (slotCluster n q.slot) else s.boundC0 (slotCluster n q.slot)) else q.slot == 14

/-- An access of a fetch refill (R34, R35). -/
def reqRefill (q : BoardReq) : Bool := match q.who with | .fetch _ => true | _ => false

/-- The share of a slot's accesses per turn that an access counts in, and how many accesses it holds (R34). -/
def reqShare (q : BoardReq) : Nat × Nat :=
  if q.slot ≤ 11 then (q.slot, 8)
  else if q.slot ≤ 13 then
    (if reqRefill q then (20 + q.slot, 8) else if q.who == Master.hardware then (40 + q.slot, 16) else (q.slot, 4))
  else if q.slot ≤ 15 then (14, 32)
  else (16, 1)

/-- The waiting accesses that are presented in a turn, the oldest of each share first (R34). -/
def presented : List PendAcc → List PendAcc → List PendAcc
  | _, [] => []
  | seen, w :: l =>
    if (seen.filter (fun x => reqShare x.req == reqShare w.req)).length < (reqShare w.req).2 then w :: presented (w :: seen) l
    else presented seen l

/-- The order of slots from pointer p (R37). -/
def slotOrder (p : Nat) : List Nat := (List.range 17).map (fun i => (p + i) % 17)

/-- The access that slot t presents to the accesses of a square, the oldest first and a fetch refill after the others
(R35). -/
def headOf (here : List PendAcc) (t : Nat) : Option PendAcc :=
  match here.find? (fun w => w.req.slot == t && !reqRefill w.req) with
  | some w => some w
  | none => here.find? (fun w => w.req.slot == t)

/-- The presented access that a physical square grants: of the first slot in order that presents one, in a reserved turn
the first class-0 one (R37, R38). -/
def State.grantFor (s : State) (n : Nat) (r : Region) (l : List PendAcc) (reserved : Bool) (q : Nat) : Option PendAcc :=
  let here := l.filter (fun w => r.physical (squareOf w.req.off) == q)
  let c0 := if reserved then (slotOrder r.ptr).findSome? (fun t => (headOf here t).filter (fun w => s.reqC0 n w.req)) else none
  match c0 with
  | some w => some w
  | none => (slotOrder r.ptr).findSome? (headOf here)

/-- A granted access performed (R28, R17). -/
def State.performReq (s : State) (n : Nat) (w : PendAcc) : State × Grant :=
  let a := 0x800000 * n + w.req.off
  let l : Loc := .region n w.req.off
  let who := logWho w.req.who
  match w.req.kind with
  | .read =>
    match s.readSram who a l with
    | (s, .ok v) => (s, { slot := w.req.slot, off := w.req.off, result := .ok [v] })
    | (s, .bad e) => (s, { slot := w.req.slot, off := w.req.off, result := .bad e a })
  | .write v => (s.writeBoard n w.req.off v true, { slot := w.req.slot, off := w.req.off, result := .ok [] })
  | .add v =>
    match s.readSram who a l with
    | (s, .ok o) => (s.writeBoard n w.req.off (o + v) true, { slot := w.req.slot, off := w.req.off, result := .ok [o] })
    | (s, .bad e) => (s, { slot := w.req.slot, off := w.req.off, result := .bad e a })

/-- Granted accesses performed in rising order of address, so that an armed mask meets the lowest (R356). -/
def State.performAll (s : State) (n : Nat) : List PendAcc → State × List Grant
  | [] => (s, [])
  | w :: ws =>
    let r := s.performReq n w
    let q := State.performAll r.1 n ws
    (q.1, r.2 :: q.2)

/-- An access inserted by its offset. -/
def insertAcc (w : PendAcc) : List PendAcc → List PendAcc
  | [] => [w]
  | x :: l => if w.req.off < x.req.off then w :: x :: l else x :: insertAcc w l

/-- The turn counter after a turn; RGN_TURNS takes effect at the start of a round (R55). -/
def Region.endTurn (r : Region) (moves : Bool) : Region :=
  let t := r.turn + 1
  { r with turn := t, ptr := if moves then (r.ptr + 1) % 17 else r.ptr
           turnsNow := if t % 128 = 0 then r.turns else r.turnsNow }

/-- A row is due: its interval has passed, or every scrub turn with IVL = 0 (R352). -/
def State.rowDue (s : State) (n : Nat) : Bool := (s.rgn n).scrubDue || s.int.ivl == 0

/-- A word that the scrubber has read: counts, log, and the write-back that it holds (R353). -/
def State.scrubWord (s : State) (a : Nat) (l : Loc) : State × Option WriteBack :=
  let x := s.stored a l.row
  let syn := synWord (syndrome x l.row)
  match decode x l.row with
  | .good d k =>
    if k = 0 then (s, none)
    else
      let s := s.countCe l.unit
      (if s.int.celog then s.logAt k (4, 0) a l syn else s, some { addr := a, cell := encode d l.row })
  | .uncorr =>
    ((s.countUe l.unit).logAt 5 (4, 0) a l syn, some { addr := a, cell := encode (cellData x) l.row ^^^ poisonVec })
  | .poison => (s, none)

/-- The words of a row of every logical square read (R352); the listed cells are the only ones that can need
anything, so the walk is over them. -/
def State.scrubCells (s : State) (n row : Nat) : List Nat → State × List WriteBack
  | [] => (s, [])
  | a :: l =>
    if inWindow n a && decide (a % 0x800000 / 127 = row) then
      let r := s.scrubWord a (.region n (a % 0x800000))
      let q := State.scrubCells r.1 n row l
      (q.1, match r.2 with | some w => w :: q.2 | none => q.2)
    else State.scrubCells s n row l

/-- A scrubber's write-backs performed (R353). -/
def State.applyWb (s : State) : List WriteBack → State
  | [] => s
  | w :: ws => State.applyWb (s.putCell w.addr w.cell) ws

/-- A scrub turn that the scrubber takes (R37, R352, R353). -/
def State.scrubRow (s : State) (n : Nat) : State :=
  let wb := (s.rgn n).scrubWb
  let s := s.applyWb wb
  let row := (s.rgn n).scrubPtr
  let q := s.scrubCells n row (List.map (fun e => e.1) s.mem)
  q.1.onRgn n (fun r => { r.endTurn false with scrubWb := q.2, scrubPtr := (row + 1) % 65536, scrubDue := false })

/-- An access may be presented: it lies in the window, and the copier's is the read of its next row, once (R34, R42). -/
def Region.admits (r : Region) (q : BoardReq) : Bool :=
  decide (q.off < 0x7F0000)
    && (decide (q.slot < 16)
      || (q.slot == 16 && r.copies && q.off == r.copyOff && q.kind == .read && !r.waiting.any (fun w => w.req.slot == 16)))

/-- A waiting access after a turn that did not grant it: it has waited one more turn since it was first presented. -/
def PendAcc.older (l : List PendAcc) (w : PendAcc) : PendAcc := if l.contains w then { w with age := w.age + 1 } else w

/-- Granted accesses performed in a turn; the copier's is its own (R42). -/
def State.performTurn (s : State) (n : Nat) (l : List PendAcc) : State × List Grant :=
  let q := s.performAll n ((l.filter (fun w => !(w.req.slot == 16))).foldl (fun l w => insertAcc w l) [])
  (if l.any (fun w => w.req.slot == 16) && (s.rgn n).copies then q.1.copyGrant n else q.1, q.2)

/-- One turn of a board with newly presented accesses (R34-R38, R52, R57). -/
def State.boardTurn (s : State) (n : Nat) (reqs : List BoardReq) : State :=
  let r := s.rgn n
  if r.pstate != .run then s
  else
    let old := r.waiting.filter (fun w => decide (w.req.slot < 16) || r.copies)
    let all := old ++ (reqs.filter r.admits).map (fun q => ({ req := q, age := 0 } : PendAcc))
    let shown := presented [] all
    if isScrub r.turn (bits r.turnsNow 8 6) && s.rowDue n then
      (s.setRgn n { r with
        waiting := all.map (PendAcc.older shown), grants := []
        contend := r.contend + (if shown = [] then 0 else 1) }).scrubRow n
    else
      let reserved := isReserved r.turn (bits r.turnsNow 5 0)
      let granted := (List.range 128).filterMap (s.grantFor n r shown reserved)
      let rest := granted.foldl List.erase all
      let late := granted.any (fun w => s.reqC0 n w.req && decide (128 < w.age))
      let q := (s.setRgn n { r with waiting := rest.map (PendAcc.older shown) }).performTurn n granted
      q.1.onRgn n (fun x => { x.endTurn (!reserved) with
        grants := q.2, c0late := x.c0late || late
        contend := x.contend + (if granted.length < shown.length then 1 else 0) })

/-- Turns up to turn t pass with nothing presented, under one value of RGN_TURNS: the pointer moves in those that are not
reserved (R36, R37). -/
def Region.passTo (r : Region) (t : Nat) : Region :=
  let res := bits r.turnsNow 5 0
  { r with turn := t, ptr := (r.ptr + (t - r.turn - (t * res / 128 - r.turn * res / 128))) % 17 }

/-- The board at its next scrub turn, the turns before it passing with nothing presented; RGN_TURNS takes effect at the
next round (R36, R55). -/
def Region.toScrub (r : Region) : Region :=
  if isScrub r.turn (bits r.turnsNow 8 6) then r
  else
    let r := { r.passTo ((r.turn / 128 + 1) * 128) with turnsNow := r.turns }
    let per := 128 * 2 ^ bits r.turnsNow 8 6
    r.passTo ((r.turn + per - 1) / per * per)

/-- The board's next scrub turn with a row due (R36, R37). Turns pass before it only while nothing is waiting. -/
def State.scrubTurn (s : State) (n : Nat) : State :=
  let r := s.rgn n
  let now := isScrub r.turn (bits r.turnsNow 8 6)
  if r.pstate != .run || !s.rowDue n || (!now && r.waiting != []) then s
  else (s.setRgn n r.toScrub).boardTurn n []

/-- A scrub row falls due every INT_SCRUB_IVL pips, at most one at a time; it wakes a region in IDLE or NAP (R352,
R369). -/
def State.scrubFallsDue (s : State) (n : Nat) : State :=
  let r := s.rgn n
  if r.pstate == .off || decide (s.pip.now.toNat < r.scrubLast + s.int.ivl.toNat) then s
  else if r.scrubDue then s.setRgn n { r with scrubLast := s.pip.now.toNat }
  else
    let r := { r with scrubDue := true, scrubLast := s.pip.now.toNat }
    match r.pstate with
    | .idle => s.setRgn n { r with pstate := .run, scrubWake := some .idle }
    | .nap => s.setRgn n { r with pstate := .waking, fromNap := true, filling := false, scrubWake := some .nap }
    | .run => s.setRgn n r
    | .waking => s.setRgn n r
    | .rolling => s.setRgn n r
    | .off => s

/-! ## Monitors and re-planning (R358-R360) -/

/-- A region's logic is on: its monitors measure (R369). -/
def monitored (p : PState) : Bool := p == .run || p == .idle || p == .rolling

/-- A margin measured, while the region's logic is on (R358): a retired square has none. -/
def State.margin (s : State) (n : Nat) (q : BitVec 7) (m : BitVec 10) : State :=
  let r := s.rgn n
  if !monitored r.pstate || (q = r.moved && r.moved != 0x7F) then s
  else (s.setRgn n { r with sq := SMap.set 0 r.sq q.toNat (0x80000 ||| m.zeroExtend 20) }).updateLow n

/-! ## Registers (R49-R57, R355, R358) -/

/-- A register of the RGN block read. None where the block has no register. -/
def State.rgnReg (s : State) (n off : Nat) : Option (State × Word) :=
  let r := s.rgn n
  match off with
  | 0 => some (s, r.ctl)
  | 1 => some (s, s.rgnState n)
  | 2 => some (s, r.vfWord)
  | 3 => some (s, r.vfNow)
  | 4 => some (s, r.turns)
  | 5 => some (s, r.spareWord)
  | 6 => some (s, BitVec.ofNat 20 r.row)
  | 8 => some (s, loW r.contend)
  | 9 => some (s, hiW r.contend)
  | 0x100 => some (s, BitVec.ofNat 20 (r.rmth.toNat * 4096 + b2n r.low * 2048 + r.lowsq.toNat * 16))
  | 0x101 => some (s, BitVec.ofNat 20 (b2n r.tempOk * 2 ^ 19 + r.temp.toNat))
  | 0x102 => some (s, loW r.eqt)
  | 0x103 => some (s, hiW r.eqt)
  | 0x104 => some (s, (Config.ageD0 n).zeroExtend 20)
  | 0x105 => some (s, (Config.ageSens n).zeroExtend 20)
  | 0x200 => some (s, loW r.flip)
  | 0x201 => some (s, hiW r.flip)
  | o =>
    if 0x108 ≤ o ∧ o < 0x110 then some (s, SMap.get 0 r.cp (o - 0x108))
    else if 0x180 ≤ o ∧ o < 0x200 then some (s, SMap.get 0 r.sq (o - 0x180))
    else none

/-- A register of the RGN block written. -/
def State.rgnWrite (s : State) (n off : Nat) (v : Word) : State :=
  match off with
  | 0 => s.writeRgnCtl n v
  | 1 => if bit v 9 then s.onRgn n (fun r => { r with c0late := false }) else s
  | 2 => s.onRgn n (fun r => r.writeVf v)
  | 4 => s.onRgn n (fun r => r.writeTurns v)
  | 5 => s.writeSpare n v
  | 8 => s.onRgn n (fun r => { r with contend := putLo r.contend v })
  | 9 => s.onRgn n (fun r => { r with contend := putHi r.contend v })
  | 0x100 => (s.onRgn n (fun r => { r with rmth := v.extractLsb' 12 8 })).updateLow n
  | 0x102 => s.onRgn n (fun r => { r with eqt := putLo r.eqt v })
  | 0x103 => s.onRgn n (fun r => { r with eqt := putHi r.eqt v })
  | 0x200 => s.onRgn n (fun r => { r with flipLow := v })
  | 0x201 => s.onRgn n (fun r => { r with flip := dbl r.flipLow v &&& 0x807FFFFFFF })
  | _ => s

end Sys2Proof.Machine
end

