-- ==== Sys2Proof/Machine/Ageing.lean ====
section
/-! DEFINITION. Ageing: critical-path and equivalent-time monitors (R358), re-planning (R360), projected life (R361), the
records of the ledger (R362, R363), and what the keeper firmware does of itself with them. -/

namespace Sys2Proof.Machine

/-! ## Monitors (R358) -/

/-- The greatest number below 2^n above acc whose 80th power is at most x, built from bit n - 1 down. -/
def root80 (x acc : Nat) : Nat → Nat
  | 0 => acc
  | n + 1 => root80 x (if (acc + 2 ^ n) ^ 80 ≤ x then acc + 2 ^ n else acc) n

/-- 2^((T - 85 °C) ÷ 10 °C) pips in units of 2^-64 pip, for a reading in units of 0.125 °C (R358); 85 °C is 680. -/
def eqtStep (t : BitVec 12) : Nat := root80 (2 ^ (t.toInt + 4440).toNat) 0 84

/-- The equivalent time after a pip at temperature t (R358): a unit of 1/16 s is 2^80 of the fraction's. How the last digit
of a step is rounded is open (Config.eqtRound, DESIGN CHOICE log 24). -/
def Region.addEqt (r : Region) (n : Nat) : Region :=
  let x := r.eqtFrac + eqtStep r.temp + Config.eqtRound n % 2
  { r with eqtFrac := x % 2 ^ 80, eqt := r.eqt + BitVec.ofNat 40 (x / 2 ^ 80) }

/-- The critical-path monitors of region n at the end of pip p, where the measurement of monitor k gives a delay (R358,
Config.pathDelay, DESIGN CHOICE log 24). -/
def Region.measure (r : Region) (n p : Nat) : Region :=
  { r with cp := (List.range 8).foldl (fun m k =>
      match Config.pathDelay n k p with
      | some d => SMap.set 0 m k (0x80000 ||| d.zeroExtend 20)
      | none => m) r.cp }

/-- The largest delay that the critical-path monitors read, in units of 0.25 ps (R360). -/
def Region.delay (r : Region) : Nat := (List.range 8).foldl (fun m k => max m (bits (SMap.get 0 r.cp k) 15 0)) 0

/-! ## The plan (R360) -/

/-- VCODE that divider k needs (R360), with the delay in 0.25 ps and SENS in 1/64 ps: v0 + ⌈(D - Dmax) ÷ S⌉. -/
def planV (v0 delay sens : Nat) (k : Nat) : Int :=
  let m : Int := 40 - k
  let num : Int := (delay * m - 80000 + 160 * m) * 16
  let den : Int := m * sens
  v0 - (-num) / den

/-- The smallest divider from k that fits under the ceiling, with its VCODE (R360). -/
def planK (v0 delay sens : Nat) : Nat → Nat → Int × Nat
  | 0, k => (planV v0 delay sens k, k)
  | n + 1, k => if planV v0 delay sens k ≤ 100 then (planV v0 delay sens k, k) else planK v0 delay sens n (k + 1)

/-- The plan's VCODE and divider; a part whose SENS fuses hold 0 has no quotient, and a free one (DESIGN CHOICE log 24). -/
def State.plan (s : State) (v0 delay sens : Nat) : (Int × Nat) × State :=
  if sens = 0 then
    let d := s.draw 12
    (((bits d.1 6 0 : Nat), min 20 (bits d.1 11 7)), d.2)
  else (planK v0 delay sens 20 0, s)

/-- The logical square that a physical one holds (R29). -/
def Region.logical (r : Region) (q : Nat) : BitVec 7 := if q = 127 then r.moved else BitVec.ofNat 7 q

/-- AGEING_LIMIT raised: the keeper firmware writes a ledger record at once and posts host source 1 (R360). -/
def State.ageingLimit (s : State) : State :=
  { s with int := { s.int with age := true }, keeper := { s.keeper with due := true } }.hostIrq 1

/-- A divider k planned for region n, and the LOW branch of the plan: the low square is castled out while the spare is
free, else the region is derated (R360). -/
def State.planLow (s : State) (n : Nat) (v k : Nat) (limit : Bool) : State :=
  let r := s.rgn n
  let castle := r.low && r.moved == 0x7F
  let derate := r.low && !castle
  let s := if limit || derate then s.ageingLimit else s
  let s := if castle then s.castleGo n (r.logical r.lowsq.toNat) else s
  s.onRgn n (fun x => x.writeVf (BitVec.ofNat 20 (v * 32 + min 20 (if derate then k + 1 else k))))

/-- A re-plan of region n (R360); while its ramp runs it waits in the keeper's list. -/
def State.replan (s : State) (n : Nat) : State :=
  let r := s.rgn n
  let v0 := bits r.vf 12 5
  if !s.regionOn n then s
  else if r.vnow ≠ v0 then
    { s with keeper := { s.keeper with plans := s.keeper.plans.filter (fun m => m != n) ++ [n] } }
  else
    let p := s.plan v0 r.delay (Config.ageSens n).toNat
    let v := min (max (max p.1.1 ((v0 : Int) - 4)) 0) 100
    p.2.planLow n v.toNat p.1.2 (decide (bits r.vf 4 0 < p.1.2))

/-- The keeper firmware acts on a record of KIND 0x0E by the LOW branch of the plan, without a new plan (R360); a region
that is OFF measures no margin. -/
def State.actLow (s : State) (n : Nat) : State :=
  let r := s.rgn n
  if !s.regionOn n || r.pstate == .off || !r.low then s
  else if r.moved == 0x7F then s.castleGo n (r.logical r.lowsq.toNat)
  else s.planLow n (bits r.vf 12 5) (bits r.vf 4 0) false

/-! ## The ledger's records (R362, R363) -/

/-- A cell of the ledger; erased cells read 0xFFFF (R350). -/
def IntBlk.cell (i : IntBlk) (c : Nat) : BitVec 16 := SMap.get 0xFFFF i.ledger c

/-- The cells of a slot from cell i on. -/
def IntBlk.cells (i : IntBlk) (slot from' n : Nat) : List (BitVec 16) := (List.range n).map (fun j => i.cell (1024 * slot + from' + j))

/-- Cells as a number, the low one first. -/
def cellNat : List (BitVec 16) → Nat
  | [] => 0
  | c :: l => c.toNat + 2 ^ 16 * cellNat l

/-- The CRC of a slot is correct (R362, R363). -/
def IntBlk.slotOk (i : IntBlk) (slot : Nat) : Bool :=
  (crc32 (cellBytes (i.cells slot 0 1022))).toNat == cellNat (i.cells slot 1022 2)

/-- SEQ of the record in a slot (R362). -/
def IntBlk.slotSeq (i : IntBlk) (slot : Nat) : Nat := cellNat (i.cells slot 1 2)

/-- The slot of the valid record: the highest SEQ among the records whose CRC is correct (R363). -/
def IntBlk.valid (i : IntBlk) : Option Nat :=
  ((List.range 32).filter i.slotOk).foldl (fun b x =>
    match b with
    | none => some x
    | some y => if i.slotSeq y < i.slotSeq x then some x else some y) none

/-- Cell j of region n's entry in a slot (R362). -/
def IntBlk.entry (i : IntBlk) (slot n j : Nat) : BitVec 16 := i.cell (1024 * slot + 8 + 16 * n + j)

/-- RGN_AGE_EQT of region n in a slot's record (R362). -/
def IntBlk.slotEqt (i : IntBlk) (slot n : Nat) : Nat := cellNat (i.cells slot (10 + 16 * n) 3) % 2 ^ 40

/-- SEQ of the next record; the first one's is 0 (DESIGN CHOICE log 23). -/
def IntBlk.nextSeq (i : IntBlk) : Nat := match i.valid with | some x => i.slotSeq x + 1 | none => 0

/-- Growth of region n's equivalent time over the last 32 records, which the next one ends; none where the ledger does not
hold that many (R361). -/
def State.growth (s : State) (n : Nat) : Option Nat :=
  let q := s.int.nextSeq
  let slot := q % 32
  if 32 ≤ q ∧ s.int.slotOk slot = true ∧ s.int.slotSeq slot = q - 32 then some ((s.rgn n).eqt.toNat - s.int.slotEqt slot n) else none

/-- Projected remaining life of region n in hours (R361), with delays in units of 1/64 ps. Where the rule's quotients have
no value, for a growth of 0, for fewer than 32 records and for a delay beyond the ceiling, the result is free; so is the
rounding of an inexact one (DESIGN CHOICE log 85). -/
def State.life (s : State) (n : Nat) : State × BitVec 32 :=
  let r := s.rgn n
  let sens : Int := (Config.ageSens n).toNat
  let d0 : Int := 16 * (Config.ageD0 n).toNat
  let dD : Int := 16 * r.delay + sens * ((bits r.vf 12 5 : Nat) - 40) - d0
  let dC : Int := 29440 + sens * 60 - d0
  if dD ≤ 0 then (s, 0xFFFFFFFF)
  else
    let f := s.draw 32
    match s.growth n with
    | none => (f.2, f.1)
    | some g =>
      let num : Int := r.eqt.toNat * (dC ^ 4 - dD ^ 4) * 32
      let den : Int := dD ^ 4 * g
      if g = 0 ∨ num < 0 ∨ dC < 0 then (f.2, f.1)
      else
        let up : Int := if num % den = 0 then 0 else (bits f.1 0 0 : Nat)
        (f.2, BitVec.ofNat 32 (min (num / den + up).toNat 0xFFFFFFFE))

/-- The square in service with the lowest valid margin, and that margin (R362). -/
def Region.worst (r : Region) : Option (Nat × Nat) :=
  (List.range 128).foldl (fun b q =>
    let w := SMap.get 0 r.sq q
    if bit w 19 && q != r.moved.toNat && (q != 127 || r.moved != 0x7F) then
      (match b with
        | some x => if bits w 9 0 < x.2 then some (q, bits w 9 0) else b
        | none => some (q, bits w 9 0))
    else b) none

/-- The entry of region n in the next record (R362): a disabled region's is all 0xFFFF. The margin of a region that has
measured none is free (DESIGN CHOICE log 85). -/
def State.ledgerEntry (s : State) (n : Nat) : State × List (BitVec 16) :=
  if !s.regionOn n then (s, List.replicate 16 0xFFFF)
  else
    let r := s.rgn n
    let v := bits r.vf 12 5
    let k := bits r.vf 4 0
    let ever := decide (0 < k) || (match s.int.valid with | some x => bit (s.int.entry x n 1) 8 | none => false)
    let l := s.life n
    let d := l.1.draw 32
    let w : State × BitVec 16 × BitVec 16 :=
      match r.worst with
      | some x => (l.1, BitVec.ofNat 16 x.2, BitVec.ofNat 16 x.1)
      | none => (d.2, d.1.extractLsb' 0 16, d.1.extractLsb' 16 16)
    (w.1, [BitVec.ofNat 16 (v * 256 + k), BitVec.ofNat 16 (r.moved.toNat + b2n ever * 256)] ++ leCells r.eqt.toNat 3
      ++ [BitVec.ofNat 16 r.delay, w.2.1, w.2.2] ++ leCells l.2.toNat 2 ++ List.replicate 6 0)

/-- The entries of regions from n on. -/
def State.ledgerEntries (s : State) (n : Nat) : Nat → State × List (BitVec 16)
  | 0 => (s, [])
  | m + 1 =>
    let e := s.ledgerEntry n
    let q := State.ledgerEntries e.1 (n + 1) m
    (q.1, e.2 ++ q.2)

/-- The next record of the ledger, with its CRC (R362). -/
def State.ledgerRecord (s : State) : State × Nat × List (BitVec 16) :=
  let q := s.int.nextSeq
  let e := s.ledgerEntries 0 48
  let l := [0x0001] ++ leCells q 2 ++ leCells s.pip.now.toNat 4 ++ [BitVec.ofNat 16 (b2n s.int.age)] ++ e.2 ++ List.replicate 246 0
  (e.1, q, l ++ leCells (crc32 (cellBytes l)).toNat 2)

/-- The keeper firmware starts to write a record into its slot; while a ledger operation runs it waits (R350, R362). -/
def State.recordStart (s : State) : State :=
  if s.int.ldgOp.isSome then { s with keeper := { s.keeper with due := true } }
  else
    let r := s.ledgerRecord
    { r.1 with
      int := { r.1.int with ldgOp := some (.record r.2.1 r.2.2) }
      keeper := { r.1.keeper with due := false, lastRecord := s.pip.now.toNat } }

/-- Cells written from cell c on. -/
def putCells (m : SMap (BitVec 16)) (c : Nat) : List (BitVec 16) → SMap (BitVec 16)
  | [] => m
  | v :: vs => putCells (SMap.set 0xFFFF m c v) (c + 1) vs

/-- A record stands in its slot. -/
def IntBlk.putRecord (i : IntBlk) (seq : Nat) (cells : List (BitVec 16)) : IntBlk :=
  { i with ledger := putCells i.ledger (1024 * (seq % 32)) cells, ldgOp := none }

/-! ## The keeper firmware's own work -/

/-- Pips of an hour. -/
def hourPips : Nat := 3600 * 2 ^ 20

/-- A region's plan restored from the valid record, and after a cold reset, while it is still OFF, its castling and its
equivalent time (R363, R379). -/
def State.restoreRegion (s : State) (slot n : Nat) : State :=
  if !s.regionOn n then s
  else
    let e (j : Nat) : BitVec 16 := s.int.entry slot n j
    let s := s.onRgn n (fun r => r.writeVf (BitVec.ofNat 20 (bits (e 0) 15 8 * 32 + bits (e 0) 4 0)))
    if s.keeper.cold && (s.rgn n).pstate == .off then
      s.onRgn n (fun r => { r.retire ((e 1).extractLsb' 0 7) with eqt := BitVec.ofNat 40 (s.int.slotEqt slot n) })
    else s

/-- The keeper firmware, once started, restores what the valid record holds (R363, R374). -/
def State.restorePlan (s : State) : State :=
  let s := match s.int.valid with
    | some x => (List.range 48).foldl (fun (s : State) n => s.restoreRegion x n) s
    | none => s
  let now := s.pip.now.toNat
  { s with keeper := { s.keeper with restored := true, lastRecord := now, lastPlan := now } }

/-- What the keeper firmware does of itself at a pip edge (R360, R362, R363, DESIGN CHOICE log 23): it restores the plan
after it has started, acts on records of KIND 0x0E, re-plans every 24 hours, and writes a record every hour. -/
def State.keeperPip (s : State) : State :=
  if !(s.up && s.dev.stage == .firmware) then s
  else if !s.keeper.restored then s.restorePlan
  else
    let now := s.pip.now.toNat
    let s := s.keeper.low.foldl State.actLow { s with keeper := { s.keeper with low := [] } }
    let s := s.keeper.plans.foldl State.replan { s with keeper := { s.keeper with plans := [] } }
    let s := if s.keeper.lastPlan + 24 * hourPips ≤ now then
        (List.range 48).foldl State.replan { s with keeper := { s.keeper with lastPlan := now } }
      else s
    if s.keeper.due || decide (s.keeper.lastRecord + hourPips ≤ now) then s.recordStart else s

end Sys2Proof.Machine
end

