-- ==== Sys2Proof/Machine/Time.lean ====
section
/-! DEFINITION. The PTP clock, its registers, the timers and the timing pins (R333-R336), and PIP_NOW (R372). -/

namespace Sys2Proof.Machine

/-- A time as nanoseconds since 0; the nanosecond field counts 0 to 999,999,999 (R333). -/
def timeNs (t : BitVec 80) : Nat := bits t 79 32 * 10 ^ 9 + bits t 31 0

/-- The time of a number of nanoseconds, modulo 2^48 seconds. -/
def nsTime (n : Nat) : BitVec 80 := BitVec.ofNat 80 (n / 10 ^ 9 * 2 ^ 32 + n % 10 ^ 9)

/-- The time is within one tick after a whole second (R336). -/
def Ptp.near (p : Ptp) : Bool := decide (bits p.time 31 0 * 2 ^ 32 + p.frac.toNat < p.rate.toNat)

/-- The time set to a value: whether a whole second of it has come with it (R336). -/
def Ptp.to (p : Ptp) (t : BitVec 80) : Ptp := { p with time := t, turned := { p with time := t }.near }

/-- The clock advanced by ticks of the 625 MHz clock (R333), and whether they have brought a whole second (R336). -/
def Ptp.tick (p : Ptp) (n : Nat) : Ptp :=
  let f := p.frac.toNat + n * p.rate.toNat
  let q := { p with time := nsTime (timeNs p.time + f / 2 ^ 32), frac := BitVec.ofNat 32 f }
  { q with turned := bits q.time 79 32 != bits p.time 79 32 || q.near }

/-- The time moved by signed nanoseconds (R334); below 0 it wraps with the seconds. -/
def Ptp.adjust (p : Ptp) (ns : Dbl) : Ptp :=
  let all : Int := 2 ^ 48 * 10 ^ 9
  p.to (nsTime (((timeNs p.time : Int) + ns.toInt) % all).toNat)

/-- The die whose channels a timer triggers, and the event's number there (R335). -/
def timerEvent (t : Nat) : Nat × Nat := if t < 32 then (4, t) else ((t - 32) / 8, t % 8)

/-- The smallest m of R335: NEXT + m·PERIOD after the current time. -/
def nextEvent (next now period : Nat) : Nat :=
  if now < next then next + period else next + ((now - next) / period + 1) * period

/-- A timer's event (R335). -/
def State.timerFire (s : State) (t : Nat) : State :=
  let x := s.tmr t
  if !x.en || decide (s.ptp.time.toNat < x.next.toNat) then s
  else
    let e := timerEvent t
    let y : Timer :=
      if x.period = 0 then { x with fired := true, en := false }
      else { x with fired := true, next := nsTime (nextEvent (timeNs x.next) (timeNs s.ptp.time) x.period.toNat) }
    let s := s.setTmr t y
    let s := if decide (e.1 < 4) && s.fabricOff e.1 then s else s.dmaEvent e.1 1 e.2
    if x.wake then s.wakeCtx x.ctx.toNat 2 else s

/-- Word w of an 80-bit value. -/
def word80 (t : BitVec 80) (w : Nat) : Word := t.extractLsb' (20 * w) 20

/-- An 80-bit value of four words. -/
def of80 (a b c d : Word) : BitVec 80 := ((d ++ c) ++ b) ++ a

/-- A word of PTP_SET written; word 3 loads all four (R334). -/
def Ptp.set (p : Ptp) (w : Nat) (v : Word) : Ptp :=
  let b := SMap.set 0 p.setBuf w v
  if w = 3 then { p with setBuf := b }.to (of80 (SMap.get 0 b 0) (SMap.get 0 b 1) (SMap.get 0 b 2) v)
  else { p with setBuf := b }

/-- PTP_CTL as read (R334). -/
def Ptp.ctl (p : Ptp) : Word :=
  BitVec.ofNat 20 (b2n p.ppsen * 2 ^ 18 + p.ppsw.toNat * 2 ^ 10 + b2n p.ppsf * 2 ^ 9 + b2n p.syncok * 2 ^ 8
    + b2n p.svcen * 2 ^ 7)

/-- A write to PTP_CTL: CAP captures the time and PIP_NOW (R334); PPS_OUT is low while PPSEN is 0 (R336). -/
def State.writePtpCtl (s : State) (v : Word) : State :=
  let p := s.ptp
  let p := { p with
    ppsen := bit v 18, ppsw := v.extractLsb' 10 8, ppsf := p.ppsf && !bit v 9, svcen := bit v 7
    ppsOut := p.ppsOut && bit v 18 }
  { s with ptp := if bit v 19 then { p with todcap := p.time, pipcap := s.pip.now } else p }

/-- A read of PTP_TOD by a master: word 0 latches the others (R334). -/
def State.readTod (s : State) (b w : Nat) : State × Word :=
  if w = 0 then
    let t := s.ptp.time
    ({ s with ptp := { s.ptp with latch := putWords s.ptp.latch (4 * b + 1) [word80 t 1, word80 t 2, word80 t 3] } },
     word80 t 0)
  else (s, SMap.get 0 s.ptp.latch (4 * b + w))

/-- A read of PIP_NOW by a master: word 0 latches the others (R372). -/
def State.readPip (s : State) (b w : Nat) : State × Word :=
  let n := s.pip.now
  if w = 0 then
    ({ s with pip := { s.pip with latch := putWords s.pip.latch (4 * b + 1) [n.extractLsb' 20 20, n.extractLsb' 40 20] } },
     n.extractLsb' 0 20)
  else (s, SMap.get 0 s.pip.latch (4 * b + w))

/-- A word of a timer's registers read (R334). -/
def Timer.reg (x : Timer) (w : Nat) : Word :=
  if w < 4 then word80 x.next w
  else if w = 4 then loW x.period
  else if w = 5 then hiW x.period
  else if w = 6 then BitVec.ofNat 20 (b2n x.en * 2 ^ 19 + b2n x.wake * 2 ^ 18 + b2n x.fired * 2 ^ 17)
  else x.ctx

/-- A word of a timer's registers written; the write of word 3 makes NEXT take effect (R334). -/
def Timer.put (x : Timer) (w : Nat) (v : Word) : Timer :=
  if w = 3 then { x with next := of80 (SMap.get 0 x.buf 0) (SMap.get 0 x.buf 1) (SMap.get 0 x.buf 2) v }
  else if w < 3 then { x with buf := SMap.set 0 x.buf w v }
  else if w = 4 then { x with period := putLo x.period v }
  else if w = 5 then { x with period := putHi x.period v }
  else if w = 6 then { x with en := bit v 19, wake := bit v 18, fired := x.fired && !bit v 17 }
  else { x with ctx := v }

/-- A register of the PTP block read; none at an offset that is not listed (R334). -/
def State.ptpReg (s : State) (b off : Nat) : Option (State × Word) :=
  let p := s.ptp
  if off < 4 then some (s.readTod b off)
  else if off < 0xA then some (s, 0)
  else match off with
    | 0xA => some (s, loW p.rate)
    | 0xB => some (s, hiW p.rate)
    | 0xC => some (s, p.ctl)
    | 0xD => some (s, p.svc)
    | 0x18 => some (s, p.pipcap.extractLsb' 0 20)
    | 0x19 => some (s, p.pipcap.extractLsb' 20 20)
    | 0x1A => some (s, p.pipcap.extractLsb' 40 20)
    | 0x1C => some (s, loW p.syncerr)
    | 0x1D => some (s, hiW p.syncerr)
    | o =>
      if 0x10 ≤ o ∧ o < 0x14 then some (s, word80 p.ppscap (o - 0x10))
      else if 0x14 ≤ o ∧ o < 0x18 then some (s, word80 p.todcap (o - 0x14))
      else if 0x100 ≤ o ∧ o < 0x300 then some (s, (s.tmr ((o - 0x100) / 8)).reg (o % 8))
      else none

/-- A register of the PTP block written. -/
def State.ptpWrite (s : State) (off : Nat) (v : Word) : State :=
  let p := s.ptp
  if 4 ≤ off ∧ off < 8 then { s with ptp := p.set (off - 4) v }
  else match off with
    | 8 => { s with ptp := { p with adjLow := v } }
    | 9 => { s with ptp := p.adjust (dbl p.adjLow v) }
    | 0xA => { s with ptp := { p with rate := putLo p.rate v } }
    | 0xB => { s with ptp := { p with rate := putHi p.rate v } }
    | 0xC => s.writePtpCtl v
    | 0xD => { s with ptp := { p with svc := v } }
    | o =>
      if 0x100 ≤ o ∧ o < 0x300 then s.setTmr ((o - 0x100) / 8) ((s.tmr ((o - 0x100) / 8)).put (o % 8) v) else s

end Sys2Proof.Machine
end

