-- ==== Sys2Proof/Machine/Power.lean ====
section
/-! DEFINITION. Power input: telemetry, the cap and its steps, warnings, PMBus (R206, R392-R401). -/

namespace Sys2Proof.Machine

/-! ## Domains (R24) -/

/-- The always-on domain has power (R371, R392). -/
def State.powered (s : State) : Bool := s.pwr.dev != .unpowered

/-- The state of a die fabric: gated while nothing needs it, off by a fault, a keeper command or the device's state. -/
inductive FabState where
  | on
  | gated
  | off
  deriving DecidableEq, Repr

/-- Some master addresses the stack of die d. -/
def State.stackAddressed (s : State) (d : Nat) : Bool :=
  s.addressing (fun a => match s.locOf a with | .hbm h _ => h == d | _ => false)

/-- The state of die fabric d (R24, R27). -/
def State.fabState (s : State) (d : Nat) : FabState :=
  if s.fabricOff d then .off
  else if (List.range 12).any (fun i => s.regionOn (12 * d + i) && (s.rgn (12 * d + i)).pstate != .off) || s.stackAddressed d
  then .on
  else .gated

/-- The state of an HBM stack (R24, R371): it refreshes itself in STANDBY, and has no power in OFF. -/
inductive HbmState where
  | active
  | selfRefresh
  | unpowered
  deriving DecidableEq, Repr

/-- The state of the stacks. -/
def State.hbmState (s : State) : HbmState :=
  match s.pwr.dev with
  | .active => .active
  | .entering => .active
  | .standby => .selfRefresh
  | .returning => .selfRefresh
  | .off => .unpowered
  | .unpowered => .unpowered

/-! ## Steps of the cap (R206) -/

/-- The greatest number that a bound class of region n has; 8 where no context is bound. The least is its
highest-priority class. -/
def State.topClass (s : State) (n : Nat) : Nat :=
  let c (k : Nat) : Nat := match (s.core k).bound with | some x => ctlClass (s.ctl x) | none => 8
  min (c (2 * n)) (c (2 * n + 1))

/-- Whether a region's clock runs. -/
def clocked (p : PState) : Bool := p == .run || p == .waking || p == .rolling

/-- The order in which R206 takes region n: a smaller number first. -/
def State.capTier (s : State) (n : Nat) : Nat :=
  let r := s.rgn n
  if r.pstate == .run && s.unbound n then 0
  else if r.hold then 20
  else if s.topClass n = 0 then 19
  else 10 - s.topClass n

/-- The regions whose clock can be lowered by one more step. -/
def State.capRegions (s : State) : List Nat :=
  (List.range 48).filter (fun n => s.regionOn n && clocked (s.rgn n).pstate && decide ((s.rgn n).kNow < 20))

/-- The region that the next step lowers: of the first tier, round robin after the last one (R206). -/
def State.capNext (s : State) : Option Nat :=
  let l := s.capRegions
  let t := l.foldl (fun m n => min m (s.capTier n)) 99
  let l := l.filter (fun n => s.capTier n == t)
  match l.find? (fun n => decide (s.pwr.robin ≤ n)) with
  | some n => some n
  | none => l.head?

/-- One step lower (R206, R394). -/
def State.capLower (s : State) : State :=
  match s.capNext with
  | none => s
  | some n =>
    let s := s.onRgn n (fun r => { r with cap := r.cap + 1 })
    { s with pwr := { s.pwr with steps := n :: s.pwr.steps, robin := n + 1 } }

/-- One step back, in reverse order (R206, R394). -/
def State.capRestore (s : State) : State :=
  match s.pwr.steps with
  | [] => s
  | n :: l =>
    let s := s.onRgn n (fun r => { r with cap := r.cap - 1 })
    { s with pwr := { s.pwr with steps := l, bind := decide (l ≠ []), robin := n } }

/-- The effective cap in units of 0.01 W (R394), with VIN in units of 10 mV. -/
def capExact (w vin : Nat) : Nat := min (min (w * 100) 50000) (42 * vin)

/-- CAPNOW, in units of 0.1 W (R395); how a cap between two units is rounded is open (Config.capUp, DESIGN CHOICE log 24). -/
def capNow (w vin : Nat) : Nat :=
  let c := capExact w vin
  c / 10 + (if c % 10 ≠ 0 ∧ Config.capUp c = true then 1 else 0)

/-- The telemetry of a pip edge (R394, R395). -/
def State.powerRead (s : State) (r : PowerReading) : State :=
  let p := s.pwr
  let held := if r.ilim then p.ilimPips + 1 else 0
  { s with pwr := { p with
      vin := BitVec.ofNat 13 r.vin, iin := BitVec.ofNat 13 r.iin, pin := BitVec.ofNat 13 r.pin
      pdev := BitVec.ofNat 13 r.pdev, capnow := BitVec.ofNat 13 (capNow p.cap.toNat r.vin), ilim := r.ilim
      low := decide (r.vin < 1200), ilimPips := held
      statInput := p.statInput ||| (if 1024 ≤ held then 2 else 0) } }

/-- Input power is above the cap, or the stage clamps (R394). -/
def overCap (s : State) (r : PowerReading) : Bool := r.ilim || decide (capExact s.pwr.cap.toNat r.vin < 10 * r.pavg)

/-- POWER_CAP_LOWER (R394, R206): at a pip edge at which the cap is exceeded, one step lower. -/
def execPowerCapLower (r : PowerReading) (s : State) : Out :=
  if !s.powered then ok s
  else
  let s := s.powerRead r
  if overCap s r then
    let s := s.capLower
    ok { s with pwr := { s.pwr with bind := true, underCap := 0, statInput := s.pwr.statInput ||| 1 } }
  else ok s

/-- POWER_CAP_RESTORE (R394, R206): at the 64th consecutive pip edge below 0.95 of the cap, and at each one after it,
one step back. -/
def execPowerCapRestore (r : PowerReading) (s : State) : Out :=
  if !s.powered then ok s
  else
  let s := s.powerRead r
  if overCap s r then ok { s with pwr := { s.pwr with underCap := 0 } }
  else if 200 * r.pavg < 19 * capExact s.pwr.cap.toNat r.vin then
    let n := min 64 (s.pwr.underCap + 1)
    let s := { s with pwr := { s.pwr with underCap := n } }
    if n < 64 then ok s
    else if s.pwr.steps = [] then ok { s with pwr := { s.pwr with bind := false } }
    else ok s.capRestore
  else ok { s with pwr := { s.pwr with underCap := 0 } }

/-- INPUT_CURRENT_CLAMP (R393): the stage starts to clamp. -/
def execInputCurrentClamp (i : BitVec 13) (s : State) : Out :=
  if !s.powered then ok s
  else ok { s with pwr := { s.pwr with ilim := true, iin := i } }

/-- CURRENT_CLAMP_END (R393). -/
def execCurrentClampEnd (i : BitVec 13) (s : State) : Out :=
  if !s.powered then ok s
  else ok { s with pwr := { s.pwr with ilim := false, iin := i, ilimPips := 0 } }

/-- VIN_WARNING (R395, R399): VIN outside 9.0 V to 60.0 V. -/
def execVinWarning (v : Nat) (s : State) : Out :=
  let uv := decide (v < 900)
  let ov := decide (6000 < v)
  let p := s.pwr
  if !s.powered then ok s
  else ok { s with pwr := { p with
      vin := BitVec.ofNat 13 v, low := decide (v < 1200), uvw := p.uvw || uv, ovw := p.ovw || ov
      statInput := p.statInput ||| (if uv then 0x10 else 0) ||| (if ov then 0x80 else 0) } }

/-- THERMAL_THROTTLE_STEP (R359, R399): a temperature reading of region n, which a region in OFF has none of, and the step
that it calls for. -/
def execThermalThrottleStep (n : Nat) (temp : BitVec 12) (s : State) : Out :=
  if !s.regionOn n then noUnit
  else if (s.rgn n).pstate == .off then ok s
  else
    let s := s.onRgn n (fun r => r.throttle temp)
    ok (if 800 ≤ temp.toInt then { s with pwr := { s.pwr with statTemp := s.pwr.statTemp ||| 0x40 } } else s)

/-! ## PMBus (R399) -/

/-- Division rounded to the nearest; of two values equally near, either (Config.tieUp, DESIGN CHOICE log 24). -/
def roundDiv (a b : Int) : Int :=
  if 2 * (a % b) = b then a / b + (if Config.tieUp a b then 1 else 0) else (2 * a + b) / (2 * b)

/-- A LINEAR11 word, low byte first: the exponent's five bits and the signed mantissa. -/
def linear11 (e : BitVec 5) (m : Int) : List Byte :=
  let w : BitVec 16 := e ++ BitVec.ofInt 11 m
  [w.extractLsb' 0 8, w.extractLsb' 8 8]

/-- A response on the SMBus; the device answers in every state from UVLO up (R399), and not at all without power. -/
def State.smbus (s : State) (b : List Byte) : State :=
  let live := s.pwr.dev != .unpowered
  { s with outs := { s.outs with smbus := if live then b else [], smbusAck := live } }

/-- STATUS_WORD's bits. -/
def Pwr.statusWord (p : Pwr) : BitVec 16 :=
  BitVec.ofNat 16 (b2n (p.statInput != 0) * 2 ^ 13 + b2n (p.statTemp != 0) * 4 + b2n p.cml * 2)

/-- STATUS_INPUT: the latched bits, bit 0 also while the cap binds. -/
def Pwr.inputByte (p : Pwr) : Byte := p.statInput ||| (if p.bind then 1 else 0)

/-- The pin ALERT_N is asserted (R400): an ageing alert, the recovery monitor, a core halted by R269, or a PMBus cause. -/
def State.alertN (s : State) : Bool :=
  s.pwr.dev != .unpowered
    && (s.int.age || (s.up && s.dev.stage == .recovery) || s.cores.any (fun e => e.2.rc == .haltedErr)
      || s.pwr.inputByte != 0 || s.pwr.statTemp != 0)

/-- The hottest region that is not OFF, or none. -/
def State.hottest (s : State) : Option Int :=
  (List.range 48).foldl (fun m n =>
    if s.regionOn n && (s.rgn n).pstate != .off then
      (match m with | none => some (s.rgn n).temp.toInt | some x => some (max x (s.rgn n).temp.toInt))
    else m) none

/-- CLEAR_FAULTS (R399). -/
def execClearFaults (s : State) : Out :=
  ok ((if s.pwr.dev == .unpowered then s
    else { s with pwr := { s.pwr with statInput := 0, statTemp := 0, cml := false } }).smbus [])
/-- CAPABILITY (R399). -/
def execCapability (s : State) : Out := ok (s.smbus [0xB0])
/-- STATUS_WORD (R399). -/
def execStatusWord (s : State) : Out :=
  ok (s.smbus [s.pwr.statusWord.extractLsb' 0 8, s.pwr.statusWord.extractLsb' 8 8])
/-- STATUS_INPUT (R399). -/
def execStatusInput (s : State) : Out := ok (s.smbus [s.pwr.inputByte])
/-- STATUS_TEMPERATURE (R399). -/
def execStatusTemperature (s : State) : Out := ok (s.smbus [s.pwr.statTemp])
/-- READ_VIN (R399): exponent -4. -/
def execReadVin (s : State) : Out := ok (s.smbus (linear11 0x1C (roundDiv (s.pwr.vin.toNat * 16) 100)))
/-- READ_IIN (R399): exponent -4. -/
def execReadIin (s : State) : Out := ok (s.smbus (linear11 0x1C (roundDiv (s.pwr.iin.toNat * 16) 100)))
/-- READ_TEMPERATURE_1 (R399): exponent -2, of readings in 0.125 °C. -/
def execReadTemperature1 (s : State) : Out :=
  ok (s.smbus (linear11 0x1E (roundDiv (s.hottest.getD s.pwr.ioTemp.toInt) 2)))
/-- READ_TEMPERATURE_2 (R399): the I/O die's sensor, whose reading comes with the command (DESIGN CHOICE log 24). -/
def execReadTemperature2 (temp : BitVec 12) (s : State) : Out :=
  ok ({ s with pwr := { s.pwr with ioTemp := temp } }.smbus (linear11 0x1E (roundDiv temp.toInt 2)))
/-- READ_PIN (R399): exponent -1. -/
def execReadPin (s : State) : Out := ok (s.smbus (linear11 0x1F (roundDiv (s.pwr.pin.toNat * 2) 10)))
/-- PMBUS_REVISION (R399). -/
def execPmbusRevision (s : State) : Out := ok (s.smbus [0x44])
/-- MFR_ID (R399): a block read of "RONGAL". -/
def execMfrId (s : State) : Out := ok (s.smbus [0x52, 0x4F, 0x4E, 0x47, 0x41, 0x4C])
/-- MFR_MODEL (R399): "GX-4820" or "GX-4816" (R1). -/
def execMfrModel (s : State) : Out :=
  ok (s.smbus ([0x47, 0x58, 0x2D, 0x34, 0x38] ++ (if s.dev.gx4816 then [0x31, 0x36] else [0x32, 0x30])))
/-- ALERT_RESPONSE_ADDRESS (R399): the device's own address while a PMBus cause of ALERT_N is set (R400). -/
def execAlertResponseAddress (s : State) : Out :=
  if s.pwr.inputByte != 0 || s.pwr.statTemp != 0 then
    ok (s.smbus [BitVec.ofNat 8 ((0x40 + s.dev.sadr.toNat) * 2)])
  else ok { s with outs := { s.outs with smbus := [], smbusAck := false } }
/-- A write to another command code, or of a read-only command (R399): NACK, and CML. -/
def execPmbusUnsupportedCommand (_code : BitVec 8) (s : State) : Out :=
  ok { s with pwr := { s.pwr with cml := s.pwr.cml || s.pwr.dev != .unpowered }, outs := { s.outs with smbus := [], smbusAck := false } }

/-! ## Registers of the PWR block (R372, R395) -/

/-- PWR_STAT (R395). -/
def State.pwrStat (s : State) : Word :=
  let p := s.pwr
  let therm := (List.range 48).any (fun n => decide (0 < (s.rgn n).thermal))
  BitVec.ofNat 20 (b2n p.bind * 2 ^ 19 + b2n p.ilim * 2 ^ 18 + b2n p.low * 2 ^ 17 + b2n p.uvw * 2 ^ 16
    + b2n p.ovw * 2 ^ 15 + b2n therm * 2 ^ 14)

/-- PWR_DEV.STATE (R372). -/
def DevState.code (d : DevState) : Nat :=
  match d with | .active => 0 | .standby => 1 | .entering => 2 | .returning => 3 | .off => 0 | .unpowered => 0

/-- PWR_DEV (R372). -/
def State.pwrDev (s : State) : Word := BitVec.ofNat 20 (s.pwr.dev.code * 2 ^ 18)

/-- A write of PWR_DEV.REQ by the keeper core (R371). -/
def State.pwrReq (s : State) (v : Word) : State :=
  if bits v 1 0 = 1 ∧ s.pwr.dev = .active then { s with pwr := { s.pwr with dev := .entering } }
  else if bits v 1 0 = 2 ∧ s.pwr.dev = .standby then { s with pwr := { s.pwr with dev := .returning } }
  else s

/-- A register of the PWR block read. -/
def State.pwrReg (s : State) (b off : Nat) : Option (State × Word) :=
  let p := s.pwr
  match off with
  | 0 => some (s, p.vin.zeroExtend 20)
  | 1 => some (s, p.iin.zeroExtend 20)
  | 2 => some (s, p.pin.zeroExtend 20)
  | 3 => some (s, p.pdev.zeroExtend 20)
  | 4 => some (s, p.cap.zeroExtend 20)
  | 5 => some (s, p.capnow.zeroExtend 20)
  | 6 => some (s, s.pwrStat)
  | 0x100 => some (s, s.pwrDev)
  | 0x101 => some (s, p.napidle)
  | 0x104 => some (s.readPip b 0)
  | 0x105 => some (s.readPip b 1)
  | 0x106 => some (s.readPip b 2)
  | _ => none

/-- A register of the PWR block written; only the keeper core requests device states (R371). -/
def State.pwrWrite (s : State) (who : Master) (off : Nat) (v : Word) : State :=
  let p := s.pwr
  match off with
  | 4 => { s with pwr := { p with cap := BitVec.ofNat 9 (min 500 (max 100 (bits v 8 0))) } }
  | 6 => { s with pwr := { p with uvw := p.uvw && !bit v 16, ovw := p.ovw && !bit v 15 } }
  | 0x100 => if who = .keeper then s.pwrReq v else s
  | 0x101 => { s with pwr := { p with napidle := v } }
  | _ => s

end Sys2Proof.Machine
end

