-- ==== Sys2Proof/Machine/Blocks.lean ====
section
/-! DEFINITION. The INT, ROLL, HOST, DEV, DBG, CTX and LNK blocks and the cluster blocks: what their registers read and
what writing them does (R188, R201, R263, R277, R332, R341, R342, R350, R365, R376, R382, R388, R390). -/

namespace Sys2Proof.Machine

/-! ## INT (R350, R362) -/

/-- INT_LDG_DATA read: cell CELL, and CELL moves on (R350). -/
def State.ledgerRead (s : State) : State × Word :=
  ({ s with int := { s.int with ldgCell := s.int.ldgCell + 1 } }, (s.int.cell s.int.ldgCell.toNat).zeroExtend 20)

/-- INT_LDG_DATA written by the keeper core while no operation runs: cell CELL is programmed, and CELL moves on. -/
def State.ledgerWrite (s : State) (who : Master) (v : Word) : State :=
  if who = .keeper ∧ s.int.ldgOp = none then
    { s with int := { s.int with
        ldgOp := some (.program s.int.ldgCell.toNat (v.extractLsb' 0 16)), ldgCell := s.int.ldgCell + 1 } }
  else s

/-- INT_LDG_CTL.ERASE written by the keeper core while no operation runs. -/
def State.ledgerErase (s : State) (who : Master) (v : Word) : State :=
  if who = .keeper ∧ s.int.ldgOp = none ∧ bit v 0 = true then
    { s with int := { s.int with ldgOp := some (.erase (s.int.ldgCell.toNat / 1024)) } }
  else s

/-- A register of the INT block read. -/
def State.intReg (s : State) (off : Nat) : Option (State × Word) :=
  let i := s.int
  match off with
  | 0 => some (s, BitVec.ofNat 20 (b2n i.celog))
  | 1 => some (s, i.ivl)
  | 2 => some (s, BitVec.ofNat 20 (b2n i.age))
  | 3 => some (s, i.lost)
  | 4 => some (s, i.wr)
  | 5 => some (s, i.rd)
  | 6 => some (s, loW i.flipAddr)
  | 7 => some (s, hiW i.flipAddr)
  | 0x10 => some (s, i.ldgCell.zeroExtend 20)
  | 0x11 => some s.ledgerRead
  | 0x12 => some (s, if i.ldgOp.isSome then 0x80000 else 0)
  | o =>
    if 0x100 ≤ o ∧ o < 0x135 then some (s, SMap.get 0 i.ce (o - 0x100))
    else if 0x140 ≤ o ∧ o < 0x175 then some (s, SMap.get 0 i.ue (o - 0x140))
    else if 0x1000 ≤ o ∧ o < 0x1800 then some (s, SMap.get 0 i.log (o - 0x1000))
    else none

/-- A register of the INT block written. -/
def State.intWrite (s : State) (who : Master) (off : Nat) (v : Word) : State :=
  let i := s.int
  match off with
  | 0 => { s with int := { i with celog := bit v 0 } }
  | 1 => { s with int := { i with ivl := v } }
  | 2 => { s with int := { i with age := bit v 0 } }
  | 5 => { s with int := { i with rd := v } }
  | 0x10 => { s with int := { i with ldgCell := v.extractLsb' 0 15 } }
  | 0x11 => s.ledgerWrite who v
  | 0x12 => s.ledgerErase who v
  | o =>
    if 0x100 ≤ o ∧ o < 0x135 then { s with int := { i with ce := SMap.set 0 i.ce (o - 0x100) v } }
    else if 0x140 ≤ o ∧ o < 0x175 then { s with int := { i with ue := SMap.set 0 i.ue (o - 0x140) v } }
    else s

/-! ## ROLL (R364-R366) -/

/-- The index of a target in ROLL_ST: regions from 0, clusters from 0x40, the I/O die at 0xA0. -/
def rollIdx (kind t : Nat) : Nat := if kind = 0 then t else if kind = 1 then 0x40 + t else 0xA0

/-- ROLL_RES of a master set. -/
def State.setRes (s : State) (b r : Nat) : State :=
  { s with rolls := { s.rolls with res := SMap.set 0 s.rolls.res b (BitVec.ofNat 20 r) } }

/-- ROLL_ST of a target set to a state with a failing square. -/
def State.setRollSt (s : State) (i st : Nat) (bad : Option (BitVec 7)) : State :=
  let v := st * 2 ^ 18 + (match bad with | some q => 2 ^ 17 + q.toNat | none => 0)
  { s with rolls := { s.rolls with st := SMap.set 0 s.rolls.st i (BitVec.ofNat 20 v) } }

/-- STATE of a target's ROLL_ST. -/
def State.rollSt (s : State) (i : Nat) : Nat := bits (SMap.get 0 s.rolls.st i) 19 18

/-- A region roll accepted: the region rolls at once, or after its wake (R366). -/
def State.startRegionRoll (s : State) (n : Nat) : State :=
  let s := s.setRollSt (rollIdx 0 n) 1 none
  s.onRgn n (fun r =>
    match r.pstate with
    | .run => { r with pstate := .rolling, scrubWb := [] }
    | .idle => { r.wake with pstate := .rolling, scrubWb := [] }
    | .nap => { r.wake with rollNext := true }
    | .off => { r.wake with rollNext := true }
    | .waking => { r with rollNext := true }
    | .rolling => r)

/-- A cluster roll accepted. -/
def State.startClusterRoll (s : State) (k : Nat) : State :=
  let s := s.setRollSt (rollIdx 1 k) 1 none
  (s.onCore k (fun c => { c with rolling := true })).wakeRegion (homeOf k)

/-- A write to ROLL_CMD, decided by the first matching row of R366. KIND 10 is refused at every moment at which
software runs, which is after boot. -/
def State.rollCmd (s : State) (b kind t : Nat) : State :=
  if kind = 0 then
    if !s.regionOn t then s.setRes b 2
    else if s.rollSt (rollIdx 0 t) = 1 ∨ !s.vacated t ∨ !s.drained t then s.setRes b 1
    else (s.startRegionRoll t).setRes b 0
  else if kind = 1 then
    if !s.clusterOn t then s.setRes b 2
    else if s.rollSt (rollIdx 1 t) = 1 ∨ (s.core t).bound.isSome ∨ (s.core t).out.isSome ∨ (s.rgn (homeOf t)).pstate = .rolling then s.setRes b 1
    else (s.startClusterRoll t).setRes b 0
  else s.setRes b 2

/-- A register of the ROLL block read. -/
def State.rollReg (s : State) (b off : Nat) : Option Word :=
  let isTarget (i : Nat) : Bool := decide (i < 48) || (decide (0x40 ≤ i) && decide (i < 0xA0)) || i == 0xA0
  if off = 0 then some 0
  else if off = 1 then some (SMap.get 0 s.rolls.res b)
  else if 0x100 ≤ off ∧ off < 0x1A1 ∧ isTarget (off - 0x100) = true then some (SMap.get 0 s.rolls.st (off - 0x100))
  else if 0x200 ≤ off ∧ off < 0x342 ∧ isTarget ((off - 0x200) / 2) = true then
    let v := SMap.get 0 s.rolls.sig ((off - 0x200) / 2)
    some (if off % 2 = 0 then loW v else hiW v)
  else none

/-! ## HOST (R340-R343) -/

/-- What a function-level reset resets (R343). -/
def State.functionReset (s : State) : State :=
  let s := { s with host := { s.host with
    bme := false, d3 := false, msixEn := false, fmask := false, aer := 0, msix := [], pba := 0, err := 0
    h2kBusy := false, k2hBusy := false } }
  (List.range 32).foldl (fun s i =>
    let d := s.chan (64 + i)
    if d.state == .running && (d.act.skind == 2 || d.act.dkind == 2) && d.fail.isNone then
      let w := decide (d.act.dkind = 2)
      let t := if w then d.done.toNat else d.readT
      s.setChan (64 + i) (d.addFail
        { cause := 4, wr := w, addr := BitVec.ofInt 40 (if w then d.dstAt t else d.srcAt t), t := t })
    else s) s

/-- A write to HOST_CTL (R342); clearing LTEN takes the link down (R377), which resets the function and, while HRST is 1,
leaves a warm reset for the device to take (R343). -/
def State.writeHostCtl (s : State) (who : Master) (v : Word) : State :=
  if who = .keeper ∨ who = .debug then
    let down := s.host.lten && !bit v 19 && s.host.lup
    let s := { s with host := { s.host with lten := bit v 19, hrst := bit v 18 } }
    if down then
      { s with host := { s.host with lup := false, width := 0, speed := 0, fell := bit v 18 } }.functionReset
    else s
  else s

/-- A write to a mailbox's CTL: a post while not BUSY, or the reader's release (R341). -/
def mbxWrite (busy : Bool) (len : BitVec 12) (v : Word) : Bool × BitVec 12 :=
  (bit v 19, if busy then len else v.extractLsb' 0 12)

/-- A write to MBX_H2K_CTL; a post interrupts the keeper core. -/
def State.writeH2k (s : State) (v : Word) : State :=
  let h := s.host
  let r := mbxWrite h.h2kBusy h.h2kLen v
  let s' := { s with host := { h with h2kBusy := r.1, h2kLen := r.2 } }
  if r.1 && !h.h2kBusy then s'.keeperIrq .mailbox else s'

/-- A write to MBX_K2H_CTL; a post raises source 0. -/
def State.writeK2h (s : State) (v : Word) : State :=
  let h := s.host
  let r := mbxWrite h.k2hBusy h.k2hLen v
  let s' := { s with host := { h with k2hBusy := r.1, k2hLen := r.2 } }
  if r.1 && !h.k2hBusy then s'.hostIrq 0 else s'

/-- HOST_STAT (R342). -/
def HostBlk.stat (h : HostBlk) : Word :=
  BitVec.ofNat 20 (h.width.toNat * 2 ^ 17 + h.speed.toNat * 2 ^ 14 + b2n h.lup * 2 ^ 13 + b2n h.bme * 2 ^ 12)

/-- A register of the HOST block read. -/
def State.hostReg (s : State) (off : Nat) : Option Word :=
  let h := s.host
  match off with
  | 0 => some (BitVec.ofNat 20 (b2n h.lten * 2 ^ 19 + b2n h.hrst * 2 ^ 18))
  | 1 => some h.stat
  | 2 => some (loW h.win)
  | 3 => some (hiW h.win)
  | 4 => some h.dmahi
  | 5 => some (h.err.zeroExtend 20)
  | 6 => some (loW h.eaddr)
  | 7 => some (hiW h.eaddr)
  | 8 => some 0
  | 0xA => some (BitVec.ofNat 20 (b2n h.h2kBusy * 2 ^ 19 + h.h2kLen.toNat))
  | 0xB => some (BitVec.ofNat 20 (b2n h.k2hBusy * 2 ^ 19 + h.k2hLen.toNat))
  | o =>
    if 0x40 ≤ o ∧ o < 0xC0 then some (SMap.get 0 h.imap (o - 0x40))
    else if 0x400 ≤ o ∧ o < 0xC00 then some (SMap.get 0 h.buf o)
    else none

/-- A master reads the mailbox buffer at an offset, so that its write there is unpredictable (R341, R344; DESIGN CHOICE
log 16). -/
def mbxReader (who : Master) (o : Nat) : Bool := if o < 0x800 then who == .keeper else who == .host

/-- A register of the HOST block written. -/
def State.hostRegWrite (s : State) (who : Master) (off : Nat) (v : Word) : State :=
  let h := s.host
  match off with
  | 0 => s.writeHostCtl who v
  | 2 => { s with host := { h with win := putLo h.win (v &&& 0xF0000) } }
  | 3 => { s with host := { h with win := putHi h.win v } }
  | 4 => { s with host := { h with dmahi := v } }
  | 5 => { s with host := { h with err := h.err &&& ~~~ v.extractLsb' 0 4 } }
  | 8 => if bit v 0 then s.hostIrq 1 else s
  | 0xA => s.writeH2k v
  | 0xB => s.writeK2h v
  | o =>
    if 0x40 ≤ o ∧ o < 0xC0 then { s with host := { h with imap := SMap.set 0 h.imap (o - 0x40) (v &&& 0x8003F) } }
    else if 0x400 ≤ o ∧ o < 0xC00 then
      (if (if o < 0x800 then h.h2kBusy else h.k2hBusy) then s
       else if mbxReader who o then
        (let d := s.draw 16
         { d.2 with host := { h with buf := SMap.set 0 h.buf o (d.1.zeroExtend 20) } })
       else { s with host := { h with buf := SMap.set 0 h.buf o (v &&& 0x0FFFF) } })
    else s

/-! ## DEV (R3, R376, R382, R398) -/

/-- The enable bits of twenty regions from n (R3). -/
def State.enBits (s : State) (n : Nat) : Nat → Nat
  | 0 => 0
  | k + 1 => State.enBits s n k + (if s.regionOn (n + k) then 2 ^ k else 0)

/-- A word of the OSK fuses (R382). -/
def Dev.oskWord (d : Dev) (i : Nat) : Word := BitVec.ofNat 20 (d.osk.toNat >>> (20 * i))

/-- DEV_BOOT (R376). -/
def Dev.bootWord (d : Dev) : Word :=
  BitVec.ofNat 20 (d.slot.toNat * 2 ^ 18 + d.bootCause.toNat * 2 ^ 14 + d.src.toNat * 2 ^ 11)

/-- LC_STATE (R376). -/
def Dev.lcWord (d : Dev) : Word := BitVec.ofNat 20 (b2n d.owner * 8 + d.lc.toNat)

/-- A register of the DEV block; the OSK words answer the keeper core only. -/
def State.devReg (s : State) (who : Master) (off : Nat) : Option Word :=
  let d := s.dev
  match off with
  | 0 => some (BitVec.ofNat 20 (s.enBits 0 20))
  | 1 => some (BitVec.ofNat 20 (s.enBits 20 20))
  | 2 => some (BitVec.ofNat 20 (s.enBits 40 8))
  | 3 => some (Config.vid.zeroExtend 20)
  | 4 => some (if d.gx4816 then 0x04816 else 0x04820)
  | 0x10 => some d.lcWord
  | 0x11 => some d.bootWord
  | 0x12 => some (BitVec.ofNat 20 (d.tmode.toNat * 8 + d.sadr.toNat))
  | 0x18 => some (Config.uid.extractLsb' 0 20)
  | 0x19 => some (Config.uid.extractLsb' 20 20)
  | 0x1A => some (Config.uid.extractLsb' 40 20)
  | 0x1B => some (Config.uid.extractLsb' 60 20)
  | o => if 0x20 ≤ o ∧ o < 0x2D ∧ who = .keeper then some (d.oskWord (o - 0x20)) else none

/-! ## DBG (R390) -/

/-- DBG_STATUS (R390). -/
def Dbg.status (d : Dbg) : Word :=
  BitVec.ofNat 20 (b2n d.op.isSome * 2 ^ 19 + b2n d.side * 2 ^ 18 + b2n d.err * 2 ^ 17 + d.cause.toNat * 2 ^ 13)

/-- An access of the debug master started, unless one is in flight (DEDUCED log 27). -/
def State.dbgStart (s : State) (o : DbgOp) : State :=
  if s.dbg.op.isSome then s else { s with dbg := { s.dbg with op := some o } }

/-- A register of the DBG block read; a read of DBG_DATA starts an access and gives the data that the last one left. -/
def State.dbgReg (s : State) (off : Nat) : Option (State × Word) :=
  let d := s.dbg
  match off with
  | 0 => some (s, loW d.addr)
  | 1 => some (s, hiW d.addr)
  | 2 => some (s.dbgStart .read, d.data)
  | 3 => some (s, BitVec.ofNat 20 (b2n d.allowse * 2 ^ 19 + b2n d.inc * 2 ^ 18))
  | 4 => some (s, d.status)
  | _ => none

/-- A register of the DBG block written. -/
def State.dbgWrite (s : State) (off : Nat) (v : Word) : State :=
  let d := s.dbg
  match off with
  | 0 => { s with dbg := { d with addr := putLo d.addr v } }
  | 1 => { s with dbg := { d with addr := putHi d.addr v } }
  | 2 => s.dbgStart (.write v)
  | 3 => { s with dbg := { d with allowse := bit v 19, inc := bit v 18 } }
  | 4 => { s with dbg := { d with side := d.side && !bit v 18, err := d.err && !bit v 17 } }
  | _ => s

/-! ## CTX (R188, R201) -/

/-- A register of the CTX block read. -/
def State.ctxReg (s : State) (b off : Nat) : Option Word :=
  let c := s.sched
  match off with
  | 0 => some 0
  | 1 => some (SMap.get 0 c.arg b)
  | 2 => some (SMap.get 0 c.stat b)
  | 3 => some c.slice
  | 4 => some (BitVec.ofNat 20 c.c0act)
  | o =>
    if 0x100 ≤ o ∧ o < 0x500 then
      let g := (o - 0x100) / 4
      match o % 4 with
      | 0 => some (s.qa g)
      | 1 => some (BitVec.ofNat 20 (s.ua g))
      | 2 => some (BitVec.ofNat 20 (s.qt g))
      | _ => some (BitVec.ofNat 20 (s.ut g))
    else none

/-- A register of the CTX block written. -/
def State.ctxWrite (s : State) (b off : Nat) (v : Word) : State :=
  let c := s.sched
  match off with
  | 0 => s.ctxCmd b (v.extractLsb' 0 4)
  | 1 => { s with sched := { c with arg := SMap.set 0 c.arg b v } }
  | 3 => { s with sched := { c with slice := v } }
  | o =>
    if 0x100 ≤ o ∧ o < 0x500 then
      let g := (o - 0x100) / 4
      match o % 4 with
      | 0 => { s with sched := { c with qa := SMap.set 0xFFFFF c.qa g v } }
      | 2 => { s with sched := { c with qt := SMap.set 0x600 c.qt g (min 1536 (bits v 10 0)) } }
      | _ => s
    else s

/-! ## LNK (R317, R325, R332) -/

/-- The context from which a master writes, if it is a core that has one bound. -/
def State.senderCtx (s : State) (who : Master) : Option Nat := match who with | .core k => (s.core k).bound | _ => none

/-- A SIG frame of a master is of class 0: the keeper core's, and that of a class-0 context (R325). -/
def State.senderClass0 (s : State) (who : Master) : Bool :=
  match who with
  | .keeper => true
  | _ => (match s.senderCtx who with | some x => ctlClass (s.ctl x) == 0 | none => false)

/-- A write to LNK_TXSIG takes effect with its high word (R325): local, or a SIG frame. -/
def State.txSig (s : State) (who : Master) (g : Dbl) : State :=
  s.routeFrame (mkFrame 1 (!s.senderClass0 who) 0 (bits g 19 0) (bits g 31 20) ((s.senderCtx who).getD 0) 0 s.lnk.devnum.toNat []) true 0
    none

/-- LNK_FT_IDX of a master written: D0 to D2 are loaded (R317). -/
def State.ftIdx (s : State) (b : Nat) (v : Word) : State :=
  let i := bits v 15 0
  let d := putWords s.lnk.ftD (4 * b) [s.flowWord i 0, s.flowWord i 1, s.flowWord i 2]
  { s with lnk := { s.lnk with ftIdx := SMap.set 0 s.lnk.ftIdx b (BitVec.ofNat 20 i), ftD := d } }

/-- LNK_FT_CMD.WR (R317): D0 and D1 written into the entry, its CNT set to 0; frames looked up before go on under the old
entry and its count. -/
def State.ftWr (s : State) (b : Nat) : State :=
  let i := (SMap.get 0 s.lnk.ftIdx b).toNat
  let d0 := SMap.get 0 s.lnk.ftD (4 * b)
  let d1 := SMap.get 0 s.lnk.ftD (4 * b + 1)
  let keep (d : Delivery) : Delivery :=
    if d.flow = some i ∧ d.old = none then { d with old := some (s.lnk.era, (s.flowWord i 2).extractLsb' 0 16) } else d
  { s with lnk := { s.lnk with
      flow := putWords s.lnk.flow (3 * i) [d0, d1 &&& 0xFFFE0, 0], era := s.lnk.era + 1
      deliveries := s.lnk.deliveries.map keep } }

/-- A register of port p but LNK_Pn_STAT read. -/
def Port.reg (p : Port) (off : Nat) : Option Word :=
  match off with
  | 0 => some p.ctl
  | 2 => some (BitVec.ofNat 20 (b2n p.pv * 2 ^ 19 + p.peer.toNat))
  | 3 => some p.svc
  | 4 => some (p.mac.extractLsb' 0 20)
  | 5 => some (p.mac.extractLsb' 20 20)
  | 6 => some (p.mac.extractLsb' 40 20)
  | o =>
    if 0x10 ≤ o ∧ o < 0x20 then
      let v := SMap.get 0 p.cnts ((o - 0x10) / 2)
      some (if o % 2 = 0 then loW v else hiW v)
    else none

/-- A register of the LNK block read. -/
def State.lnkReg (s : State) (b off : Nat) : Option Word :=
  let l := s.lnk
  if off < 0x800 then
    if off % 0x100 = 1 then some (s.port (off / 0x100)).stat else (s.port (off / 0x100)).reg (off % 0x100)
  else match off with
    | 0x800 => some (l.devnum.zeroExtend 20)
    | 0x802 => some 0
    | 0x803 => some 0
    | 0x804 => some (SMap.get 0 l.ftIdx b)
    | 0x805 => some 0
    | 0x806 => some (SMap.get 0 l.ftD (4 * b))
    | 0x807 => some (SMap.get 0 l.ftD (4 * b + 1))
    | 0x808 => some (SMap.get 0 l.ftD (4 * b + 2))
    | 0x80A => some (loW l.noroute)
    | 0x80B => some (hiW l.noroute)
    | 0x80C => some (loW l.nobox)
    | 0x80D => some (hiW l.nobox)
    | o =>
      if 0x1000 ≤ o ∧ o < 0x1800 then some (SMap.get 0 l.tmpl (o - 0x1000))
      else if 0x2000 ≤ o ∧ o < 0x3000 then some (SMap.get 0 l.route (o - 0x2000))
      else none

/-- A 48-bit address with one of its three words replaced. -/
def putMac (m : BitVec 48) (i : Nat) (v : Word) : BitVec 48 :=
  match i with
  | 0 => (m.extractLsb' 20 28) ++ v
  | 1 => ((m.extractLsb' 40 8) ++ v) ++ (m.extractLsb' 0 20)
  | _ => (v.extractLsb' 0 8) ++ (m.extractLsb' 0 40)

/-- A register of port p written. -/
def State.portWrite (s : State) (p off : Nat) (v : Word) : State :=
  match off with
  | 0 => s.writeLnkCtl p v
  | 1 => if bit v 11 then s.onPort p (fun x => { x with bdown := false }) else s
  | 3 => s.setPort p { s.port p with svc := v }
  | 4 => s.setPort p { s.port p with mac := putMac (s.port p).mac 0 v }
  | 5 => s.setPort p { s.port p with mac := putMac (s.port p).mac 1 v }
  | 6 => s.setPort p { s.port p with mac := putMac (s.port p).mac 2 v }
  | o =>
    if 0x10 ≤ o ∧ o < 0x20 then
      let x := s.port p
      s.setPort p { x with
        cnts := SMap.upd 0 x.cnts ((o - 0x10) / 2) (fun c => if o % 2 = 0 then putLo c v else putHi c v) }
    else s

/-- Some port is an enabled Bosum port (R332). -/
def State.anyBosum (s : State) : Bool := (List.range 8).any (fun p => (s.port p).bosum && (s.port p).en)

/-- A register of the LNK block written. -/
def State.lnkWrite (s : State) (who : Master) (b off : Nat) (v : Word) : State :=
  let l := s.lnk
  if off < 0x800 then s.portWrite (off / 0x100) (off % 0x100) v
  else match off with
    | 0x800 => if s.anyBosum then s else { s with lnk := { l with devnum := v.extractLsb' 0 12 } }
    | 0x802 => { s with lnk := { l with sigLow := SMap.set 0 l.sigLow b v } }
    | 0x803 => s.txSig who (dbl (SMap.get 0 l.sigLow b) v)
    | 0x804 => s.ftIdx b v
    | 0x805 => if bit v 0 then s.ftWr b else s
    | 0x806 => { s with lnk := { l with ftD := SMap.set 0 l.ftD (4 * b) v } }
    | 0x807 => { s with lnk := { l with ftD := SMap.set 0 l.ftD (4 * b + 1) v } }
    | 0x808 => { s with lnk := { l with ftD := SMap.set 0 l.ftD (4 * b + 2) v } }
    | 0x80A => { s with lnk := { l with noroute := putLo l.noroute v } }
    | 0x80B => { s with lnk := { l with noroute := putHi l.noroute v } }
    | 0x80C => { s with lnk := { l with nobox := putLo l.nobox v } }
    | 0x80D => { s with lnk := { l with nobox := putHi l.nobox v } }
    | o =>
      if 0x1000 ≤ o ∧ o < 0x1800 then { s with lnk := { l with tmpl := SMap.set 0 l.tmpl (o - 0x1000) v } }
      else if 0x2000 ≤ o ∧ o < 0x3000 then
        { s with lnk := { l with route := SMap.set 0 l.route (o - 0x2000) (v &&& 0x80007) } }
      else s

/-! ## The cluster block (R263, R275, R277, R388) -/

/-- CL_RC_STAT (R388). -/
def Core.rcStat (c : Core) : Word :=
  let st := match c.rc with | .running => 0 | .stepping => 0 | .halting => 1 | .halted => 2 | .haltedErr => 3
  BitVec.ofNat 20 (st * 2 ^ 18 + c.rcPl.code * 2 ^ 16)

/-- Whether run control holds the core. -/
def Core.isHalted (c : Core) : Bool := c.rc == .halted || c.rc == .haltedErr

/-- The value of the register that a selector names (R388). -/
def Core.rcRead (c : Core) (sel : Word) : Dbl :=
  let i := bits sel 6 0
  match bits sel 9 7 with
  | 0 => if i < 32 then (c.wr (BitVec.ofNat 5 i)).zeroExtend 40 else 0
  | 1 => if i < 8 then c.ar (BitVec.ofNat 3 i) else 0
  | 2 => if i < 8 then (c.amr (BitVec.ofNat 3 i)).zeroExtend 40 else 0
  | 3 => if i < 32 then c.fr i else 0
  | 4 => if i < 32 then ((c.ctl i).getD 0).zeroExtend 40 else 0
  | 5 => (SMap.get 0 c.t i).zeroExtend 40
  | 6 => if i < 3 then (SMap.get 0 c.w (32 + i)).zeroExtend 40 else 0
  | _ => 0

/-! ## Stopped groups (R162, R165, R169, R170) -/

/-- PEND of VFC. -/
def pendBit : Word := 0x40000

/-- A stopped group's fault awaits delivery. -/
def Core.pend (c : Core) : Bool := bit c.vfc 18

/-- A stopped group awaits re-issue, its fault delivered (R169). -/
def Core.stalled (c : Core) : Bool := c.stopped != [] && !c.pend

/-- A group stopped at a count: nothing of it is on its way any more. -/
def Group.halt (g : Group) (v : Nat) : Group :=
  { g with vprog := v, start := v, pos := v, shown := [], ahead := [], outq := [], part := [], segOut := {}, mid := [], running := false
           stopAt := none, stopped := true }

/-- A write of VPROG (R169): the re-issue point of the oldest stopped group whose fault has been delivered. While an older
group is in flight VPROG goes on counting that one (R160). -/
def Core.writeVprog (c : Core) (v : Word) : Core :=
  if !c.stalled then c
  else
    match c.stopped with
    | [] => c
    | g :: l =>
      let n := min v.toNat g.len / g.unit * g.unit
      { c with vprog := if c.groups = [] then BitVec.ofNat 20 n else c.vprog, stopped := g.halt n :: l }

/-- A write of VFC (R165, R170): DISC removes every stopped group and clears the record. -/
def Core.writeVfc (c : Core) (v : Word) : Core :=
  if bit v 19 then { c with stopped := [], vfc := 0, vfe := 0, vfa := 0 } else c

/-- A control register written by run control at its plain value; read-only registers stay. -/
def Core.rcCtl (c : Core) (n : Nat) (v : Word) : Core :=
  match n with
  | 0 => c.setCst c.cst.pl v
  | 2 => c.writeVprog v
  | 3 => c.setVmode v
  | 4 => c.setFmode v
  | 5 => { c with cnt := v }
  | 6 => { c with lk := putLo c.lk v }
  | 7 => { c with lk := putHi c.lk v }
  | 8 => { c with mh := v }
  | 9 => { c with ml := v }
  | 10 => c.writeVfc v
  | 16 => { c with evb := putLo c.evb (v &&& 0xFFF00) }
  | 17 => { c with evb := putHi c.evb v }
  | 18 => { c with ssb := putLo c.ssb v }
  | 19 => { c with ssb := putHi c.ssb v }
  | 20 => { c with gtb := putLo c.gtb (v &&& 0xFFFFC) }
  | 21 => { c with gtb := putHi c.gtb v }
  | 22 => { c with gtn := gtnOf v }
  | 24 => c.setWctl .m v
  | 25 => c.reload
  | 26 => c.setIpend .m v
  | 27 => c.setImask .m v
  | _ => c

/-- The register that a selector names written, its low and high words together (R388). -/
def Core.rcWrite (c : Core) (sel : Word) (v : Dbl) : Core :=
  let i := bits sel 6 0
  match bits sel 9 7 with
  | 0 => if i < 32 then c.setW (BitVec.ofNat 5 i) (loW v) else c
  | 1 => if i < 8 then c.setA (BitVec.ofNat 3 i) v else c
  | 2 => if i < 8 then c.setAm (BitVec.ofNat 3 i) (loW v) else c
  | 3 => if i < 32 then c.setF i v else c
  | 4 => if i < 32 then c.rcCtl i (loW v) else c
  | 5 => { c with t := SMap.set 0 c.t i (loW v) }
  | 6 => if i < 3 then { c with w := SMap.set 0 c.w (32 + i) (loW v) } else c
  | _ => c

/-- A command of run control (R388, R389, R282): HALT, STEP, RESUME. -/
def Core.rcCmd (c : Core) (op : Nat) : Core :=
  if op = 1 then (if c.rc == .running || c.rc == .stepping then { c with rc := .halting } else c)
  else if op = 2 then (if c.isHalted then { c with rc := .stepping, wcnt := if c.wcnt.toNat < 1024 then 1024 else c.wcnt } else c)
  else if op = 3 then
    (if c.isHalted then { c with rc := .running, halt := c.halt, wcnt := if c.wcnt.toNat < 1024 then 1024 else c.wcnt }
     else if c.rc == .halting then { c with rc := .running } else c)
  else c

/-- A register of a cluster block read; none where the block has no register. -/
def Core.reg (c : Core) (off : Nat) : Option Word :=
  match off with
  | 0 => some 0
  | 1 => some c.rcStat
  | 2 => some c.rcSel
  | 3 => some (if c.isHalted then loW (c.rcRead c.rcSel) else 0)
  | 4 => some (if c.isHalted then hiW (c.rcRead c.rcSel) else 0)
  | 6 => some (loW c.pc)
  | 7 => some (hiW c.pc)
  | 0x40 => some (loW c.mevb)
  | 0x41 => some (hiW c.mevb)
  | 0x42 => some (loW c.msb)
  | 0x43 => some (hiW c.msb)
  | 0x44 => some (loW c.mgtb)
  | 0x45 => some (hiW c.mgtb)
  | 0x46 => some c.mgtn
  | 0x48 => some 0
  | 0x49 => some (BitVec.ofNat 20 (b2n c.mflt))
  | o => if 0x300 ≤ o ∧ o < 0x400 then some (SMap.get 0 c.scratch (o - 0x300)) else none

/-- A word of the M-level registers counts as set (R260). -/
def Core.mark (c : Core) (i : Nat) : Core := { c with mset := c.mset ||| BitVec.ofNat 7 (2 ^ i) }

/-- A register of a cluster block written; posting MPOST needs the right (R277). -/
def Core.regWrite (c : Core) (off : Nat) (v : Word) (mpost : Bool) : Core :=
  match off with
  | 0 => c.rcCmd (bits v 1 0)
  | 2 => { c with rcSel := v &&& 0x3FF }
  | 3 => if c.isHalted then c.rcWrite c.rcSel (putLo (c.rcRead c.rcSel) v) else c
  | 4 => if c.isHalted then c.rcWrite c.rcSel (putHi (c.rcRead c.rcSel) v) else c
  | 6 => if c.isHalted then { c with pc := putLo c.pc v } else c
  | 7 => if c.isHalted then { c with pc := putHi c.pc v } else c
  | 0x40 => { c with mevb := putLo c.mevb (v &&& 0xFFF00) }.mark 0
  | 0x41 => { c with mevb := putHi c.mevb v }.mark 1
  | 0x42 => { c with msb := putLo c.msb v }.mark 2
  | 0x43 => { c with msb := putHi c.msb v }.mark 3
  | 0x44 => { c with mgtb := putLo c.mgtb (v &&& 0xFFFFC) }.mark 4
  | 0x45 => { c with mgtb := putHi c.mgtb v }.mark 5
  | 0x46 => { c with mgtn := gtnOf v }.mark 6
  | 0x48 => { c with ipend := c.ipend ||| (v &&& (if mpost then 0x101 else 0x001)) }
  | 0x49 => { c with mflt := c.mflt || bit v 0 }
  | o => if 0x300 ≤ o ∧ o < 0x400 then { c with scratch := SMap.set 0 c.scratch (o - 0x300) v } else c

end Sys2Proof.Machine
end

