-- ==== Sys2Proof/Machine/Regs.lean ====
section
/-! DEFINITION. The register space: which block an address lies in, who may read and write it at which level, reserved
bits, and one read or write of a word by a master (R13-R16, R22, R23, R27, R50, R188, R259, R263). -/

namespace Sys2Proof.Machine

/-! ## Blocks (R22) -/

/-- The register blocks. -/
inductive Blk where
  | dev
  | pwr
  | ctx
  | dma (n : Nat)
  | lnk
  | ptp
  | int
  | roll
  | dbg
  | host
  | rgn (n : Nat)
  | cl (k : Nat)
  | none
  deriving DecidableEq, Repr

/-- The block of an offset in the register space, and the offset in the block. -/
def State.blk (s : State) (off : Nat) : Blk × Nat :=
  let o := off % 0x10000
  match off / 0x10000 with
  | 0 => (.dev, o)
  | 1 => (.pwr, o)
  | 2 => (.ctx, o)
  | 3 => if o < 0x1800 then (.dma (o / 0x40), o % 0x40) else (.none, 0)
  | 4 => (.lnk, o)
  | 5 => (.ptp, o)
  | 6 => (.int, o)
  | 7 => (.roll, o)
  | 8 => (.dbg, o)
  | 9 => (.host, o)
  | _ =>
    if 0x100000 ≤ off ∧ off < 0x130000 then
      (if s.regionOn ((off - 0x100000) / 0x1000) then (.rgn ((off - 0x100000) / 0x1000), off % 0x1000) else (.none, 0))
    else if 0x200000 ≤ off ∧ off < 0x218000 then
      (if s.clusterOn ((off - 0x200000) / 0x400) then (.cl ((off - 0x200000) / 0x400), off % 0x400) else (.none, 0))
    else (.none, 0)

/-- A register read by a master, without regard to its level; none where there is no register for it. -/
def State.regRead (s : State) (who : Master) (off : Nat) : Option (State × Word) :=
  let pure (x : Option Word) : Option (State × Word) := x.map (fun v => (s, v))
  let b := bankOf who
  match s.blk off with
  | (.dev, o) => pure (s.devReg who o)
  | (.pwr, o) => s.pwrReg b o
  | (.ctx, o) => pure (s.ctxReg b o)
  | (.dma n, o) => pure ((s.chan n).reg o)
  | (.lnk, o) => pure (s.lnkReg b o)
  | (.ptp, o) => s.ptpReg b o
  | (.int, o) => s.intReg o
  | (.roll, o) => pure (s.rollReg b o)
  | (.dbg, o) => if who = .keeper then s.dbgReg o else none
  | (.host, o) => pure (s.hostReg o)
  | (.rgn n, o) => s.rgnReg n o
  | (.cl k, o) => pure ((s.core k).reg o)
  | (.none, _) => none

/-- A register written by a master, without regard to its level. -/
def State.regPut (s : State) (who : Master) (off : Nat) (v : Word) : State :=
  let b := bankOf who
  match s.blk off with
  | (.dev, _) => s
  | (.pwr, o) => s.pwrWrite who o v
  | (.ctx, o) => s.ctxWrite b o v
  | (.dma n, o) => s.dmaRegWrite n o v true
  | (.lnk, o) => s.lnkWrite who b o v
  | (.ptp, o) => s.ptpWrite o v
  | (.int, o) => s.intWrite who o v
  | (.roll, o) => if o = 0 then s.rollCmd b (bits v 19 18) (bits v 6 0) else s
  | (.dbg, o) => s.dbgWrite o v
  | (.host, o) => s.hostRegWrite who o v
  | (.rgn n, o) => s.rgnWrite n o v
  | (.cl k, o) => s.onCore k (fun c => c.regWrite o v (who != .host))
  | (.none, _) => s

/-! ## Who may reach a register (R23, R50, R188, R259, R263 and the blocks' own rules) -/

/-- The offsets of a cluster block that R388 gives to run control. -/
def isRc (o : Nat) : Bool := decide (o < 8)

/-- The offsets of a cluster block that R263 names, CL_IPOST apart. -/
def isMachineReg (o : Nat) : Bool := decide (8 ≤ o) && o != 0x48

/-- A register answers a master at all: otherwise the address is unmapped for it. -/
def State.regMapped (s : State) (who : Master) (off : Nat) : Bool :=
  (s.regRead who off).isSome &&
    (match s.blk off with
      | (.cl _, o) =>
        if isRc o then who = .keeper || who = .debug else !(who = .host && isMachineReg o)
      | (.lnk, o) => !(who = .host && (o == 0x802 || o == 0x803))
      | _ => true)

/-- A steward core of cluster k at S may read, or write, a register. -/
def supervisorMay (k : Nat) (b : Blk) (o : Nat) (wr : Bool) : Bool :=
  match b with
  | .dev => true
  | .pwr => !wr || !([4, 6, 0x101].contains o)
  | .ctx => !wr || decide (o < 2)
  | .dma _ => true
  | .lnk => !wr || o == 0x802 || o == 0x803
  | .ptp => !wr
  | .int => !wr
  | .roll => !wr || o != 0
  | .dbg => false
  | .host => false
  | .rgn _ => !wr
  | .cl j => o == 0x48 || (j == k && !wr)
  | .none => false

/-- The level of a steward core allows an access to a place (R259): otherwise it is ACCESS. -/
def State.levelAllows (s : State) (k : Nat) (pl : Priv) (l : Loc) (wr : Bool) : Bool :=
  match l with
  | .ctx _ => pl != .u
  | .regs off =>
    (match pl with
      | .u => false
      | .s => supervisorMay k (s.blk off).1 (s.blk off).2 wr
      | .m =>
        (match s.blk off with
          | (.cl j, o) => o == 0x48 || j == k
          | _ => true))
  | .region _ _ => true
  | .coef _ _ => true
  | .hbm _ _ => true
  | .none => true

/-- A value as a steward core at S may write it: it cannot kill a channel (R297) or post for M (R277). -/
def State.supervisorValue (s : State) (pl : Priv) (a : Nat) (v : Word) : Word :=
  if pl = .m then v
  else
    match s.locOf a with
    | .regs off =>
      (match s.blk off with
        | (.dma _, 0x20) => v &&& 0xFFFF7
        | (.cl _, 0x48) => v &&& 0xFFEFF
        | _ => v)
    | _ => v

/-! ## Reserved fields (R14, R15) -/

/-- The bits of a register that are not reserved, and whether writing it only acts. -/
def regForm (b : Blk) (o : Nat) : Word × Bool :=
  match b with
  | .dev => (0xFFFFF, false)
  | .pwr =>
    (match o with | 4 => (0x1FF, false) | 6 => (0xFC000, false) | 0x100 => (0xC0003, true) | _ => (0xFFFFF, false))
  | .ctx =>
    if o = 0 then (0xF, true) else if 0x100 ≤ o ∧ o % 4 = 2 then (0x7FF, false) else (0xFFFFF, false)
  | .dma _ =>
    (match o with
      | 0x1A => (0xFFEF0, false)
      | 0x20 => (0xF, true)
      | 0x21 => (0xFFCFF, false)
      | 0x22 => (0xC007F, false)
      | _ => (0xFFFFF, false))
  | .lnk =>
    if o < 0x800 then
      (match o % 0x100 with
        | 0 => (0xFF000, false)
        | 1 => (0xFFC00, false)
        | 2 => (0x80FFF, false)
        | 6 => (0x000FF, false)
        | _ => (0xFFFFF, false))
    else if 0x1000 ≤ o ∧ o < 0x1800 then
      (match o % 8 with
        | 0 => (0xFFFC0, false)
        | 6 => (0x000FF, false)
        | 7 => (0, false)
        | _ => (0xFFFFF, false))
    else if 0x2000 ≤ o then (0x80007, false)
    else
      (match o with
        | 0x800 => (0xFFF, false)
        | 0x803 => (0xFFF, true)
        | 0x804 => (0xFFFF, false)
        | 0x805 => (1, true)
        | 0x807 => (0xFFFE0, false)
        | _ => (0xFFFFF, false))
  | .ptp =>
    if o = 0xC then (0xFFF80, false) else if 0x100 ≤ o ∧ o % 8 = 6 then (0xE0000, false) else (0xFFFFF, false)
  | .int =>
    (match o with
      | 0 => (1, false)
      | 2 => (1, false)
      | 0x10 => (0x7FFF, false)
      | 0x11 => (0xFFFF, true)
      | 0x12 => (0x80001, true)
      | _ => (0xFFFFF, false))
  | .roll => if o = 0 then (0xC007F, true) else (0xFFFFF, false)
  | .dbg => (match o with | 3 => (0xC0000, false) | 4 => (0xFE000, false) | _ => (0xFFFFF, false))
  | .host =>
    if 0x40 ≤ o ∧ o < 0xC0 then (0x8003F, false)
    else if 0x400 ≤ o then (0xFFFF, false)
    else
      (match o with
        | 0 => (0xC0000, false)
        | 5 => (0xF, false)
        | 8 => (1, true)
        | 0xA => (0x80FFF, true)
        | 0xB => (0x80FFF, true)
        | _ => (0xFFFFF, false))
  | .rgn _ =>
    (match o with
      | 0 => (0x1F, false)
      | 1 => (0x3FF, false)
      | 2 => (0x3FFF, false)
      | 4 => (0x1FF, false)
      | 5 => (0x1FFFF, false)
      | 0x100 => (0xFFFF0, false)
      | 0x201 => (0x807FF, false)
      | _ => (0xFFFFF, false))
  | .cl _ =>
    (match o with
      | 0 => (3, true)
      | 2 => (0x3FF, false)
      | 0x46 => (0x3FF, false)
      | 0x48 => (0x101, true)
      | 0x49 => (1, true)
      | _ => (0xFFFFF, false))
  | .none => (0xFFFFF, false)

/-- A free value x of its legal bits in a register, which changes no other state (R15): a field whose writing acts
elsewhere holds the value and does not act, MOVED and CAP keep theirs (DESIGN CHOICE log 16). -/
def State.regFree (s : State) (who : Master) (off : Nat) (x : Word) : State :=
  match s.blk off with
  | (.rgn n, 0) => s.onRgn n (fun r => { r with ctl := x &&& 0x1F })
  | (.rgn n, 2) => s.onRgn n (fun r => { r with vf := (r.writeVf x).vf })
  | (.rgn n, 5) => s.onRgn n (fun r => { r with target := x.extractLsb' 7 7 })
  | (.host, 0) => { s with host := { s.host with lten := bit x 19, hrst := bit x 18 } }
  | (.ptp, 0xC) => s.regPut who off (x &&& 0x7FFFF)
  | (.lnk, o) =>
    if o < 0x800 ∧ o % 0x100 = 0 then s.setPort (o / 0x100) { s.port (o / 0x100) with ctl := x } else s.regPut who off x
  | _ => s.regPut who off x

/-- A register write with reserved bits set is unpredictable (R14, R15): a register takes a free value of its legal
bits, and one that only acts does nothing (DESIGN CHOICE log 16). -/
def State.regWrite (s : State) (who : Master) (off : Nat) (v : Word) : State :=
  let b := s.blk off
  let f := regForm b.1 b.2
  if v &&& ~~~ f.1 = 0 then s.regPut who off v
  else if f.2 then s
  else
    let d := s.draw 20
    d.2.regFree who off (d.1 &&& f.1)

/-! ## One word read or written by a master -/

/-- What an access of a master other than a stream or a DMA channel gives: it waits for a wake (R27), fails, or is
performed. -/
inductive Bus (α : Type) where
  | hold (s : State)
  | bad (s : State) (e : BusErr)
  | done (s : State) (x : α)

/-- The address is mapped for the master (R16, R23). -/
def State.mapped (s : State) (who : Master) (a : Nat) (wr : Bool) : Bool :=
  let l := s.locOf a
  reaches who l wr && (match l with | .regs off => s.regMapped who off | _ => true)

/-- Run control of a rolling cluster is refused (R367). -/
def State.rcRefused (s : State) (off : Nat) : Bool :=
  match s.blk off with
  | (.cl k, o) => isRc o && (s.core k).rolling
  | _ => false

/-- The registers of an offset lie on a compute die whose fabric is off (R27, R284). -/
def State.regsOff (s : State) (off : Nat) : Bool :=
  match s.blk off with
  | (.rgn n, _) => s.fabricOff (dieOf n)
  | (.cl k, _) => s.fabricOff (dieOf (homeOf k))
  | (.dma n, _) => decide (n < 64) && s.fabricOff (chanDie n)
  | _ => false

/-- The fabric target that an address belongs to (R284): a region with its coefficient stores and its RGN and cluster
blocks, an HBM stack, the DMA registers of a die, or a unit off the dies. -/
def State.target (s : State) (a : Nat) : Nat × Nat :=
  match s.locOf a with
  | .regs off =>
    (match s.blk off with
      | (.rgn n, _) => (0, n)
      | (.cl k, _) => (0, homeOf k)
      | (.dma n, _) => if n < 64 then (2, chanDie n) else (3, 1)
      | _ => (3, 1))
  | l => l.target

/-- What stands in the way of an access, registers included. -/
def State.busGate (s : State) (who : Master) (a : Nat) : Gate :=
  match s.locOf a with
  | .regs off =>
    if s.regsOff off then .refuse (s.logAt 0xB (logWho who) a (.regs off) 0)
    else if s.rcRefused off then .refuse (s.logAt 0xA (logWho who) a (.regs off) 0)
    else .go s
  | l => s.gate (logWho who) a l

/-- A word read by a master. -/
def State.busRead (s : State) (who : Master) (a : Nat) : Bus Word :=
  if !s.mapped who a false then .bad s .unmapped
  else
    match s.busGate who a with
    | .wait s => .hold s
    | .refuse s => .bad s .refused
    | .go s =>
      match s.locOf a with
      | .regs off =>
        (match s.regRead who off with
          | some (s, v) => .done s v
          | none => .bad s .unmapped)
      | l =>
        match s.readLoc (logWho who) a l false with
        | (s, .ok v) => .done s v
        | (s, .bad e) => .bad s e

/-- A word written to a place by a master, past every check: the words of one block that HBM takes together are the
caller's. -/
def State.putWord (s : State) (who : Master) (a : Nat) (v : Word) : State × Option BusErr :=
  match s.locOf a with
  | .regs off => (s.regWrite who off v, none)
  | .hbm h o =>
    let r := s.hbmWrite (logWho who) h 1 o [v]
    (r.1, r.2.map (fun e => e.1))
  | .ctx off => (s.ctxWriteWord a off v, none)
  | l => (s.writeLoc a l v, none)

/-- A word written by a master. -/
def State.busWrite (s : State) (who : Master) (a : Nat) (v : Word) : Bus Unit :=
  if !s.mapped who a true then .bad s .unmapped
  else
    match s.busGate who a with
    | .wait s => .hold s
    | .refuse s => .bad s .refused
    | .go s =>
      match s.putWord who a v with
      | (s, none) => .done s ()
      | (s, some e) => .bad s e

/-- STATUS.CAUSE of a failed access of the debug master (R390). -/
def dbgCause (e : BusErr) : BitVec 4 :=
  match e with
  | .unmapped => 1
  | .access => 1
  | .window => 1
  | .atomic => 1
  | .uncorr => 2
  | .poison => 3
  | .refused => 4

/-- A failed access recorded in DBG_STATUS. -/
def State.debugFail (s : State) (cause : BitVec 4) : State := { s with dbg := { s.dbg with err := true, cause := cause } }

/-- A register access named in a command fails at its master (R16, R339, R390): the host's and the debug master's are
recorded. A steward core's access is one of its instructions, whose checks raise DATA before a register is reached, and
the keeper core's answer is the keeper firmware's (log 23). -/
def State.masterFault (s : State) (who : Master) (a : Nat) (e : BusErr) : State :=
  match who with
  | .host => if e = .unmapped then s.hostErr 2 a else s
  | .debug => s.debugFail (dbgCause e)
  | _ => s

/-- A register write by a master named in a command. A steward core writes at its executing level. -/
def State.writeBy (s : State) (who : Master) (off : Nat) (v : Word) : Out :=
  let a := 0x30000000 + off
  let may :=
    match who with
    | .core k => s.clusterOn k && s.levelAllows k (s.core k).cst.pl (.regs off) true
    | _ => true
  let v := match who with | .core k => s.supervisorValue (s.core k).cst.pl a v | _ => v
  if !may || !s.up then ok s
  else
    match s.busWrite who a v with
    | .hold s => ok s
    | .bad s e => ok (s.masterFault who a e)
    | .done s _ => ok s

/-- A register read by a master named in a command. -/
def State.readBy (s : State) (who : Master) (off : Nat) : Out :=
  let may :=
    match who with
    | .core k => s.clusterOn k && s.levelAllows k (s.core k).cst.pl (.regs off) false
    | _ => true
  if !may || !s.up then ok s
  else
    match s.busRead who (0x30000000 + off) with
    | .hold s => ok s
    | .bad s e => ok (s.masterFault who (0x30000000 + off) e)
    | .done s _ => ok s

end Sys2Proof.Machine
end

