-- ==== Sys2Proof/Machine/Board.lean ====
section
/-! DEFINITION. The commands of a region: turns of its board, scrubbing, castling, power states, voltage and frequency
(R27, R34-R44, R51-R56, R352-R357, R369, R370), and the scrubbers of the other stores (R354). -/

namespace Sys2Proof.Machine

/-- A command of a region that the device has. -/
def State.region (s : State) (n : Nat) (f : State → State) : Out := if !s.regionOn n then noUnit else ok (f s)

/-- A write to a register of region n's block by a master. -/
def State.writeRgn (s : State) (who : Master) (n off : Nat) (v : Word) : Out :=
  if 48 ≤ n then noUnit else s.writeBy who (0x100000 + n * 0x1000 + off) v

/-! ## The board (R34-R38) -/

/-- BOARD_ACCESS_GRANT (R37): one turn of the board, with the accesses newly presented to it. -/
def execBoardAccessGrant (n : Nat) (reqs : List BoardReq) (s : State) : Out := s.region n (fun s => s.boardTurn n reqs)

/-! ## Scrubbing (R352-R354) -/

/-- SCRUB_ROW_DUE (R352). -/
def execScrubRowDue (n : Nat) (s : State) : Out := s.region n (fun s => s.scrubFallsDue n)

/-- SCRUB_TURN (R353). -/
def execScrubTurn (n : Nat) (s : State) : Out := s.region n (fun s => s.scrubTurn n)

/-- The place of the walker of a store in the table of walkers. -/
def storeIdx (st : StoreId) : Nat := match st with | .coef k => k | .context => 96

/-- First address and length of a store with a walker. -/
def storeSpan (st : StoreId) : Nat × Nat :=
  match st with
  | .coef k => (0x40000000 + k * 0x4000, 0x4000)
  | .context => (0x20000000, 0x2000000)

/-- A store's scrubber takes a free cycle (R354): it writes back what it holds, and reads the next word as R353 states. -/
def State.walkStore (s : State) (st : StoreId) : State :=
  let b := storeSpan st
  let here (w : WriteBack) : Bool := decide (b.1 ≤ w.addr) && decide (w.addr < b.1 + b.2)
  let wb := s.walkWb.filter here
  let s := { s with walkWb := s.walkWb.filter (fun w => !here w) }
  let s := s.applyWb wb
  let p := SMap.get 0 s.walkers (storeIdx st) % b.2
  let r := s.scrubWord (b.1 + p) (s.locOf (b.1 + p))
  { r.1 with
    walkWb := r.1.walkWb ++ r.2.toList
    walkers := SMap.set 0 r.1.walkers (storeIdx st) ((p + 1) % b.2) }

/-- STORE_SCRUB_WORD (R354): a coefficient store is walked while its region runs. -/
def execStoreScrubWord (st : StoreId) (s : State) : Out :=
  match st with
  | .context => ok (s.walkStore st)
  | .coef k =>
    if !s.clusterOn k then noUnit
    else if (s.rgn (homeOf k)).pstate != .run || (s.core k).rolling then ok s
    else ok (s.walkStore st)

/-! ## Castling (R41-R44, R56) -/

/-- CASTLE_GO (R41): a write of RGN_SPARE with GO = 1. -/
def execCastleGo (who : Master) (n : Nat) (v : Word) (s : State) : Out := s.writeRgn who n 5 (v ||| 0x4000)
/-- CASTLE_COPY_ROW (R42): the copier's grants in a turn in which nothing stands in its way. -/
def execCastleCopyRow (n : Nat) (s : State) : Out := s.region n (fun s => s.copyRow n)
/-- CASTLE_SWITCHOVER (R44). -/
def execCastleSwitchover (n : Nat) (s : State) : Out := s.region n (fun s => s.switchover n)

/-! ## Power states (R51, R369, R370) -/

/-- A write of RGN_CTL with PREQ = 001 (R51). -/
def execRgnPreqNap (who : Master) (n : Nat) (v : Word) (s : State) : Out := s.writeRgn who n 0 ((v &&& 0xFFFE3) ||| 4)
/-- A write of RGN_CTL with PREQ = 010 (R51). -/
def execRgnPreqOff (who : Master) (n : Nat) (v : Word) (s : State) : Out := s.writeRgn who n 0 ((v &&& 0xFFFE3) ||| 8)
/-- A write of RGN_CTL with PREQ = 000 (R51). -/
def execRgnPreqAutomatic (who : Master) (n : Nat) (v : Word) (s : State) : Out := s.writeRgn who n 0 (v &&& 0xFFFE3)
/-- A write of RGN_CTL with VACATE = 1 (R51). -/
def execVacate (who : Master) (n : Nat) (v : Word) (s : State) : Out := s.writeRgn who n 0 (v ||| 2)
/-- A write of RGN_CTL with HOLD = 1 (R51, R27). -/
def execHold (who : Master) (n : Nat) (v : Word) (s : State) : Out := s.writeRgn who n 0 (v ||| 1)
/-- REQUESTED_STATE_ENTRY (R51, R369). -/
def execRequestedStateEntry (n : Nat) (s : State) : Out := s.region n (fun s => s.requestedEntry n)
/-- REGION_IDLE_ENTRY (R369, R54). -/
def execRegionIdleEntry (n : Nat) (s : State) : Out := s.region n (fun s => s.idleEntry n)
/-- REGION_NAP_ENTRY (R369). -/
def execRegionNapEntry (n : Nat) (s : State) : Out := s.region n (fun s => s.napEntry n)
/-- REGION_LOGIC_UP (R369, R370). -/
def execRegionLogicUp (n : Nat) (s : State) : Out := s.region n (fun s => s.logicUp n)
/-- ZERO_FILL_DONE (R370). -/
def execZeroFillDone (n : Nat) (s : State) : Out := s.region n (fun s => s.fillDone n)

/-! ## Voltage, frequency, turns, the flip mask, margins (R53-R55, R355, R358) -/

/-- A write of RGN_VF (R54). -/
def execRgnVf (who : Master) (n : Nat) (v : Word) (s : State) : Out := s.writeRgn who n 2 v
/-- VOLTAGE_RAMP_STEP (R54). -/
def execVoltageRampStep (n : Nat) (s : State) : Out :=
  s.region n (fun s => if (s.rgn n).ramp then s.onRgn n Region.rampStep else s)
/-- A write of RGN_TURNS (R55). -/
def execRgnTurns (who : Master) (n : Nat) (v : Word) (s : State) : Out := s.writeRgn who n 4 v
/-- A write of word 0x201 of RGN_ECC_FLIP (R355). -/
def execRgnEccFlip (who : Master) (n : Nat) (v : Word) (s : State) : Out := s.writeRgn who n 0x201 v
/-- MARGIN_MEASUREMENT (R358): a margin monitor measures physical square q. -/
def execMarginMeasurement (n : Nat) (q : BitVec 7) (m : BitVec 10) (s : State) : Out := s.region n (fun s => s.margin n q m)

end Sys2Proof.Machine
end

