-- ==== Sys2Proof/Machine/Ops.lean ====
section
/-! DEFINITION. What every instruction of a steward core shares: when it may run, retiring, loads and the store buffer,
checks of an access, and taking an exception (R214-R225, R259, R264-R269). -/

namespace Sys2Proof.Machine

/-! ## When an instruction runs -/

/-- The interrupts that the core would take now, of the higher level first (R276, R278): the level and the bits. -/
def Core.irq (c : Core) : Option (Priv × List Nat) :=
  let on (i : Nat) : Bool := bit c.ipend i && bit c.imask i
  let takes (l : Priv) : Bool := decide (c.cst.pl.code < l.code) || (c.cst.pl == l && c.cst.ie)
  let sb := [0, 1].filter on
  if on 8 && takes .m then some (.m, [8])
  else if sb != [] && takes .s then some (.s, sb)
  else none

/-- Run control lets the core execute; in FIELD a halt waits while the core is at M (R389). -/
def State.released (s : State) (c : Core) : Bool :=
  c.rc == .running || c.rc == .stepping || (c.rc == .halting && s.dev.lc == 2 && c.cst.pl == .m)

/-- A context runs on the core and nothing has stopped it at this boundary (R199, R265, R389). -/
def State.atWork (s : State) (k : Nat) : Bool :=
  let c := s.core k
  s.clusterOn k && c.bound.isSome && c.phase == .running && !c.rolling && s.released c
    && (c.preempt.isNone || c.cst.pl == .m)

/-- Nothing holds the next instruction: no load past its delay slot (R217), no division or VBAR in X, no event that
R265 takes first. -/
def Core.free (c : Core) : Bool :=
  c.loads.all (fun l => l.age == 0) && c.div.isNone && !c.vbar && c.mchk.isNone && c.irq.isNone

/-- The context bound to cluster k. -/
def Core.ctx (c : Core) : Nat := c.bound.getD 0

/-! ## Retiring -/

/-- Pending MSTART products one instruction older; one that three later instructions have passed is written (R230). -/
def Core.ageMstart (c : Core) : Core :=
  let l := c.mstart.map (fun e => (e.1 + 1, e.2))
  match l with
  | [] => c
  | e :: rest =>
    if 3 ≤ e.1 then { c with mstart := rest, mh := e.2.extractLsb' 20 20, ml := e.2.extractLsb' 0 20 }
    else { c with mstart := l }

/-- A line of the fetch buffer holds an address. -/
def FLine.holds (f : FLine) (a : Nat) : Bool := decide (f.base ≤ a ∧ a < f.base + f.ws.length)

/-- The lines of the fetch buffer by their last use in F, the oldest first, after a use of an address (R223). -/
def useLine (l : List FLine) (a : Nat) : List FLine := l.filter (fun f => !f.holds a) ++ l.filter (fun f => f.holds a)

/-- n consecutive addresses from a; addresses wrap at 2^40. -/
def addrsFrom (a : Dbl) (n : Nat) : List Nat := (List.range n).map (fun i => (a + BitVec.ofNat 40 i).toNat)

/-- The words of which a store's earlier values may still be executed, once len words more have passed (R225). -/
def staleAfter (l : List Stale) (len : Nat) : List Stale :=
  (l.filter (fun e => decide (len < e.left))).map (fun e => { e with left := e.left - len })

/-- What every instruction of len words does as it passes on: the mode settings that later instructions sample (R127), the
ages of loads and products, the lines of the fetch buffer that it has used, the words that may be executed with an earlier
value, a STEP (R389). -/
def Core.pass (c : Core) (len : Nat) : Core :=
  let d := c.ageMstart
  { d with
    vm1 := c.vm2, vm2 := c.vmode, fm1 := c.fm2, fm2 := c.fmode
    loads := c.loads.map (fun l => { l with age := l.age + 1 })
    fbuf := (addrsFrom c.pc len).foldl useLine c.fbuf
    stale := staleAfter c.stale len
    repNew := false
    rc := if c.rc == .stepping then .halting else c.rc
    inVec := false }

/-- An instruction of len words passes on: the program counter moves past it, or the count of a REP goes down (R226). The
instruction's own writes come after it. -/
def Core.retire (c : Core) (len : Nat) : Core :=
  let r := match c.rep with | some n => if 2 ≤ n then some (n - 1) else none | none => none
  { c.pass len with pc := if r.isSome then c.pc else c.pc + BitVec.ofNat 40 len, rep := r }

/-- The settings in force for every later instruction (R127, R224). -/
def Core.sync (c : Core) : Core := { c with vm1 := c.vmode, vm2 := c.vmode, fm1 := c.fmode, fm2 := c.fmode }

/-- An instruction of len words passes control to a target (R224): the two instructions that it kills count for the mode
settings. -/
def Core.jump (c : Core) (len : Nat) (target : Dbl) : Core := { (c.pass len).sync with pc := target, rep := none }

/-- The core of cluster k after its instruction. -/
def State.done (s : State) (k : Nat) (c : Core) : Out := ok (s.setCore k c)

/-! ## Consecutive and split accesses (R219) -/

/-- Addresses cut into accesses at multiples of m words. -/
def splitAt (m : Nat) : List Nat → List (List Nat)
  | [] => []
  | a :: l =>
    match splitAt m l with
    | [] => [[a]]
    | x :: xs => if (a + 1) % m = 0 then [a] :: x :: xs else (a :: x) :: xs

/-- Words matched with the accesses that carry them. -/
def carry : List (List Nat) → List Word → List SbEntry
  | [], _ => []
  | x :: xs, ws => { addr := x.headD 0, ws := ws.take x.length } :: carry xs (ws.drop x.length)

/-! ## Checks (R218, R259, R264) -/

/-- A subcause of DATA and FETCH (R264). -/
def BusErr.sub (e : BusErr) : Nat :=
  match e with
  | .unmapped => 1
  | .access => 2
  | .window => 3
  | .atomic => 4
  | .uncorr => 5
  | .poison => 6
  | .refused => 7

/-- An address is a word of a region window. -/
def State.isRegion (s : State) (a : Nat) : Bool := match s.locOf a with | .region _ _ => true | _ => false

/-- The checks of one access of core k, in the order of R264: mapping, level, window, atomic. -/
def State.checkAccess (s : State) (k : Nat) (c : Core) (needs : List Need) (wr atomic : Bool) (l : List Nat) :
    Option (BusErr × Nat) :=
  let bad (e : BusErr) (p : Nat → Bool) : Option (BusErr × Nat) := (l.find? p).map (fun a => (e, a))
  let unm := bad .unmapped (fun a => !s.mapped (.core k) a wr)
  let acc := bad .access (fun a => !s.levelAllows k c.cst.pl (s.locOf a) wr)
  let win :=
    if c.cst.pl = .m then none
    else bad .window (fun a => needs.any (fun n => !s.permits c.ctx n a))
  let atm := if atomic then bad .atomic (fun a => !s.isRegion a) else none
  unm.or (acc.or (win.or atm))

/-- The checks of several accesses, each in turn (R219). -/
def State.checkAll (s : State) (k : Nat) (c : Core) (needs : List Need) (wr atomic : Bool) (ls : List (List Nat)) :
    Option (BusErr × Nat) :=
  ls.findSome? (s.checkAccess k c needs wr atomic)

/-! ## Reading -/

/-- What reading some words gives. -/
inductive Rd where
  | hold (s : State)
  | got (s : State) (d : LdData)

/-- The first wait that an access to some words meets. -/
def State.waits (s : State) (who : Master) (l : List Nat) : Option State :=
  l.findSome? (fun a => match s.busGate who a with | .wait s => some s | _ => none)

/-- Words read in turn; words of one HBM block are one read. -/
def State.readWords (s : State) (who : Master) : List Nat → Option Nat → State × LdData
  | [], _ => (s, .ok [])
  | a :: l, prev =>
    match s.busGate who a with
    | .wait s => (s, .bad .refused a)
    | .refuse s => (s, .bad .refused a)
    | .go s =>
      let r : State × FWord :=
        match s.locOf a with
        | .regs off => (match s.regRead who off with | some (s, v) => (s, .ok v) | none => (s, .bad .unmapped))
        | .hbm h o => s.readLoc (logWho who) a (.hbm h o) (prev == some (a - 1) && decide (o % 24 ≠ 0))
        | x => s.readLoc (logWho who) a x false
      match r with
      | (s, .bad e) => (s, .bad e a)
      | (s, .ok v) =>
        match State.readWords s who l (some a) with
        | (s, .ok vs) => (s, .ok (v :: vs))
        | (s, .bad e b) => (s, .bad e b)

/-- Words read by a master, or the wait for a wake that holds all of them. -/
def State.readAll (s : State) (who : Master) (l : List Nat) : Rd :=
  match s.waits who l with
  | some s => .hold s
  | none => let r := s.readWords who l none; .got r.1 r.2

/-- An address lies in the register space. -/
def State.isReg (s : State) (a : Nat) : Bool := match s.locOf a with | .regs _ => true | _ => false

/-- Two lists dealt out again in the order of a test on the first. -/
def deal (p : Nat → Bool) : List Nat → List Word → List Word → List Word
  | [], _, _ => []
  | a :: l, xs, ys =>
    if p a then ys.headD 0 :: deal p l xs (ys.drop 1) else xs.headD 0 :: deal p l (xs.drop 1) ys

/-- Words read by a core: registers only after every other word has come back without a fault (R175). -/
def State.readMixed (s : State) (who : Master) (l : List Nat) : Rd :=
  match s.readAll who (l.filter (fun a => !s.isReg a)) with
  | .hold s => .hold s
  | .got s (.bad e a) => .got s (.bad e a)
  | .got s (.ok xs) =>
    match s.readWords who (l.filter s.isReg) none with
    | (s, .bad e a) => .got s (.bad e a)
    | (s, .ok ys) => .got s (.ok (deal s.isReg l xs ys))

/-- What a word was before a group in flight that has written it and will write it again (R19), where it could be read. -/
def Core.before (c : Core) (a : Nat) : Option Word :=
  match c.groups.findSome? (fun g => g.mid.find? (fun e => e.1 == a)) with
  | some e => (match decode (e.2 ^^^ encode 0 (rowOf (a % 0x800000))) (rowOf (a % 0x800000)) with | .good v _ => some v | _ => none)
  | none => none

/-- An outstanding load performed (R216, R233): its data as captured, or read now. -/
def State.readLoad (s : State) (k : Nat) (l : PendLoad) : Rd :=
  match l.data with
  | some d => .got s d
  | none =>
    match s.readMixed (.core k) l.addrs with
    | .hold s => .hold s
    | .got s (.bad e a) => .got s (.bad e a)
    | .got s (.ok ws) =>
      .got (if l.lwx then s.onCore k (fun c => { c with resv := l.addrs.head? }) else s)
        (.ok (List.zipWith (fun a v => ((s.core k).before a).getD v) l.addrs ws))

/-- A loaded word written to its register. -/
def Core.putSlot (c : Core) (x : Slot) (v : Word) : Core :=
  match x with
  | .w key => { c with w := SMap.set 0 c.w key v }
  | .alo n => { c with a := SMap.upd 0 c.a n (fun o => putLo o v) }
  | .ahi n => { c with a := SMap.upd 0 c.a n (fun o => putHi o v) }
  | .flo n => { c with f := SMap.upd 0 c.f n (fun o => putLo o v) }
  | .fhi n => { c with f := SMap.upd 0 c.f n (fun o => putHi o v) }
  | .flw n => { c with f := SMap.set 0 c.f n (v.zeroExtend 40) }
  | .nil => c

/-- Loaded words written. -/
def Core.putSlots (c : Core) : List Slot → List Word → Core
  | x :: xs, v :: vs => Core.putSlots (c.putSlot x v) xs vs
  | _, _ => c

/-- A failed load's post-modification undone (R246). -/
def Core.undo (c : Core) (l : PendLoad) : Core :=
  match l.undo with
  | some u => { c with a := SMap.set 0 c.a u.1 u.2 }
  | none => c

/-- A load's failure: its cause, its address, whether the access is a write's, and where the instruction runs again, under
which count of a REP, if it is a short-vector load. -/
structure LoadFail where
  e : BusErr
  a : Nat
  wr : Bool
  again : Option Dbl
  rep : Option Nat

/-- The failure of a load whose data has come back bad. -/
def PendLoad.fail (l : PendLoad) : Option LoadFail :=
  match l.data with
  | some (.bad e a) => some { e := e, a := a, wr := l.wr, again := l.again, rep := l.rep }
  | _ => none

/-- What performing every outstanding load gives: a wait, or the state with the first failure. -/
inductive Drain where
  | hold (s : State)
  | done (s : State) (bad : Option LoadFail)

/-- Outstanding loads performed in order (R217): each writes its registers, a failing one leaves them. The first that
fails stays until its DATA exception is entered (R218). -/
def State.drainFrom (s : State) (k : Nat) : List PendLoad → Option PendLoad → Drain
  | [], b => .done (s.onCore k (fun c => { c with loads := b.toList })) (b.bind PendLoad.fail)
  | l :: ls, b =>
    match s.readLoad k l with
    | .hold s => .hold (s.onCore k (fun c => { c with loads := b.toList ++ l :: ls }))
    | .got s (.ok ws) => State.drainFrom (s.onCore k (fun c => c.putSlots l.slots ws)) k ls b
    | .got s (.bad e a) =>
      State.drainFrom (s.onCore k (fun c => c.undo l)) k ls
        (b.or (some { l with data := some (.bad e a), undo := none, age := l.age + 1 }))

/-- Every pending MSTART product written (R230). -/
def Core.flushMstart (c : Core) : Core :=
  match c.mstart.getLast? with
  | some e => { c with mstart := [], mh := e.2.extractLsb' 20 20, ml := e.2.extractLsb' 0 20 }
  | none => c

/-- The core waits for its outstanding loads and its pending MSTART write (R266 step 1). -/
def State.drainLoads (s : State) (k : Nat) : Drain :=
  let c := s.core k
  match c.loads.findSome? (fun l => if l.data.isSome then none else s.waits (.core k) l.addrs) with
  | some s => .hold s
  | none => (s.onCore k Core.flushMstart).drainFrom k c.loads none

/-! ## The store buffer (R220, R221, R225) -/

/-- What performing an entry gives. -/
inductive Perf where
  | hold (s : State)
  | done (s : State)

/-- The addresses of an entry. -/
def SbEntry.addrs (e : SbEntry) : List Nat := (List.range e.ws.length).map (fun i => (e.addr + i) % 2 ^ 40)

/-- An entry writes a word of a list. -/
def SbEntry.meets (e : SbEntry) (l : List Nat) : Bool := e.addrs.any l.contains

/-- A refused store noted for MCHK 0100; an earlier one still pending stands. -/
def Core.refused (c : Core) (a : Nat) (e : BusErr) : Core :=
  if c.mchk.isSome then c else { c with mchk := some (a, e) }

/-- Words put in turn. -/
def State.putList (s : State) (who : Master) : List Nat → List Word → State
  | a :: l, v :: vs => State.putList (s.putWord who a v).1 who l vs
  | _, _ => s

/-- Outstanding loads of which p holds read, their data kept until they return. -/
def State.captured (s : State) (k : Nat) (p : PendLoad → Bool) : List PendLoad → State × List PendLoad
  | [] => (s, [])
  | l :: ls =>
    let r : State × PendLoad :=
      if l.data.isNone && p l then
        (match s.readLoad k l with
          | .hold s => (s, l)
          | .got s d => (s, { l with data := some d }))
      else (s, l)
    let q := State.captured r.1 k p ls
    (q.1, r.2 :: q.2)

/-- The loads of which p holds performed before a younger access, or their wait (R17, R288). -/
def State.captureLoads (s : State) (k : Nat) (p : PendLoad → Bool) : Perf :=
  let l := (s.core k).loads
  match l.findSome? (fun l => if l.data.isNone && p l then s.waits (.core k) l.addrs else none) with
  | some s => .hold s
  | none => let r := s.captured k p l; .done (r.1.onCore k (fun c => { c with loads := r.2 }))

/-- Two lists of addresses name a common fabric target. -/
def State.sameTarget (s : State) (l m : List Nat) : Bool := l.any (fun a => m.any (fun b => s.target a == s.target b))

/-- The oldest entry performed at its point of order, or reported as refused (R220), after every older load from its
target (R288). -/
def State.performStore (s : State) (k : Nat) : Perf :=
  match (s.core k).sbuf with
  | [] => .done s
  | e :: rest =>
    match s.waits (.core k) e.addrs with
    | some s => .hold s
    | none =>
    match s.captureLoads k (fun l => l.behind == 0 && s.sameTarget l.addrs e.addrs) with
    | .hold s => .hold s
    | .done s =>
      let s := s.onCore k (fun c => { c with sbuf := rest, loads := c.loads.map (fun l => { l with behind := l.behind - 1 }) })
      match e.addrs.findSome? (fun a => match s.busGate (.core k) a with | .refuse s => some (s, a) | _ => none) with
      | some (s, a) => .done (s.onCore k (fun c => c.refused a .refused))
      | none =>
        let s := e.addrs.foldl (fun s a => match s.busGate (.core k) a with | .go s => s | _ => s) s
        match s.locOf e.addr with
        | .hbm h o =>
          (match s.hbmWrite (1, k) h e.ws.length o e.ws with
            | (s, none) => .done s
            | (s, some (x, i)) => .done (s.onCore k (fun c => c.refused (e.addr + i) x)))
        | _ => .done (s.putList (.core k) e.addrs e.ws)

/-- Entries performed while a condition on the buffer holds. -/
def State.drainWhile (s : State) (k : Nat) (p : List SbEntry → Bool) : Nat → Perf
  | 0 => .done s
  | n + 1 =>
    if p (s.core k).sbuf then
      match s.performStore k with
      | .hold s => .hold s
      | .done s => State.drainWhile s k p n
    else .done s

/-- The store buffer drained (R220). -/
def State.drainStores (s : State) (k : Nat) : Perf := s.drainWhile k (fun b => b != []) (s.core k).sbuf.length

/-- Room made for n entries in the buffer of eight. -/
def State.room (s : State) (k n : Nat) : Perf := s.drainWhile k (fun b => decide (8 < b.length + n)) (s.core k).sbuf.length

/-- Words of the fetch buffer updated by a store (R225). -/
def FLine.store (f : FLine) (e : SbEntry) : FLine :=
  { f with ws := (List.zip (List.range f.ws.length) f.ws).map (fun p =>
      match (List.zip e.addrs e.ws).find? (fun q => q.1 == f.base + p.1) with
      | some q => .ok q.2
      | none => p.2) }

/-- Entries put into the buffer. -/
def Core.enqueue (c : Core) (es : List SbEntry) : Core :=
  { c with sbuf := c.sbuf ++ es, fbuf := c.fbuf.map (fun f => es.foldl FLine.store f) }

/-- What a load takes from the buffer (R221): nothing, its words from one entry, or a wait. -/
inductive Fwd where
  | mem
  | words (ws : List Word)
  | wait

/-- The entry's word at an address. -/
def SbEntry.word (e : SbEntry) (a : Nat) : Option Word := ((List.zip e.addrs e.ws).find? (fun q => q.1 == a)).map (fun q => q.2)

/-- How a load of some words meets the buffer. -/
def forward (b : List SbEntry) (l : List Nat) : Fwd :=
  match (b.filter (fun e => e.meets l)).getLast? with
  | none => .mem
  | some e =>
    let ws := l.filterMap e.word
    if ws.length = l.length then .words ws else .wait

/-! ## Taking an exception (R264-R269) -/

/-- An exception: its code, subcause and target level, its return point, and words 4 to 6 of its frame (R267). -/
structure Exc where
  code : Nat
  sub : Nat := 0
  lvl : Priv
  ret : Dbl
  info : Dbl := 0
  w6 : Word := 0

/-- The home level of R264. -/
def Priv.home (p : Priv) : Priv := match p with | .u => .s | .s => .s | .m => .m

/-- The CAUSE word (R262). -/
def Exc.cause (x : Exc) : Word := BitVec.ofNat 20 (x.sub * 256 + x.code)

/-- The stack base of a level (R266). -/
def Core.base (c : Core) (t : Priv) : Dbl := if t = .m then c.msb else c.ssb
/-- W30 of a level. -/
def Core.w30 (c : Core) (t : Priv) : Word := SMap.get 0 c.w (wKey t 30)
/-- W30 of a level written. -/
def Core.setW30 (c : Core) (t : Priv) (v : Word) : Core := { c with w := SMap.set 0 c.w (wKey t 30) v }
/-- The vector base of a level. -/
def Core.vbase (c : Core) (t : Priv) : Dbl := if t = .m then c.mevb else c.evb
/-- CAUSE of a level written. -/
def Core.setCause (c : Core) (t : Priv) (v : Word) : Core := if t = .m then { c with causeM := v } else { c with causeS := v }

/-- A REP in progress recorded for the frame (R227). -/
def Core.saveRep (c : Core) : Core :=
  match c.rep with
  | some n => { c with cnt := BitVec.ofNat 20 n, cst := { c.cst with rpt := true }, rep := none, repNew := false }
  | none => c

/-- The eight words from a frame address lie in usable offsets of enabled windows, and at S the context may access them
(R266, R273). -/
def State.frameOk (s : State) (c : Core) (t : Priv) (f : Dbl) (need : Need) : Bool :=
  (addrsFrom f 8).all (fun a => s.isRegion a && (t == .m || s.permits c.ctx need a))

/-- The core halts (R269): 1 push, 2 pop, 3 watchdog. -/
def State.haltCore (s : State) (k : Nat) (code : BitVec 2) : State :=
  (s.onCore k (fun c => { c with rc := .haltedErr, rcPl := c.cst.pl, halt := code, resv := none, div := none, vbar := false, loads := [] })).keeperIrq (.coreHalt k)

/-- A stack fault of an entry or return at S (R268): the frame goes to the scratch area. -/
def State.stackFault (s : State) (k : Nat) (sub : Nat) (ret frame : Dbl) (w6 : Word) : State :=
  let c := s.core k
  if c.sfh then s.haltCore k 1
  else
    let cause : Word := BitVec.ofNat 20 (sub * 256 + 14)
    let ws := [c.cstWord, cause, loW ret, hiW ret, loW frame, hiW frame, w6, c.w30 .s]
    let d : Core := { c with
      scratch := putWords c.scratch 0xF8 ws, causeM := cause, sfh := true, resv := none, rep := none, repNew := false, loads := []
      cst := { c.cst with pl := .m, ie := false }
      pc := c.mevb + 224, inVec := true, div := none, vbar := false, rc := if c.rc == .stepping then .halting else c.rc }
    s.setCore k d.sync

/-- What pushing a frame gives: a wait, a failed check, or the state with the frame in the buffer and the frame's
address. -/
inductive Push where
  | hold (s : State)
  | fail (f : Dbl)
  | done (s : State)

/-- A frame pushed on a level's stack (R266 steps 2 and 3). -/
def State.pushFrame (s : State) (k : Nat) (t : Priv) (ws : List Word) : Push :=
  let c := s.core k
  let f := c.base t + (c.w30 t - 8).zeroExtend 40
  if (c.w30 t).toNat < 8 ∨ (c.w30 t).toNat % 8 ≠ 0 ∨ s.frameOk c t f .w = false then .fail f
  else
    let es := carry (splitAt 4 (addrsFrom f 8)) ws
    match s.room k es.length with
    | .hold s => .hold s
    | .done s => .done (s.onCore k (fun c => c.enqueue es))

/-- The eight words of a frame (R267). -/
def Exc.frame (x : Exc) (cst : Word) : List Word :=
  [cst, x.cause, loW x.ret, hiW x.ret, loW x.info, hiW x.info, x.w6, 0]

/-- The state after an entry: W30, CAUSE, CST, the reservation and the vector (R266 steps 4 and 5). -/
def Core.entered (c : Core) (x : Exc) : Core :=
  let d := (c.setW30 x.lvl (c.w30 x.lvl - 8)).setCause x.lvl x.cause
  { d with
    cst := { c.cst with pl := x.lvl, ie := false, rpt := false }, resv := none, loads := []
    stale := c.stale.map (fun (e : Stale) => { e with left := min e.left 7 })
    pc := c.vbase x.lvl + BitVec.ofNat 40 (16 * x.code), inVec := true, div := none, vbar := false
    rc := if c.rc == RcState.stepping then RcState.halting else c.rc }.sync

/-- An exception entered once loads are complete. -/
def State.enter (s : State) (k : Nat) (x : Exc) : Out :=
  let s' := s.onCore k Core.saveRep
  let cst := (s'.core k).cstWord
  match s'.pushFrame k x.lvl (x.frame cst) with
  | .hold s => ok s
  | .done s => ok (s.onCore k (fun c => c.entered x))
  | .fail f =>
    if x.lvl = .m then ok (s'.haltCore k 1) else ok (s'.stackFault k 1 x.ret f x.cause)

/-- A DATA exception of an outstanding load, at the instruction that is held (R218), or at a short-vector load itself
(R175). -/
def Core.dataExc (c : Core) (f : LoadFail) : Exc :=
  { code := 4, sub := f.e.sub, lvl := c.cst.pl.home, ret := f.again.getD c.pc, info := BitVec.ofNat 40 f.a
    w6 := if f.wr then 0x40000 else 0 }

/-- The DATA exception of a failed load entered; a short-vector load runs again with the repetitions that it had (R227). -/
def State.loadFault (s : State) (k : Nat) (f : LoadFail) : Out :=
  let s := if f.again.isSome then s.onCore k (fun c => { c with rep := f.rep }) else s
  s.enter k ((s.core k).dataExc f)

/-- An exception taken (R266). A load that fails while the core waits for it has its DATA exception first (DEDUCED log 11). -/
def State.takeExc (s : State) (k : Nat) (x : Exc) : Out :=
  match s.drainLoads k with
  | .hold s => ok s
  | .done s none => s.enter k x
  | .done s (some f) => s.loadFault k f

/-- An exception of the instruction at the program counter, at its home level. -/
def State.fault (s : State) (k code : Nat) : Out :=
  let c := s.core k
  s.takeExc k { code := code, lvl := c.cst.pl.home, ret := c.pc }

/-- ILLEGAL (R240). -/
def State.illegal (s : State) (k : Nat) : Out := s.fault k 1
/-- PRIV. -/
def State.privFault (s : State) (k : Nat) : Out := s.fault k 2

/-! ## Fetching a word (R223, R183) -/

/-- The length that a first word gives its instruction (R239). -/
def wordLen (w : Word) : Nat :=
  let m := bits w 19 15
  if (17 ≤ m ∧ m ≤ 25) ∨ m = 27 ∨ m = 31 then 2 else 1

/-- A word of the fetch buffer. -/
def Core.buffered (c : Core) (a : Nat) : Option FWord :=
  (c.fbuf.find? (fun f => f.holds a)).bind (fun f => f.ws[a - f.base]?)

/-- A steward core wants a line: the one in F and the four that follow it (R223, R291). -/
def Core.wantsLine (c : Core) (b : Nat) : Bool :=
  let at0 := c.pc.toNat / 8 * 8
  c.bound.isSome && c.phase == .running && decide (at0 ≤ b) && decide (b ≤ at0 + 32)

/-- The value that a word i words from the next instruction had before the stores of which it does not see the new one
(R225): it sees none in the first instruction after them, and up to 8 words after them those that a free choice gives. -/
def Core.earlier (c : Core) (a i : Nat) (first : Bool) : Option Word :=
  (((c.stale.filter (fun e => e.addr == a)).takeWhile
    (fun e => decide (i < e.left) && (e.old || (first && e.left == 8)))).getLast?).map (fun e => e.w)

/-- A word that the core has fetched, as it executes it (R223, R225). -/
def Core.fetched (c : Core) (a : Dbl) : Option FWord :=
  let at_ (i : Nat) (a : Nat) (first : Bool) : Option FWord :=
    match c.earlier a i first with
    | some w => some (.ok w)
    | none => c.buffered a
  let i := (a - c.pc).toNat
  let two := match at_ 0 c.pc.toNat true with | some (.ok w) => wordLen w == 2 | _ => false
  at_ i a.toNat (i == 0 || (i == 1 && two))

/-- The word that the youngest buffered store of an address will leave there. -/
def Core.buffering (c : Core) (a : Nat) : Option Word := c.sbuf.reverse.findSome? (fun e => e.word a)

/-- A word as F takes it, from the fetch buffer or, once buffered stores have written it, its region, without its counts;
none where it cannot be executed. -/
def State.fetchPeek (s : State) (c : Core) (a : Dbl) : Option Word :=
  let n := a.toNat
  if !s.isRegion n || !(c.cst.pl == .m || s.permits c.ctx .x n) then none
  else
    match c.fetched a with
    | some (.ok w) => some w
    | some (.bad _) => none
    | none =>
      match c.buffering n with
      | some w => some w
      | none => match s.peek n (s.locOf n) with | .good d _ => some d | _ => none

/-- The words that R226 forbids under REP. -/
def notRepeated (w : Word) : Bool :=
  let m := bits w 19 15
  [21, 22, 23, 24, 26, 30, 31].contains m || (m == 0 && [2, 3, 4, 5, 8, 10, 12, 13].contains (bits w 4 0))

/-- The word at an address is one that R226 forbids; one that cannot be fetched faults later, at that word (R227). -/
def State.repForbidden (s : State) (c : Core) (a : Dbl) : Bool :=
  match s.fetchPeek c a with
  | some w => notRepeated w
  | none => false

/-- With a count of 0 left the instruction at the program counter is discarded, once it has been fetched (R226); one that a
restored count meets first and that R226 forbids stays, to take ILLEGAL (R227). -/
def State.skipZero (s : State) (c : Core) : Core :=
  if c.rep = some 0 then
    match s.fetchPeek c c.pc with
    | some w => if c.repNew && notRepeated w then c else { c with rep := none, repNew := false, pc := c.pc + BitVec.ofNat 40 (wordLen w) }
    | none => c
  else c

/-- An instruction of core k: where the core cannot run it now, nothing happens (DESIGN CHOICE log 1). A repeat count that
a return or a bind has restored checks the instruction as R227 states; after that it is held in D (R226). -/
def State.instr (s : State) (k : Nat) (body : Core → Out) : Out :=
  if !s.clusterOn k then noUnit
  else if s.atWork k && (s.core k).free then
    match (s.core k).rep with
    | none => body (s.core k)
    | some n =>
      if (s.core k).repNew && s.repForbidden (s.core k) (s.core k).pc then s.illegal k
      else if n = 0 then ok s
      else body (s.core k)
  else ok s

/-- A precise DATA fault of an access (R218). -/
def State.dataFault (s : State) (k : Nat) (e : BusErr) (a : Nat) (wr : Bool) : Out :=
  let c := s.core k
  s.takeExc k { code := 4, sub := e.sub, lvl := c.cst.pl.home, ret := c.pc, info := BitVec.ofNat 40 a,
                w6 := if wr then 0x40000 else 0 }

/-- PROFILE.FV of the bound context (R182, R191). -/
def State.profFV (s : State) (c : Core) : Bool := bit (s.cb c.ctx 4) 0
/-- PROFILE.T of the bound context. -/
def State.profT (s : State) (c : Core) : Bool := bit (s.cb c.ctx 4) 1

/-- An instruction of the FV set (R191): a legal one without the profile bit takes PROFILE. -/
def State.needFV (s : State) (k : Nat) (legal : Bool) (body : Out) : Out :=
  if !legal then s.illegal k else if !s.profFV (s.core k) then s.fault k 3 else body

/-- An instruction of the T set. -/
def State.needT (s : State) (k : Nat) (legal : Bool) (body : Out) : Out :=
  if !legal then s.illegal k else if !s.profT (s.core k) then s.fault k 3 else body

/-! ## Flags and traps (R83, R84) -/

/-- Flags merged into VMODE and FMODE. -/
def Core.merge (c : Core) (f : Flags) : Core := { c with vmode := mergeV c.vmode f, fmode := mergeF c.fmode f }

/-- An instruction of len words completes with its flags, or traps without its writes (R84). -/
def State.complete (s : State) (k len : Nat) (f : Flags) (write : Core → Core) : Out :=
  let c := s.core k
  let t := trapFlags f c.vm1 c.fm1
  if t ≠ 0 then
    (s.setCore k (c.merge f)).takeExc k
      { code := 6, lvl := c.cst.pl.home, ret := c.pc, w6 := BitVec.ofNat 20 t }
  else s.done k (write ((c.retire len).merge f))

/-! ## Loads and stores (R216-R222, R246) -/

/-- The post-modification of an address register. -/
def Core.post (c : Core) (u : Option (BitVec 3 × Dbl)) : Core :=
  match u with
  | some (a, v) => c.setA a v
  | none => c

/-- The old value of a post-modified register, for a load that fails later. -/
def Core.undoOf (c : Core) (u : Option (BitVec 3 × Dbl)) : Option (Nat × Dbl) := u.map (fun e => (e.1.toNat, c.ar e.1))

/-- The buffer performed as far as a load needs before it can be presented (R221, R222, R233). -/
def State.beforeLoad (s : State) (k : Nat) (l : List Nat) (lwx : Bool) : Perf × Option (List Word) :=
  let csr := l.any (fun a => match s.locOf a with | .regs _ => true | _ => false)
  if csr then (s.drainStores k, none)
  else
    match forward (s.core k).sbuf l with
    | .mem => (.done s, none)
    | .words ws =>
      if lwx then (s.drainWhile k (fun b => b.any (fun e => e.meets l)) (s.core k).sbuf.length, none)
      else (.done s, some ws)
    | .wait => (s.drainWhile k (fun b => b.any (fun e => e.meets l)) (s.core k).sbuf.length, none)

/-- A region that a presented access needs starts its wake (R27). -/
def State.present (s : State) (who : Master) (l : List Nat) : State :=
  match s.waits who l with
  | some s => s
  | none => s

/-- A load of some accesses into registers (R216): checked, then outstanding. -/
def State.load (s : State) (k len : Nat) (ls : List (List Nat)) (slots : List Slot) (u : Option (BitVec 3 × Dbl))
    (lwx sv : Bool) : Out :=
  let c := s.core k
  match s.checkAll k c [.r] false lwx ls with
  | some (e, a) => s.dataFault k e a false
  | none =>
    let l := ls.flatten
    match s.beforeLoad k l lwx with
    | (.hold s, _) => ok s
    | (.done s, data) =>
      let c := s.core k
      let p : PendLoad :=
        { addrs := l, slots := slots, data := data.map LdData.ok, lwx := lwx, undo := c.undoOf u,
          again := if sv then some c.pc else none, rep := c.rep, behind := c.sbuf.length }
      let d := (c.retire len).post u
      (s.present (.core k) l).done k { d with loads := d.loads ++ [p] }

/-- Words that a store of len words writes where the core may have fetched them already keep their earlier values for up
to 8 words after it (R225). -/
def State.keepStale (s : State) (k len : Nat) (l : List Nat) : State :=
  let c := s.core k
  let ws := l.filterMap (fun a => (s.fetchPeek c (BitVec.ofNat 40 a)).map (fun w => (a, w)))
  match ws with
  | [] => s
  | _ =>
    let d := s.draw 32
    d.2.onCore k (fun c => { c with
      stale := (List.zip (List.range ws.length) ws).map (fun p => { addr := p.2.1, w := p.2.2, left := 8 + len, old := bit d.1 p.1 })
        ++ c.stale })

/-- A lane of a short-vector store whose target refuses it now (R104 check 3, R175). -/
def State.refusedLane (s : State) (k : Nat) (l : List Nat) : Option (State × Nat) :=
  l.findSome? (fun a => match s.busGate (.core k) a with | .refuse s => some (s, a) | _ => none)

/-- A store of some accesses (R220): checked, then in the buffer. A short-vector store first meets the refusal of any of
its lanes (R175). -/
def State.store (s : State) (k len : Nat) (ls : List (List Nat)) (ws : List Word) (u : Option (BitVec 3 × Dbl)) (sv : Bool) : Out :=
  let c := s.core k
  match s.checkAll k c [.w] true false ls with
  | some (e, a) => s.dataFault k e a true
  | none =>
    let l := ls.flatten
    match if sv then s.refusedLane k l else none with
    | some (s, a) => s.dataFault k .refused a true
    | none =>
      let vs := (List.zip l ws).map (fun p => s.supervisorValue c.cst.pl p.1 p.2)
      let es := carry ls vs
      match s.room k es.length with
      | .hold s => ok s
      | .done s =>
        let s := (s.present (.core k) l).keepStale k len l
        s.done k ((((s.core k).retire len).post u).enqueue es)

end Sys2Proof.Machine
end

