-- ==== Sys2Proof/Machine/Integer.lean ====
section
/-! DEFINITION. The integer instructions (R229-R232, R241-R245). -/

namespace Sys2Proof.Machine

/-! ## Shared forms -/

/-- A result in Wd with its flags (R241, R242). -/
def State.alu (s : State) (k len : Nat) (d : BitVec 5) (f : Core → Word × Cst) : Out :=
  s.instr k (fun c =>
    let r := f c
    let n : Core := { c.retire len with cst := r.2 }
    s.done k (n.setW d r.1))

/-- A logical result: N and Z (R241). -/
def logic (c : Core) (r : Word) : Word × Cst := (r, c.cst.nz r)

/-- A result in Wd that sets no flag of CST. -/
def State.move (s : State) (k len : Nat) (d : BitVec 5) (f : Core → Word) : Out :=
  s.instr k (fun c => s.done k ((c.retire len).setW d (f c)))

/-- A result in a register pair; an odd pair is illegal (R240). -/
def State.movePair (s : State) (k len : Nat) (d : BitVec 5) (f : Core → Dbl) : Out :=
  s.instr k (fun c => if bit d 0 then s.illegal k else s.done k ((c.retire len).setPair d (f c)))

/-- An operation that narrows with a SAT field, giving its value and OV (R244, R245). -/
def State.narrowing (s : State) (k : Nat) (d : BitVec 5) (sat : BitVec 2) (f : Core → Bool → Int × Bool) : Out :=
  s.instr k (fun c =>
    match satOf sat c.vm1 with
    | none => s.illegal k
    | some b =>
      let r := f c b
      s.complete k 2 { ov := r.2 } (fun c => c.setW d (BitVec.ofInt 20 r.1)))

/-- As narrowing, with a rounding mode too. -/
def State.rounding (s : State) (k : Nat) (d : BitVec 5) (o : Opt) (f : Core → BitVec 2 → Bool → Int × Bool) : Out :=
  s.narrowing k d o.sat (fun c b => f c (rmOf o.rdef o.rm c.vm1) b)

/-- A division starts to hold X (R231); its destination pair must be even. -/
def State.divide (s : State) (k : Nat) (d : BitVec 5) (sat : BitVec 2) (legal : Bool) (f : Core → Bool → DivRes) : Out :=
  s.instr k (fun c =>
    match satOf sat c.vm1 with
    | none => s.illegal k
    | some b =>
      if bit d 0 || !legal then s.illegal k
      else
        let r := f c b
        let p : DivPend := { q := r.q, r := r.r, qk := (pairLo d).toNat, rk := (pairHi d).toNat, ov := r.ov, dz := r.dz
                             trap := r.dz && bit c.vm1 7 }
        s.done k { c with div := some p })

/-! ## One word: TR (R242) -/

/-- ADD Wd, Ws, Wt (R242, R241). -/
def execAdd (k : Nat) (d rs t : BitVec 5) (s : State) : Out :=
  s.alu k 1 d (fun c => addFlags c.cst (c.wr rs) (c.wr t) false)
/-- SUB Wd, Ws, Wt (R242): Ws + NOT Wt + 1. -/
def execSub (k : Nat) (d rs t : BitVec 5) (s : State) : Out :=
  s.alu k 1 d (fun c => addFlags c.cst (c.wr rs) (~~~ c.wr t) true)
/-- ADC Wd, Ws, Wt (R232). -/
def execAdc (k : Nat) (d rs t : BitVec 5) (s : State) : Out :=
  s.alu k 1 d (fun c => adcFlags c.cst (c.wr rs) (c.wr t))
/-- SBC Wd, Ws, Wt (R232): Ws + NOT Wt + C. -/
def execSbc (k : Nat) (d rs t : BitVec 5) (s : State) : Out :=
  s.alu k 1 d (fun c => adcFlags c.cst (c.wr rs) (~~~ c.wr t))
/-- AND Wd, Ws, Wt (R242). -/
def execAnd (k : Nat) (d rs t : BitVec 5) (s : State) : Out := s.alu k 1 d (fun c => logic c (c.wr rs &&& c.wr t))
/-- OR Wd, Ws, Wt (R242). -/
def execOr (k : Nat) (d rs t : BitVec 5) (s : State) : Out := s.alu k 1 d (fun c => logic c (c.wr rs ||| c.wr t))
/-- XOR Wd, Ws, Wt (R242). -/
def execXor (k : Nat) (d rs t : BitVec 5) (s : State) : Out := s.alu k 1 d (fun c => logic c (c.wr rs ^^^ c.wr t))
/-- SHL Wd, Ws, Wt: logical left (R72, R242). -/
def execShl (k : Nat) (d rs t : BitVec 5) (s : State) : Out :=
  s.alu k 1 d (fun c => logic c (shlL (c.wr rs) (c.wr t).toNat))
/-- SHR Wd, Ws, Wt: logical right (R72, R242). -/
def execShr (k : Nat) (d rs t : BitVec 5) (s : State) : Out :=
  s.alu k 1 d (fun c => logic c (shrL (c.wr rs) (c.wr t).toNat))
/-- SHA Wd, Ws, Wt: arithmetic right (R72, R242). -/
def execSha (k : Nat) (d rs t : BitVec 5) (s : State) : Out :=
  s.alu k 1 d (fun c => logic c (shrA (c.wr rs) (c.wr t).toNat))

/-- MUL Wd, Ws, Wt (R229, R68): narrowed with S from VMODE.SAT. -/
def execMul (k : Nat) (d rs t : BitVec 5) (s : State) : Out :=
  s.instr k (fun c =>
    let r := narrow ((c.wr rs).toInt * (c.wr t).toInt) 0 0 (bit c.vm1 6) 20
    s.complete k 1 { ov := r.2 } (fun c => c.setW d (BitVec.ofInt 20 r.1)))
/-- MULW Wd, Ws, Wt (R229): the exact product in a pair. -/
def execMulw (k : Nat) (d rs t : BitVec 5) (s : State) : Out :=
  s.movePair k 1 d (fun c => BitVec.ofInt 40 ((c.wr rs).toInt * (c.wr t).toInt))

/-! ## Immediates: IMM (R243) -/

/-- ADDI Wd, Ws, k (R243). -/
def execAddi (k : Nat) (d rs : BitVec 5) (imm : Word) (s : State) : Out :=
  s.alu k 2 d (fun c => addFlags c.cst (c.wr rs) imm false)
/-- SUBI Wd, Ws, k (R243). -/
def execSubi (k : Nat) (d rs : BitVec 5) (imm : Word) (s : State) : Out :=
  s.alu k 2 d (fun c => addFlags c.cst (c.wr rs) (~~~ imm) true)
/-- ANDI Wd, Ws, k (R243). -/
def execAndi (k : Nat) (d rs : BitVec 5) (imm : Word) (s : State) : Out := s.alu k 2 d (fun c => logic c (c.wr rs &&& imm))
/-- ORI Wd, Ws, k (R243). -/
def execOri (k : Nat) (d rs : BitVec 5) (imm : Word) (s : State) : Out := s.alu k 2 d (fun c => logic c (c.wr rs ||| imm))
/-- XORI Wd, Ws, k (R243). -/
def execXori (k : Nat) (d rs : BitVec 5) (imm : Word) (s : State) : Out := s.alu k 2 d (fun c => logic c (c.wr rs ^^^ imm))
/-- MOVI Wd, k (R243). -/
def execMovi (k : Nat) (d : BitVec 5) (imm : Word) (s : State) : Out := s.move k 2 d (fun _ => imm)

/-! ## Extended: X (R244, R245) -/

/-- ADDS Wd, Ws, Wt (R245). -/
def execAdds (k : Nat) (d rs t : BitVec 5) (sat : BitVec 2) (s : State) : Out :=
  s.narrowing k d sat (fun c b => narrow ((c.wr rs).toInt + (c.wr t).toInt) 0 0 b 20)
/-- SUBS Wd, Ws, Wt (R245). -/
def execSubs (k : Nat) (d rs t : BitVec 5) (sat : BitVec 2) (s : State) : Out :=
  s.narrowing k d sat (fun c b => narrow ((c.wr rs).toInt - (c.wr t).toInt) 0 0 b 20)
/-- NEG Wd, Ws (R245, R71). -/
def execNeg (k : Nat) (d rs : BitVec 5) (sat : BitVec 2) (s : State) : Out :=
  s.narrowing k d sat (fun c b => negate (c.wr rs).toInt b 20)
/-- ABS Wd, Ws (R245, R71). -/
def execAbs (k : Nat) (d rs : BitVec 5) (sat : BitVec 2) (s : State) : Out :=
  s.narrowing k d sat (fun c b => absolute (c.wr rs).toInt b 20)
/-- SHLS Wd, Ws, Wt (R245, R72). -/
def execShls (k : Nat) (d rs t : BitVec 5) (sat : BitVec 2) (s : State) : Out :=
  s.narrowing k d sat (fun c b => shlS (c.wr rs).toInt (c.wr t).toNat b 20)
/-- SHLI Wd, Ws, C9 (R245). -/
def execShli (k : Nat) (d rs : BitVec 5) (c9 : BitVec 9) (s : State) : Out :=
  s.alu k 2 d (fun c => logic c (shlL (c.wr rs) c9.toNat))
/-- SHRI Wd, Ws, C9 (R245). -/
def execShri (k : Nat) (d rs : BitVec 5) (c9 : BitVec 9) (s : State) : Out :=
  s.alu k 2 d (fun c => logic c (shrL (c.wr rs) c9.toNat))
/-- SHAI Wd, Ws, C9 (R245). -/
def execShai (k : Nat) (d rs : BitVec 5) (c9 : BitVec 9) (s : State) : Out :=
  s.alu k 2 d (fun c => logic c (shrA (c.wr rs) c9.toNat))
/-- SHLSI Wd, Ws, C9 (R245, R72). -/
def execShlsi (k : Nat) (d rs : BitVec 5) (c9 : BitVec 9) (sat : BitVec 2) (s : State) : Out :=
  s.narrowing k d sat (fun c b => shlS (c.wr rs).toInt c9.toNat b 20)
/-- SHAR Wd, Ws, C9 (R245): a rounded right shift. -/
def execShar (k : Nat) (d rs : BitVec 5) (c9 : BitVec 9) (o : Opt) (s : State) : Out :=
  s.rounding k d o (fun c m b => narrow (c.wr rs).toInt c9.toNat m b 20)
/-- MULU Wd, Ws, Wt (R245, R143): the unsigned product narrowed to 20 unsigned bits. -/
def execMulu (k : Nat) (d rs t : BitVec 5) (sat : BitVec 2) (s : State) : Out :=
  s.narrowing k d sat (fun c b => narrowU ((c.wr rs).toNat * (c.wr t).toNat : Nat) 0 0 b 20)
/-- MULQ Wd, Ws, Wt (R245, R68). -/
def execMulq (k : Nat) (d rs t : BitVec 5) (o : Opt) (s : State) : Out :=
  s.rounding k d o (fun c m b => narrow ((c.wr rs).toInt * (c.wr t).toInt) 19 m b 20)
/-- MULWU Wd, Ws, Wt (R245). -/
def execMulwu (k : Nat) (d rs t : BitVec 5) (s : State) : Out :=
  s.movePair k 2 d (fun c => BitVec.ofNat 40 ((c.wr rs).toNat * (c.wr t).toNat))
/-- MSTART Ws, Wt (R230): the product is written to MH and ML later. -/
def execMstart (k : Nat) (rs t : BitVec 5) (s : State) : Out :=
  s.instr k (fun c =>
    let d := c.retire 2
    s.done k { d with mstart := d.mstart ++ [(0, BitVec.ofInt 40 ((c.wr rs).toInt * (c.wr t).toInt))] })
/-- MSTART_PRODUCT_WRITE (R230): the oldest pending product reaches MH and ML. -/
def execMstartProductWrite (k : Nat) (s : State) : Out :=
  if !s.clusterOn k then noUnit
  else
    match (s.core k).mstart with
    | [] => ok s
    | e :: rest =>
      ok (s.onCore k (fun c =>
        { c with mstart := rest, mh := e.2.extractLsb' 20 20, ml := e.2.extractLsb' 0 20 }))

/-- DIV Wd, Ws, Wt (R245, R73). -/
def execDiv (k : Nat) (d rs t : BitVec 5) (sat : BitVec 2) (s : State) : Out :=
  s.divide k d sat true (fun c b => divS (c.wr rs).toInt (c.wr t).toInt b)
/-- DIVU Wd, Ws, Wt (R245, R73). -/
def execDivu (k : Nat) (d rs t : BitVec 5) (s : State) : Out :=
  s.divide k d 0 true (fun c b => divU (c.wr rs).toNat (c.wr t).toNat b)
/-- DIVQ Wd, Ws, Wt (R245, R73): the dividend is sext(Ws) × 2^19. -/
def execDivq (k : Nat) (d rs t : BitVec 5) (sat : BitVec 2) (s : State) : Out :=
  s.divide k d sat true (fun c b => divS ((c.wr rs).toInt * 2 ^ 19) (c.wr t).toInt b)
/-- DIVW Wd, Ws, Wt (R245, R73): the dividend is the pair at Ws. -/
def execDivw (k : Nat) (d rs t : BitVec 5) (sat : BitVec 2) (s : State) : Out :=
  s.divide k d sat (!bit rs 0) (fun c b => divS (c.pair rs).toInt (c.wr t).toInt b)
/-- DIVWU Wd, Ws, Wt (R245, R73). -/
def execDivwu (k : Nat) (d rs t : BitVec 5) (sat : BitVec 2) (s : State) : Out :=
  s.divide k d sat (!bit rs 0) (fun c b => divU (c.pair rs).toNat (c.wr t).toNat b)
/-- DIVISION_COMPLETE (R231, R73, R84): the division in X writes its pair and flags, or its DZ trap is taken. -/
def execDivisionComplete (k : Nat) (s : State) : Out :=
  if !s.clusterOn k then noUnit
  else
    match (s.core k).div with
    | none => ok s
    | some p =>
      let c := s.core k
      let f : Flags := { ov := p.ov, dz := p.dz }
      if p.trap then
        (s.setCore k (c.merge f)).takeExc k { code := 6, lvl := c.cst.pl.home, ret := c.pc, w6 := 8 }
      else
        let c : Core := { c with div := none }
        s.done k ((((c.retire 2).merge f).setW (BitVec.ofNat 5 p.qk) p.q).setW (BitVec.ofNat 5 p.rk) p.r)

/-- MIN Wd, Ws, Wt (R245). -/
def execMin (k : Nat) (d rs t : BitVec 5) (s : State) : Out :=
  s.move k 2 d (fun c => if (c.wr rs).toInt < (c.wr t).toInt then c.wr rs else c.wr t)
/-- MAX Wd, Ws, Wt (R245). -/
def execMax (k : Nat) (d rs t : BitVec 5) (s : State) : Out :=
  s.move k 2 d (fun c => if (c.wr rs).toInt < (c.wr t).toInt then c.wr t else c.wr rs)
/-- MINU Wd, Ws, Wt (R245). -/
def execMinu (k : Nat) (d rs t : BitVec 5) (s : State) : Out :=
  s.move k 2 d (fun c => if (c.wr rs).toNat < (c.wr t).toNat then c.wr rs else c.wr t)
/-- MAXU Wd, Ws, Wt (R245). -/
def execMaxu (k : Nat) (d rs t : BitVec 5) (s : State) : Out :=
  s.move k 2 d (fun c => if (c.wr rs).toNat < (c.wr t).toNat then c.wr t else c.wr rs)

end Sys2Proof.Machine
end

