-- ==== Sys2Proof/Machine/Branch.lean ====
section
/-! DEFINITION. Address-register instructions, branches, jumps and the loops (R210, R226-R228, R249-R251). -/

namespace Sys2Proof.Machine

/-! ## Address registers: AOP (R249) -/

/-- An address register set. -/
def State.aop (s : State) (k : Nat) (a : BitVec 3) (f : Core → Dbl) : Out :=
  s.instr k (fun c => s.done k ((c.retire 2).setA a (f c)))

/-- ADDA Aa, Ab, Wn (R249). -/
def execAdda (k : Nat) (a b : BitVec 3) (n : BitVec 5) (s : State) : Out :=
  s.aop k a (fun c => c.ar b + (c.wr n).signExtend 40)
/-- ADDAI Aa, Ab, k (R249). -/
def execAddai (k : Nat) (a b : BitVec 3) (imm : Word) (s : State) : Out :=
  s.aop k a (fun c => c.ar b + imm.signExtend 40)
/-- LAL Aa, k (R249). -/
def execLal (k : Nat) (a : BitVec 3) (imm : Word) (s : State) : Out := s.aop k a (fun _ => imm.zeroExtend 40)
/-- LAH Aa, k (R249). -/
def execLah (k : Nat) (a : BitVec 3) (imm : Word) (s : State) : Out := s.aop k a (fun c => putHi (c.ar a) imm)
/-- MTAL Aa, Wn (R249). -/
def execMtal (k : Nat) (a : BitVec 3) (n : BitVec 5) (s : State) : Out := s.aop k a (fun c => putLo (c.ar a) (c.wr n))
/-- MTAH Aa, Wn (R249). -/
def execMtah (k : Nat) (a : BitVec 3) (n : BitVec 5) (s : State) : Out := s.aop k a (fun c => putHi (c.ar a) (c.wr n))
/-- MFAL Wn, Aa (R249). -/
def execMfal (k : Nat) (n : BitVec 5) (a : BitVec 3) (s : State) : Out := s.move k 2 n (fun c => loW (c.ar a))
/-- MFAH Wn, Aa (R249). -/
def execMfah (k : Nat) (n : BitVec 5) (a : BitVec 3) (s : State) : Out := s.move k 2 n (fun c => hiW (c.ar a))
/-- MTAM AMa, Wn (R249, R210). -/
def execMtam (k : Nat) (a : BitVec 3) (n : BitVec 5) (s : State) : Out :=
  s.instr k (fun c => s.done k ((c.retire 2).setAm a (c.wr n)))
/-- MFAM Wn, AMa (R249). -/
def execMfam (k : Nat) (n : BitVec 5) (a : BitVec 3) (s : State) : Out := s.move k 2 n (fun c => c.amr a)
/-- UPDA Aa, k (R249, R210). -/
def execUpda (k : Nat) (a : BitVec 3) (imm : Word) (s : State) : Out :=
  s.aop k a (fun c => upd (c.ar a) imm.toInt (c.amr a))
/-- MOVA Aa, Ab (R249). -/
def execMova (k : Nat) (a b : BitVec 3) (s : State) : Out := s.aop k a (fun c => c.ar b)

/-! ## Branches and jumps (R224, R250, R251) -/

/-- A branch whose condition is decided in R. -/
def State.branch (s : State) (k : Nat) (o : Word) (taken : Core → Bool) : Out :=
  s.instr k (fun c => s.done k (if taken c then c.jump 2 (c.pc + o.signExtend 40) else c.retire 2))

/-- BEQ Ws, Wt, target (R250). -/
def execBeq (k : Nat) (rs t : BitVec 5) (o : Word) (s : State) : Out := s.branch k o (fun c => c.wr rs == c.wr t)
/-- BNE (R250). -/
def execBne (k : Nat) (rs t : BitVec 5) (o : Word) (s : State) : Out := s.branch k o (fun c => c.wr rs != c.wr t)
/-- BLT (R250). -/
def execBlt (k : Nat) (rs t : BitVec 5) (o : Word) (s : State) : Out :=
  s.branch k o (fun c => decide ((c.wr rs).toInt < (c.wr t).toInt))
/-- BGE (R250). -/
def execBge (k : Nat) (rs t : BitVec 5) (o : Word) (s : State) : Out :=
  s.branch k o (fun c => decide ((c.wr t).toInt ≤ (c.wr rs).toInt))
/-- BLTU (R250). -/
def execBltu (k : Nat) (rs t : BitVec 5) (o : Word) (s : State) : Out :=
  s.branch k o (fun c => decide ((c.wr rs).toNat < (c.wr t).toNat))
/-- BGEU (R250). -/
def execBgeu (k : Nat) (rs t : BitVec 5) (o : Word) (s : State) : Out :=
  s.branch k o (fun c => decide ((c.wr t).toNat ≤ (c.wr rs).toNat))
/-- BCS (R250). -/
def execBcs (k : Nat) (o : Word) (s : State) : Out := s.branch k o (fun c => c.cst.c)
/-- BCC (R250). -/
def execBcc (k : Nat) (o : Word) (s : State) : Out := s.branch k o (fun c => !c.cst.c)
/-- BMI (R250). -/
def execBmi (k : Nat) (o : Word) (s : State) : Out := s.branch k o (fun c => c.cst.n)
/-- BPL (R250). -/
def execBpl (k : Nat) (o : Word) (s : State) : Out := s.branch k o (fun c => !c.cst.n)
/-- BZS (R250). -/
def execBzs (k : Nat) (o : Word) (s : State) : Out := s.branch k o (fun c => c.cst.z)
/-- BZC (R250). -/
def execBzc (k : Nat) (o : Word) (s : State) : Out := s.branch k o (fun c => !c.cst.z)
/-- B (R250). -/
def execB (k : Nat) (o : Word) (s : State) : Out := s.branch k o (fun _ => true)
/-- J target (R251). -/
def execJ (k : Nat) (o : BitVec 30) (s : State) : Out :=
  s.instr k (fun c => s.done k (c.jump 2 (c.pc + o.signExtend 40)))
/-- JAL target (R251). -/
def execJal (k : Nat) (o : BitVec 30) (s : State) : Out :=
  s.instr k (fun c => s.done k { c.jump 2 (c.pc + o.signExtend 40) with lk := c.pc + 2 })
/-- DBNZ Ws, target (R228). -/
def execDbnz (k : Nat) (rs : BitVec 5) (o : Word) (s : State) : Out :=
  s.instr k (fun c =>
    let v := c.wr rs - 1
    s.done k ((if v != 0 then c.jump 2 (c.pc + o.signExtend 40) else c.retire 2).setW rs v))
/-- RET (R252). -/
def execRet (k : Nat) (s : State) : Out := s.instr k (fun c => s.done k (c.jump 1 c.lk))
/-- JR Aa (R252). -/
def execJr (k : Nat) (a : BitVec 3) (s : State) : Out := s.instr k (fun c => s.done k (c.jump 1 (c.ar a)))
/-- JALR Aa (R252). -/
def execJalr (k : Nat) (a : BitVec 3) (s : State) : Out :=
  s.instr k (fun c => s.done k { c.jump 1 (c.ar a) with lk := c.pc + 1 })

/-! ## REP (R226, R227) -/

/-- A REP of a count: the word that follows is checked, then repeated, or discarded where the count is 0. -/
def State.repeat (s : State) (k len : Nat) (n : Core → Nat) : Out :=
  s.instr k (fun c =>
    if s.repForbidden c (c.pc + BitVec.ofNat 40 len) then s.illegal k
    else s.done k (s.skipZero { c.retire len with rep := some (n c) }))

/-- REPI k (R226, R251). -/
def execRepi (k : Nat) (imm : Word) (s : State) : Out := s.repeat k 2 (fun _ => imm.toNat)
/-- REP Ws (R226, R252). -/
def execRep (k : Nat) (rs : BitVec 5) (s : State) : Out := s.repeat k 1 (fun c => (c.wr rs).toNat)

end Sys2Proof.Machine
end

