-- ==== Sys2Proof/Machine/Float.lean ====
section
/-! DEFINITION. Floating point of F20 and F40 (R74-R80, R85, R86). -/

namespace Sys2Proof.Machine

/-- A floating-point format: exponent and fraction widths (R74). -/
structure Fmt where
  ew : Nat
  fw : Nat

/-- F20 (R74). -/
def f20 : Fmt := { ew := 8, fw := 11 }

/-- F40 (R74). -/
def f40 : Fmt := { ew := 11, fw := 28 }

/-- The bias of a format (R74). -/
def Fmt.bias (f : Fmt) : Nat := 2 ^ (f.ew - 1) - 1

/-- The width of a format. -/
def Fmt.width (f : Fmt) : Nat := 1 + f.ew + f.fw

/-- A value: a NaN, an infinity, or sign, integer significand and power of two. -/
inductive Fp where
  | nan (signalling : Bool)
  | inf (s : Bool)
  | fin (s : Bool) (m : Nat) (e : Int)

/-- The value of an encoding (R74). -/
def Fmt.unpack (f : Fmt) (x : Nat) : Fp :=
  let s := (x / 2 ^ (f.ew + f.fw)) % 2 == 1
  let e := (x / 2 ^ f.fw) % 2 ^ f.ew
  let m := x % 2 ^ f.fw
  let low : Int := 1 - (f.bias : Int) - (f.fw : Int)
  if e = 2 ^ f.ew - 1 then (if m = 0 then .inf s else .nan (m / 2 ^ (f.fw - 1) == 0))
  else if e = 0 then .fin s m low
  else .fin s (2 ^ f.fw + m) (low + (e : Int) - 1)

/-- An operand of an operation: a subnormal reads as a zero of its sign while FTZ = 1 (R78). -/
def Fmt.operand (f : Fmt) (ftz : Bool) (x : Nat) : Fp :=
  match f.unpack x with
  | .fin s m e => if ftz && decide (m < 2 ^ f.fw) then .fin s 0 e else .fin s m e
  | v => v

/-- The sign bit's weight. -/
def Fmt.signBit (f : Fmt) (s : Bool) : Nat := if s then 2 ^ (f.ew + f.fw) else 0

/-- Infinity of a sign. -/
def Fmt.infBits (f : Fmt) (s : Bool) : Nat := f.signBit s + (2 ^ f.ew - 1) * 2 ^ f.fw

/-- The canonical NaN (R75). -/
def Fmt.nanBits (f : Fmt) : Nat := (2 ^ f.ew - 1) * 2 ^ f.fw + 2 ^ (f.fw - 1)

/-- The largest finite value of a sign (R75). -/
def Fmt.maxBits (f : Fmt) (s : Bool) : Nat := f.signBit s + (2 ^ f.ew - 1) * 2 ^ f.fw - 1

/-- Whether a rounding direction of FMODE.RM rounds a magnitude up, from the dropped part beside one half
(R76, R82). -/
def roundsUp (rm : Nat) (s odd : Bool) (rest half : Nat) (sticky : Bool) : Bool :=
  if rest = 0 ∧ sticky = false then false
  else if rm = 0 then decide (rest > half) || (decide (rest = half) && (sticky || odd))
  else if rm = 1 then false
  else if rm = 2 then !s
  else s

/-- A magnitude m·2^e, a little more where sticky, rounded to a multiple of 2^q: the multiple and whether it is
inexact. -/
def roundTo (rm : Nat) (s : Bool) (m : Nat) (e q : Int) (sticky : Bool) : Nat × Bool :=
  if q ≤ e then (m * 2 ^ (e - q).toNat, sticky)
  else
    let sh := (q - e).toNat
    let keep := m / 2 ^ sh
    let rest := m % 2 ^ sh
    (if roundsUp rm s (keep % 2 == 1) rest (2 ^ (sh - 1)) sticky then keep + 1 else keep, sticky || decide (rest ≠ 0))

/-- The correctly rounded result of an exact magnitude (R76, R78, R86), with its flags. Tininess is detected after
rounding: a result is tiny when rounding without a bound on the exponent stays below the smallest normal. -/
def Fmt.round (f : Fmt) (rm : Nat) (ftz : Bool) (s : Bool) (m : Nat) (e : Int) (sticky : Bool) : Nat × Flags :=
  if m = 0 then (f.signBit s, {})
  else
    let p := f.fw + 1
    let n : Int := (Nat.log2 m : Int) + 1
    let qmin : Int := 1 - (f.bias : Int) - (f.fw : Int)
    let qfree := e + n - (p : Int)
    let free := roundTo rm s m e qfree sticky
    let tiny := decide (qfree < qmin ∧ ¬ (qfree = qmin - 1 ∧ free.1 = 2 ^ p))
    let q := if qfree < qmin then qmin else qfree
    let r := roundTo rm s m e q sticky
    let m' := if r.1 = 2 ^ p then 2 ^ f.fw else r.1
    let q' := if r.1 = 2 ^ p then q + 1 else q
    if m' ≥ 2 ^ f.fw ∧ q' + (f.fw : Int) > (f.bias : Int) then
      let toInf := rm == 0 || (rm == 2 && !s) || (rm == 3 && s)
      (if toInf then f.infBits s else f.maxBits s, { ofl := true, nx := true })
    else if m' ≥ 2 ^ f.fw then
      let ef := (q' - qmin + 1).toNat
      (f.signBit s + ef * 2 ^ f.fw + (m' - 2 ^ f.fw), { nx := r.2, ufl := tiny && r.2 })
    else if ftz && decide (m' ≠ 0) then (f.signBit s, { ufl := true, nx := true })
    else if ftz then (f.signBit s, { ufl := true, nx := true })
    else (f.signBit s + m', { nx := r.2, ufl := tiny && r.2 })

/-- An invalid operation: the canonical NaN and NV. -/
def Fmt.invalid (f : Fmt) : Nat × Flags := (f.nanBits, { nv := true })

/-- Whether a value is a signalling NaN. -/
def Fp.signals : Fp → Bool
  | .nan b => b
  | _ => false

/-- Whether a value is a NaN. -/
def Fp.isNan : Fp → Bool
  | .nan _ => true
  | _ => false

/-- The result of an operation with a NaN operand (R77). -/
def Fmt.nanResult (f : Fmt) (a b : Fp) : Nat × Flags := (f.nanBits, { nv := a.signals || b.signals })

/-- The signed integer of a sign and magnitude. -/
def signed (s : Bool) (m : Nat) : Int := if s then -(m : Int) else (m : Int)

/-- Sum of two values (R76). -/
def Fmt.addV (f : Fmt) (rm : Nat) (ftz : Bool) (a b : Fp) : Nat × Flags :=
  match a, b with
  | .nan _, _ => f.nanResult a b
  | _, .nan _ => f.nanResult a b
  | .inf s, .inf t => if s = t then (f.infBits s, {}) else f.invalid
  | .inf s, _ => (f.infBits s, {})
  | _, .inf t => (f.infBits t, {})
  | .fin s m e, .fin t n d =>
    let q := if e ≤ d then e else d
    let x := signed s (m * 2 ^ (e - q).toNat) + signed t (n * 2 ^ (d - q).toNat)
    if x = 0 then
      (f.signBit (if s = t then s else rm == 3), {})
    else f.round rm ftz (decide (x < 0)) x.natAbs q false

/-- The value with its sign flipped. -/
def Fp.neg : Fp → Fp
  | .nan b => .nan b
  | .inf s => .inf (!s)
  | .fin s m e => .fin (!s) m e

/-- Product of two values (R76). -/
def Fmt.mulV (f : Fmt) (rm : Nat) (ftz : Bool) (a b : Fp) : Nat × Flags :=
  match a, b with
  | .nan _, _ => f.nanResult a b
  | _, .nan _ => f.nanResult a b
  | .inf s, .inf t => (f.infBits (s != t), {})
  | .inf s, .fin t n _ => if n = 0 then f.invalid else (f.infBits (s != t), {})
  | .fin s m _, .inf t => if m = 0 then f.invalid else (f.infBits (s != t), {})
  | .fin s m e, .fin t n d => f.round rm ftz (s != t) (m * n) (e + d) false

/-- Quotient of two values (R76). -/
def Fmt.divV (f : Fmt) (rm : Nat) (ftz : Bool) (a b : Fp) : Nat × Flags :=
  match a, b with
  | .nan _, _ => f.nanResult a b
  | _, .nan _ => f.nanResult a b
  | .inf _, .inf _ => f.invalid
  | .inf s, .fin t _ _ => (f.infBits (s != t), {})
  | .fin s _ _, .inf t => (f.signBit (s != t), {})
  | .fin s m e, .fin t n d =>
    if n = 0 then (if m = 0 then f.invalid else (f.infBits (s != t), { fdz := true }))
    else
      let k := f.fw + 4 + (Nat.log2 n + 1)
      f.round rm ftz (s != t) (m * 2 ^ k / n) (e - (k : Int) - d) (decide (m * 2 ^ k % n ≠ 0))

/-- Integer square root, bit by bit from bit i down. -/
def isqrtFrom (x : Nat) : Nat → Nat → Nat
  | 0, r => if (r + 1) * (r + 1) ≤ x then r + 1 else r
  | i + 1, r =>
    let r' := r + 2 ^ (i + 1)
    isqrtFrom x i (if r' * r' ≤ x then r' else r)

/-- Integer square root. -/
def isqrt (x : Nat) : Nat := isqrtFrom x (Nat.log2 x / 2 + 1) 0

/-- Square root (R76). -/
def Fmt.sqrtV (f : Fmt) (rm : Nat) (ftz : Bool) (a : Fp) : Nat × Flags :=
  match a with
  | .nan b => (f.nanBits, { nv := b })
  | .inf s => if s then f.invalid else (f.infBits false, {})
  | .fin s m e =>
    if m = 0 then (f.signBit s, {})
    else if s then f.invalid
    else
      let sh := 2 * (f.fw + 4) + (if e % 2 = 0 then 0 else 1)
      let x := m * 2 ^ sh
      let r := isqrt x
      f.round rm ftz false r ((e - (sh : Int)) / 2) (decide (r * r ≠ x))

/-- The order of two values that are not NaNs; zeros are equal. -/
def Fp.lt (a b : Fp) : Bool :=
  match a, b with
  | .inf s, .inf t => s && !t
  | .inf s, .fin _ _ _ => s
  | .fin _ _ _, .inf t => !t
  | .fin s m e, .fin t n d =>
    let q := if e ≤ d then e else d
    decide (signed s (m * 2 ^ (e - q).toNat) < signed t (n * 2 ^ (d - q).toNat))
  | _, _ => false

/-- Comparison by a condition code of R151 and R254 (R79): the truth value and whether NV is raised. -/
def Fp.cmp (cond : Nat) (a b : Fp) : Bool × Flags :=
  if a.isNan || b.isNan then
    (cond == 1, { nv := if cond ≤ 1 then a.signals || b.signals else true })
  else
    let lt := a.lt b
    let gt := b.lt a
    (match cond with
      | 0 => !lt && !gt
      | 1 => lt || gt
      | 2 => lt
      | 3 => !gt
      | 4 => gt
      | _ => !lt, {})

/-- A value's own encoding in its format, after FTZ has been applied to it (exact). -/
def Fmt.pack (f : Fmt) (v : Fp) : Nat :=
  match v with
  | .nan _ => f.nanBits
  | .inf s => f.infBits s
  | .fin s m e => (f.round 0 false s m e false).1

/-- The sign of a value. -/
def Fp.sign : Fp → Bool
  | .nan _ => false
  | .inf s => s
  | .fin s _ _ => s

/-- Whether a value orders below another, with −0 below +0 (R79). -/
def Fp.below (a b : Fp) : Bool := a.lt b || (!(b.lt a) && a.sign && !b.sign)

/-- minimumNumber and maximumNumber (R79). -/
def Fmt.minmax (f : Fmt) (isMax : Bool) (a b : Fp) : Nat × Flags :=
  let fl : Flags := { nv := a.signals || b.signals }
  if a.isNan && b.isNan then (f.nanBits, fl)
  else if a.isNan then (f.pack b, fl)
  else if b.isNan then (f.pack a, fl)
  else if isMax then (f.pack (if a.below b then b else a), {})
  else (f.pack (if b.below a then b else a), {})

/-- Absolute value and negation (R77): the sign is cleared or flipped, a NaN gives the canonical NaN. -/
def Fmt.signOp (f : Fmt) (neg : Bool) (a : Fp) : Nat × Flags :=
  match a with
  | .nan b => (f.nanBits, { nv := b })
  | v => (f.pack (if neg || v.sign then v.neg else v), {})

/-- Conversion between formats (R80). -/
def Fmt.convert (dst : Fmt) (rm : Nat) (ftz : Bool) (a : Fp) : Nat × Flags :=
  match a with
  | .nan b => (dst.nanBits, { nv := b })
  | .inf s => (dst.infBits s, {})
  | .fin s m e => dst.round rm ftz s m e false

/-- An integer at a fraction position converted to floating point (R80). Zero gives +0. -/
def Fmt.ofFixed (dst : Fmt) (rm : Nat) (ftz : Bool) (x : Int) (fp : Nat) : Nat × Flags :=
  dst.round rm ftz (decide (x < 0)) x.natAbs (-(fp : Int)) false

/-- The range of a conversion to n bits, signed or not. -/
def rangeMin (sgn : Bool) (n : Nat) : Int := if sgn then -((2 : Int) ^ (n - 1)) else 0

/-- The upper end of that range. -/
def rangeMax (sgn : Bool) (n : Nat) : Int := if sgn then (2 : Int) ^ (n - 1) - 1 else (2 : Int) ^ n - 1

/-- Floating point to an n-bit integer or fixed format with a fraction position (R80), always saturating. -/
def Fp.toFixed (v : Fp) (rm : Nat) (sgn : Bool) (n fp : Nat) : Int × Flags :=
  match v with
  | .nan _ => (0, { nv := true })
  | .inf s => (if s then rangeMin sgn n else rangeMax sgn n, { nv := true })
  | .fin s m e =>
    let r := roundTo rm s m (e + (fp : Int)) 0 false
    let x := signed s r.1
    if x < rangeMin sgn n then (rangeMin sgn n, { nv := true })
    else if x > rangeMax sgn n then (rangeMax sgn n, { nv := true })
    else (x, { nx := r.2 })

/-- The rounding direction of FMODE (R82). -/
def rmF (fmode : Word) : Nat := bits fmode 1 0

/-- FMODE.FTZ (R82). -/
def ftzF (fmode : Word) : Bool := bit fmode 12

/-- Two-operand floating-point operations of lanes, pipes and the scalar unit. -/
inductive FOp where
  | add
  | sub
  | mul
  | div
  | min
  | max
  deriving DecidableEq, Repr

/-- A two-operand operation on encodings of one format under an FMODE (R76-R79). -/
def Fmt.op2 (f : Fmt) (o : FOp) (fmode : Word) (x y : Nat) : Nat × Flags :=
  let a := f.operand (ftzF fmode) x
  let b := f.operand (ftzF fmode) y
  match o with
  | .add => f.addV (rmF fmode) (ftzF fmode) a b
  | .sub => f.addV (rmF fmode) (ftzF fmode) a b.neg
  | .mul => f.mulV (rmF fmode) (ftzF fmode) a b
  | .div => f.divV (rmF fmode) (ftzF fmode) a b
  | .min => f.minmax false a b
  | .max => f.minmax true a b

end Sys2Proof.Machine
end

