-- ==== Sys2Proof/Machine/LongVec.lean ====
section
/-! DEFINITION. Long-vector instructions and stream descriptors: their fields (R88-R90, R139-R146), the checks of a group
at issue (R97, R101, R114, R115, R123), its element count and step (R116, R117). -/

namespace Sys2Proof.Machine

/-! ## Descriptors (R88-R90, R97) -/

/-- A descriptor's fields (R88, R89). -/
structure Desc where
  base : Nat
  stride : Int
  len : Nat
  typ : Nat
  nf : Nat
  fsel : Nat
  mode : Nat
  logn : Nat
  idx : Nat
  wlen : Nat
  wpos : Nat
  rsv : Bool

/-- The fields of a descriptor's eight words. -/
def descOf (ws : List Word) : Desc :=
  let w (i : Nat) : Word := ws.getD i 0
  let f := w 4
  { base := (dbl (w 0) (w 1)).toNat, stride := (w 2).toInt, len := (w 3).toNat
    typ := bits f 2 0, nf := bits f 4 3, fsel := bits f 6 5, mode := bits f 8 7, logn := bits f 13 9, idx := bits f 17 14
    wlen := (w 5).toNat, wpos := (w 6).toNat, rsv := decide (bits f 19 18 ≠ 0) || w 7 != 0 }

/-- The words of descriptor t as the core holds them. -/
def Core.descWords (c : Core) (t : Nat) : List Word := (List.range 8).map (fun w => SMap.get 0 c.t (8 * t + w))

/-- Words per element (R90). -/
def typeWords (typ : Nat) : Nat := match typ with | 0 => 1 | 1 => 2 | 2 => 2 | 3 => 1 | _ => 3

/-- Elements per turn, E (R90). -/
def typeE (typ : Nat) : Nat := match typ with | 0 => 8 | 1 => 4 | 2 => 4 | 3 => 8 | _ => 2

/-- The record of a descriptor in words (R92). -/
def Desc.recWords (d : Desc) : Nat := typeWords d.typ * (d.nf + 1)

/-- A table of descriptors by T number. -/
abbrev Descs := Nat → Desc

/-- A descriptor passes the checks of R97. -/
def Desc.ok (ds : Descs) (t : Nat) : Bool :=
  let d := ds t
  let i := ds d.idx
  decide (d.typ ≤ 4) && decide (d.fsel ≤ d.nf)
    && (if d.mode = 1 then decide (d.nf = 0 ∧ 1 ≤ d.wlen ∧ d.wpos < d.wlen) else true)
    && (if d.mode = 2 then decide (1 ≤ d.logn ∧ d.logn ≤ 20) else true)
    && (if d.mode = 3 then decide (d.idx ≠ t ∧ i.typ = 0 ∧ i.nf = 0 ∧ i.mode ≠ 3 ∧ d.len ≤ i.len) else true)

/-! ## Body instructions (R139-R146) -/

/-- An operand of R140. -/
inductive Opd where
  | t (n : Nat)
  | k (n : Nat)
  | ac (n : Nat)
  | w (n : Nat)
  | bad
  deriving DecidableEq, Repr

/-- The operand of a six-bit code (R140). -/
def opdOf (code : Nat) : Opd :=
  if code < 0x10 then .t code
  else if code < 0x14 then .k (code - 0x10)
  else if code < 0x18 then .ac (code - 0x14)
  else if code < 0x20 then .bad
  else .w (code - 0x20)

/-- The operations of the LV-A format (R146). -/
inductive LvOp where
  | add | sub | acc | acr | acl | fadd | fsub
  | mul | mulq | fmul | cmul | cmulj
  | srs | shl | shr | sha | shls | cvt
  | cmp | sel | min | max | abs | neg | conj | swap
  | rmax | rmin | div | divu
  deriving DecidableEq, Repr

/-- The operation of an OP of the LV-A format. -/
def lvOp (op : Nat) : Option LvOp :=
  match op with
  | 0x00 => some .add
  | 0x01 => some .sub
  | 0x02 => some .acc
  | 0x03 => some .acr
  | 0x04 => some .acl
  | 0x05 => some .fadd
  | 0x06 => some .fsub
  | 0x08 => some .mul
  | 0x09 => some .mulq
  | 0x0A => some .fmul
  | 0x0B => some .cmul
  | 0x0C => some .cmulj
  | 0x10 => some .srs
  | 0x11 => some .shl
  | 0x12 => some .shr
  | 0x13 => some .sha
  | 0x14 => some .shls
  | 0x15 => some .cvt
  | 0x18 => some .cmp
  | 0x19 => some .sel
  | 0x1A => some .min
  | 0x1B => some .max
  | 0x1C => some .abs
  | 0x1D => some .neg
  | 0x1E => some .conj
  | 0x1F => some .swap
  | 0x20 => some .rmax
  | 0x21 => some .rmin
  | 0x22 => some .div
  | 0x23 => some .divu
  | _ => none

/-- An instruction of the LV-A format (R139). -/
structure LvA where
  op : LvOp
  d : Opd
  a : Opd
  b : Opd
  bn : Nat
  rdef : Bool
  rm : BitVec 2
  ef : BitVec 2
  sat : BitVec 2
  sh : Nat

/-- A body instruction. -/
inductive LvI where
  | a (x : LvA)
  | dots (kd cb ta tb sg : Nat) (ef sat : BitVec 2)
  | cld (co x : Nat)
  | dot4 (kd : Nat) (int : Bool) (l : List Opd)

/-- A VDOT4 operand of quad q (R145). -/
def dot4Opd (q c : Nat) : Opd := if c = 0 then .w 0 else if c ≤ 4 then .t (4 * q + c - 1) else .k (c - 5)

/-- A body instruction's two words decoded; none for a reserved OP or bit and a SAT of 11 (R146), and for words that are
no long-vector instruction (R114). -/
def lvDecode (w0 w1 : Word) : Option LvI :=
  let op := bits w0 14 9
  if bits w0 19 15 ≠ 31 then none
  else if op = 0x30 then
    (if bit w1 0 || decide (bits w1 2 1 = 3) || decide (2 ≤ bits w1 4 3) then none
     else some (.dots (bits w0 8 7) (bits w0 6 0) (bits w1 19 16) (bits w1 15 12) (bits w1 11 5)
       (w1.extractLsb' 3 2) (w1.extractLsb' 1 2)))
  else if op = 0x31 then
    (if bits w0 8 0 ≠ 0 ∨ bits w1 1 0 ≠ 0 then none else some (.cld (bits w1 19 6) (bits w1 5 2)))
  else if 0x38 ≤ op then
    (if bit w0 0 || decide (bits w1 1 0 ≠ 0) then none
     else
       some (.dot4 (bits w0 8 7) (decide (0x3C ≤ op)) ([bits w0 6 4, bits w0 3 1, bits w1 19 17, bits w1 16 14, bits w1 13 11,
         bits w1 10 8, bits w1 7 5, bits w1 4 2].map (dot4Opd (op % 4)))))
  else
    match lvOp op with
    | none => none
    | some o =>
      if bits w1 5 4 = 3 then none
      else some (.a { op := o, d := opdOf (bits w0 8 3), a := opdOf (bits w1 19 14), b := opdOf (bits w1 13 8)
                      bn := bits w1 13 8, rdef := bit w0 2, rm := w0.extractLsb' 0 2, ef := w1.extractLsb' 6 2
                      sat := w1.extractLsb' 4 2, sh := bits w1 3 0 })

/-- The operation reads its field B as an operand. Any code in the field B of the others is ignored: the spec says so of
VACC, VACR and the unary PRM instructions, and of VACL, VCVT, VRMAX and VRMIN nothing (DESIGN CHOICE log 88). -/
def LvOp.binary (o : LvOp) : Bool :=
  match o with
  | .acc => false
  | .acr => false
  | .acl => false
  | .srs => false
  | .cvt => false
  | .abs => false
  | .neg => false
  | .conj => false
  | .swap => false
  | .rmax => false
  | .rmin => false
  | _ => true

/-- The read streams that an instruction names as operands. -/
def LvI.reads (i : LvI) : List Nat :=
  let t (o : Opd) : List Nat := match o with | .t n => [n] | _ => []
  match i with
  | .a x => t x.a ++ (if x.op.binary then t x.b else [])
  | .dots _ _ ta tb _ _ _ => [ta, tb]
  | .cld _ x => [x]
  | .dot4 _ _ l => l.flatMap t

/-- The write stream that an instruction names. -/
def LvI.writes (i : LvI) : List Nat :=
  match i with
  | .a x => (match x.d with | .t n => [n] | _ => [])
  | .dots _ _ _ _ _ _ _ => []
  | .cld _ _ => []
  | .dot4 _ _ _ => []

/-- The index streams of some streams. -/
def indexOf (ds : Descs) (l : List Nat) : List Nat :=
  (l.filter (fun t => decide ((ds t).mode = 3))).map (fun t => (ds t).idx)

/-- A list with each number once, rising. -/
def uniq (l : List Nat) : List Nat := (List.range 16).filter l.contains

/-! ## Formats of operands and results (R113, R140-R143, R147-R152) -/

/-- A format: floating, complex, width of a part (0: none fixed), fraction position, class (0 Q, 1 signed, 2 unsigned,
3 floating), whether it counts as a word, and whether it is unknown because its descriptor fails R97. -/
structure Form where
  cx : Bool := false
  n : Nat := 20
  fp : Nat := 0
  cls : Nat := 0
  word : Bool := false
  any : Bool := false
  deriving DecidableEq

/-- The fraction position of a class: q for Q, else 0 (R143). -/
def fpOf (ef : BitVec 2) (q : Nat) : Nat := if ef = 0 then q else 0

/-- Floating point. -/
def Form.fl (f : Form) : Bool := f.cls == 3

/-- A stream element as an instruction of class EF reads it (R142). -/
def streamForm (ds : Descs) (t : Nat) (ef : BitVec 2) : Option Form :=
  let d := ds t
  if !Desc.ok ds t then some { cls := ef.toNat, any := true }
  else if ef = 3 then
    (if d.typ = 3 then some { n := 20, cls := 3 } else if d.typ = 1 then some { n := 40, cls := 3 } else none)
  else
    match d.typ with
    | 0 => some { n := 20, fp := fpOf ef 19, cls := ef.toNat, word := true }
    | 1 => some { n := 40, fp := fpOf ef 38, cls := ef.toNat }
    | 2 => some { cx := true, n := 20, fp := fpOf ef 19, cls := ef.toNat }
    | 4 => some { n := 48, fp := fpOf ef 38, cls := ef.toNat }
    | _ => none

/-- What the checks of a body know on the way: link formats, the links derived from VDOTS once it has passed, and the
accumulators written. -/
structure Check where
  links : List (Nat × Form) := []
  derived : Option (List Nat) := none
  accs : List Nat := []

/-- A link's format as an instruction of class EF reads it: written before, derived from VDOTS where that has passed, and
of a floating class exactly where EF is (R114, R142), which the writing instruction's EF fixes. An integer class reads it at position 0 (DEDUCED log 35). -/
def Check.link (c : Check) (k : Nat) (ef : BitVec 2) : Option Form :=
  match c.links.find? (fun p => p.1 == k) with
  | none => none
  | some (_, f) =>
    let held := match c.derived with | none => true | some l => l.contains k
    if held && f.fl == (ef == 3) then
      some { f with fp := if ef = 0 then f.fp else 0, cls := ef.toNat } else none

/-- An operand: its format, or a broadcast register whose format its place decides. -/
inductive OpdForm where
  | f (x : Form)
  | bc (n : Nat)

/-- A source operand of class EF (R140). -/
def Check.src (c : Check) (ds : Descs) (o : Opd) (ef : BitVec 2) : Option OpdForm :=
  match o with
  | .t n => if c.derived.isSome then none else (streamForm ds n ef).map .f
  | .k n => (c.link n ef).map .f
  | .w n => some (.bc n)
  | .ac _ => none
  | .bad => none

/-- A broadcast word of class EF. -/
def bcWord (ef : BitVec 2) : Form :=
  if ef = 3 then { n := 20, cls := 3 } else { n := 20, fp := fpOf ef 19, cls := ef.toNat, word := true }

/-- A broadcast pair in a format of two words; W31 names none (R141). -/
def bcPair (n : Nat) (f : Form) : Option Form := if n = 31 then none else some f

/-- A complex broadcast pair. -/
def cxPair (ef : BitVec 2) : Form := { cx := true, n := 20, fp := fpOf ef 19, cls := ef.toNat }

/-- An operand where a word or real value is read. -/
def asReal (o : OpdForm) (ef : BitVec 2) : Form := match o with | .f x => x | .bc _ => bcWord ef

/-- An operand where a complex value is read. -/
def asComplex (o : OpdForm) (ef : BitVec 2) : Option Form :=
  match o with
  | .f x => if x.cx || x.any then some x else none
  | .bc n => bcPair n (cxPair ef)

/-- A broadcast beside another operand (R141). -/
def beside (o : OpdForm) (other : OpdForm) (ef : BitVec 2) : Option Form :=
  match o, other with
  | .f x, _ => some x
  | .bc n, .f y =>
    if y.any then some (bcWord ef)
    else if y.fl then (if y.n = 40 then bcPair n y else some (bcWord ef))
    else if y.cx then bcPair n (cxPair ef)
    else some (bcWord ef)
  | .bc _, .bc _ => some (bcWord ef)

/-- A broadcast beside the other data operand of VSEL, which copies one format (R141). -/
def besideSel (o : OpdForm) (other : OpdForm) (ef : BitVec 2) : Option Form :=
  match o, other with
  | .bc n, .f y =>
    if y.any || y.fl || y.cx then beside o other ef
    else if y.n = 40 then bcPair n { y with word := false }
    else if y.n = 48 then some { y with word := false }
    else some (bcWord ef)
  | _, _ => beside o other ef

/-- A real operand of the class, fixed or floating. -/
def realIn (f : Form) (ef : BitVec 2) : Bool := f.any || (!f.cx && f.fl == (ef == 3))

/-- A word operand (R147). -/
def wordIn (f : Form) : Bool := f.any || f.word

/-- An instruction's operand and result formats. -/
structure Typed where
  i : LvI
  fa : Form := {}
  fb : Form := {}
  fr : Form := {}

/-- The two operands, beside each other. -/
def Check.two (c : Check) (ds : Descs) (x : LvA) : Option (Form × Form) :=
  match c.src ds x.a x.ef, c.src ds x.b x.ef with
  | some a, some b =>
    (match beside a b x.ef, beside b a x.ef with
      | some f, some g => some (f, g)
      | _, _ => none)
  | _, _ => none

/-- The greater of two widths, or none fixed (0) where either has none. -/
def widest (a b : Nat) : Nat := if a = 0 ∨ b = 0 then 0 else max a b

/-- The targets of VCVT (R150). An EF of 11 names neither signed nor unsigned for an integer target, which is then signed
(DESIGN CHOICE log 88). -/
def cvtTarget (sh : Nat) (ef : BitVec 2) : Option Form :=
  let u := if ef = 2 then 2 else 1
  match sh with
  | 0 => some { n := 20, fp := 19, cls := 0, word := true }
  | 1 => some { n := 40, fp := 38, cls := 0 }
  | 2 => some { n := 48, fp := 38, cls := 0 }
  | 3 => some { n := 20, fp := 0, cls := u, word := true }
  | 4 => some { n := 40, fp := 0, cls := u }
  | 5 => some { n := 20, cls := 3 }
  | 6 => some { n := 40, cls := 3 }
  | _ => none

/-- The conversions that R80 lists. -/
def cvtListed (f : Form) (ef : BitVec 2) (sh : Nat) : Bool :=
  if f.any then true
  else if ef = 3 then (if f.n = 20 then sh != 5 else sh != 6)
  else if ef = 0 then
    (match f.n with
      | 20 => [1, 2, 5, 6].contains sh
      | 40 => [0, 2, 6].contains sh
      | 48 => [0, 1, 6].contains sh
      | _ => false)
  else
    (match f.n with
      | 20 => [4, 5, 6].contains sh
      | 40 => [3, 6].contains sh
      | _ => false)

/-- The classes that an operation allows (R147-R151): bits for Q, I, U, F. -/
def LvOp.classes (o : LvOp) : Nat :=
  match o with
  | .add => 7
  | .sub => 7
  | .acc => 3
  | .acr => 3
  | .acl => 3
  | .fadd => 8
  | .fsub => 8
  | .mul => 7
  | .mulq => 7
  | .fmul => 8
  | .cmul => 3
  | .cmulj => 3
  | .srs => 3
  | .shl => 7
  | .shr => 7
  | .sha => 3
  | .shls => 3
  | .cvt => 15
  | .cmp => 15
  | .sel => 15
  | .min => 15
  | .max => 15
  | .abs => 11
  | .neg => 11
  | .conj => 3
  | .swap => 7
  | .rmax => 3
  | .rmin => 3
  | .div => 3
  | .divu => 4

/-- Operands and result of an LV-A instruction by its entry (R147-R151); none where the entry does not allow them. -/
def Check.formA (c : Check) (ds : Descs) (x : LvA) : Option Typed :=
  let cls := x.ef.toNat
  let t (fa fb fr : Form) : Option Typed := some { i := .a x, fa := fa, fb := fb, fr := fr }
  let one : Option OpdForm := c.src ds x.a x.ef
  if !Nat.testBit x.op.classes cls then none
  else
    match x.op with
    | .add | .sub =>
      (match c.two ds x with
        | some (f, g) =>
          if f.fl || g.fl || (!f.any && !g.any && f.cx != g.cx) then none
          else t f g { cx := f.cx || g.cx, n := 0, fp := max f.fp g.fp, cls := cls, any := f.any || g.any }
        | none => none)
    | .acc =>
      (match one with
        | some o => let f := asReal o x.ef; if 2 ≤ x.sh then none else t f f {}
        | none => none)
    | .acl =>
      (match one with
        | some o => let f := asReal o x.ef; if realIn f x.ef then t f f {} else none
        | none => none)
    | .rmax | .rmin =>
      (match one with
        | some o => let f := asReal o x.ef; if realIn f x.ef && decide (x.sh < 2) then t f f {} else none
        | none => none)
    | .acr =>
      (match x.a with
        | .ac _ => if c.derived.isSome then none else t {} {} { n := 48, fp := fpOf x.ef 38, cls := cls }
        | _ => none)
    | .fadd | .fsub | .fmul =>
      (match c.two ds x with
        | some (f, g) => if !f.any && !g.any && f.n != g.n then none else t f g { n := max f.n g.n, cls := 3, any := f.any || g.any }
        | none => none)
    | .mul =>
      (match c.two ds x with
        | some (f, g) => if wordIn f && wordIn g then t f g { n := 40, fp := fpOf x.ef 38, cls := cls } else none
        | none => none)
    | .mulq | .div | .divu =>
      (match c.two ds x with
        | some (f, g) =>
          if wordIn f && wordIn g then t f g { n := 20, fp := fpOf x.ef 19, cls := cls, word := true } else none
        | none => none)
    | .cmul | .cmulj =>
      (match one, c.src ds x.b x.ef with
        | some a, some b =>
          (match asComplex a x.ef, asComplex b x.ef with
            | some f, some g => t f g { cx := true, n := 0, fp := fpOf x.ef 38, cls := cls }
            | _, _ => none)
        | _, _ => none)
    | .srs =>
      (match one with
        | some o =>
          let f := asReal o x.ef
          let n := if x.sh = 0 then 20 else if x.sh = 1 then 40 else 48
          if 3 ≤ x.sh ∨ 47 < x.bn then none
          else t f f { cx := f.cx, n := n, fp := fpOf x.ef (if n = 20 then 19 else 38), cls := cls, word := n == 20 && !f.cx,
                         any := f.any }
        | none => none)
    | .shl | .shr | .sha | .shls =>
      (match one, c.src ds x.b x.ef with
        | some a, some b =>
          let f := asReal a x.ef
          let g := asReal b x.ef
          if realIn f x.ef && (f.any || f.n != 0) && wordIn g then t f g { f with word := false } else none
        | _, _ => none)
    | .cvt =>
      (match one, cvtTarget x.sh x.ef with
        | some o, some r => let f := asReal o x.ef; if realIn f x.ef && cvtListed f x.ef x.sh then t f f r else none
        | _, _ => none)
    | .cmp =>
      (match c.two ds x with
        | some (f, g) =>
          if realIn f x.ef && realIn g x.ef && decide (x.sh ≤ 5) then
            t f g { n := 20, fp := 0, cls := 1, word := true } else none
        | none => none)
    | .min | .max =>
      (match c.two ds x with
        | some (f, g) =>
          if realIn f x.ef && realIn g x.ef then
            t f g { n := widest f.n g.n, fp := max f.fp g.fp, cls := cls, any := f.any || g.any } else none
        | none => none)
    | .sel =>
      if 4 ≤ x.sh then none
      else
        match c.links.find? (fun p => p.1 == x.sh), one, c.src ds x.b x.ef with
        | some _, some a, some b =>
          let held := match c.derived with | none => true | some l => l.contains x.sh
          (match besideSel a b x.ef, besideSel b a x.ef with
            | some f, some g =>
              if held && (f.any || g.any || (f.cx == g.cx && f.n == g.n && f.fp == g.fp)) then
                t f g { (if f.any then g else f) with word := false, any := f.any || g.any } else none
            | _, _ => none)
        | _, _, _ => none
    | .abs =>
      (match one with
        | some o => let f := asReal o x.ef; if realIn f x.ef then t f f { f with word := false } else none
        | none => none)
    | .neg =>
      (match one with
        | some o => let f := asReal o x.ef; t f f { f with word := false }
        | none => none)
    | .conj | .swap =>
      (match one with
        | some o => (match asComplex o x.ef with | some f => t f f { f with word := false } | none => none)
        | none => none)

/-- A result of an instruction of class EF written to its destination (R113, R124, R140, R143); none where the pairing is
not allowed. A floating-point result in a W, C or A stream needs an EF of 00, 01 or 10 (R142, DEDUCED log 35). -/
def Check.dest (c : Check) (ds : Descs) (d : Opd) (ef : BitVec 2) (fr : Form) (fromLinks : Bool) : Option Check :=
  match d with
  | .t n =>
    let ty := (ds n).typ
    if !Desc.ok ds n || fr.any then some c
    else if fr.cx then (if ty = 2 then some c else none)
    else if fr.fl && ef == 3 && ty != 3 && ty != 1 then none
    else if ty = 2 then (if c.derived.isSome then some c else none)
    else some c
  | .k k =>
    if c.links.any (fun p => p.1 == k) then none
    else some { c with links := (k, fr) :: c.links
                       derived := c.derived.map (fun l => if fromLinks then k :: l else l) }
  | .ac _ => none
  | .w _ => none
  | .bad => none

/-- An operand is a link. -/
def Opd.isK (o : Opd) : Bool := match o with | .k _ => true | _ => false

/-- The accumulator that an instruction writes in D (R147, R151): none where D names another operand. -/
def Check.accDest (c : Check) (d : Opd) : Option Check :=
  match d with
  | .ac m => if c.accs.contains m then none else some { c with accs := m :: c.accs }
  | _ => none

/-- One body instruction checked against R114 and its entry: its formats, and what later instructions know. A second VDOTS
fails the check of R114 that an instruction after VDOTS reads links and broadcasts only, which here goes before the error
that R132 lists (DEDUCED log 92). -/
def Check.instr (c : Check) (ds : Descs) (i : LvI) : Option (Typed × Check) :=
  match i with
  | .a x =>
    (match c.formA ds x with
      | none => none
      | some t =>
        let r :=
          if [LvOp.acc, .acl, .rmax, .rmin].contains x.op then c.accDest x.d
          else c.dest ds x.d x.ef t.fr (x.a.isK || (x.op.binary && x.b.isK) || x.op == .sel)
        r.map (fun c => (t, c)))
  | .dots kd cb ta tb sg ef _ =>
    if c.derived.isSome || decide (2048 < 16 * cb + 16 * (sg + 1)) then none
    else
      match streamForm ds ta ef, streamForm ds tb ef with
      | some f, some g =>
        if (f.any || f.word) && (g.any || g.word) then
          let fr : Form := { n := 48, fp := fpOf ef 38, cls := ef.toNat }
          (c.dest ds (.k kd) ef fr true).map (fun c => ({ i := i, fa := f, fb := g, fr := fr }, { c with derived := some [kd] }))
        else none
      | _, _ => none
  | .cld _ x =>
    (match c.src ds (.t x) 0 with
      | some (.f f) => if f.any || f.word then some ({ i := i, fa := f }, c) else none
      | _ => none)
  | .dot4 kd int l =>
    let ef : BitVec 2 := if int then 1 else 0
    let fr : Form := { n := 48, fp := fpOf ef 38, cls := ef.toNat }
    if l.all (fun o => match c.src ds o ef with | some p => wordIn (asReal p ef) | none => false) then
      (c.dest ds (.k kd) ef fr (l.any Opd.isK)).map (fun c => ({ i := i, fr := fr }, c))
    else none

/-- The instructions of a body checked in order, up to the first that fails. -/
def Check.run (ds : Descs) : Check → List (Option LvI) → List Typed
  | _, [] => []
  | _, none :: _ => []
  | c, some i :: l =>
    match c.instr ds i with
    | none => []
    | some (t, c) => t :: Check.run ds c l

/-- The instruction operates on C, D or F40 elements, as far as its formats are known (R111, R112, R117). -/
def Typed.big (t : Typed) : Bool :=
  let f40 (f : Form) : Bool := f.fl && f.n == 40
  match t.i with
  | .a x => t.fa.cx || t.fb.cx || t.fr.cx || f40 t.fa || f40 t.fb || f40 t.fr
      || (x.op == .cvt && (t.fa.n == 40 || t.fr.n == 40))
  | _ => false

/-- The same of an instruction that fails its checks, by its operation and the streams that it names. -/
def LvI.big (ds : Descs) (i : LvI) : Bool :=
  match i with
  | .a x => [LvOp.cmul, .cmulj, .conj, .swap].contains x.op
      || (i.reads ++ i.writes).any (fun t => Desc.ok ds t && ((ds t).typ == 2 || (x.ef == 3 && (ds t).typ == 1)))
  | _ => false

/-- Some instruction of a body operates on C, D or F40 elements, those after a failing one included (R115, R123). -/
def Check.big (ds : Descs) : Check → List (Option LvI) → Bool
  | _, [] => false
  | c, none :: l => Check.big ds c l
  | c, some i :: l =>
    match c.instr ds i with
    | none => i.big ds || Check.big ds c l
    | some (t, c) => t.big || Check.big ds c l

/-! ## A group's plan (R101, R112, R114-R117) -/

/-- What is fixed of a group at issue. -/
structure Plan where
  ts : List Typed
  reads : List Nat
  index : List Nat
  writes : List Nat
  g : Nat
  dots : Option (Nat × Nat × Nat × Nat × Nat × BitVec 2 × BitVec 2)
  unpred : Bool

/-- Why a group is rejected: cause, body position and stream (R115). -/
structure Reject where
  cause : Nat
  instr : Nat
  stream : Nat := 0

/-- The body's words as instructions. -/
def bodyOf (body : List (Word × Word)) : List (Option LvI) := body.map (fun p => lvDecode p.1 p.2)

/-- Read streams that a body names as operands. -/
def bodyReads (l : List (Option LvI)) : List Nat := uniq (l.flatMap (fun i => (i.map LvI.reads).getD []))
/-- Write streams that a body names. -/
def bodyWrites (l : List (Option LvI)) : List Nat := uniq (l.flatMap (fun i => (i.map LvI.writes).getD []))

/-- Every descriptor that a body names, with the index descriptors that they name (R102). -/
def bodyNames (ds : Descs) (l : List (Option LvI)) : List Nat :=
  let n := bodyReads l ++ bodyWrites l
  uniq (n ++ indexOf ds n)

/-- The element count (R116): c and the value of Wc, and the read streams named as operands. -/
def elementCount (ds : Descs) (l : List (Option LvI)) (c : BitVec 5) (wc : Word) : Nat :=
  let rs := bodyReads l
  if c = 0 ∧ rs = [] then 0
  else rs.foldl (fun n t => min n (ds t).len) (if c = 0 then 1048575 else wc.toNat)

/-- The pipes an instruction takes: ADD, MUL, SRS, PRM, DOT (R111, R112). -/
def LvI.pipes (i : LvI) : List Nat :=
  match i with
  | .dots _ _ _ _ _ _ _ => [4]
  | .cld _ _ => [4]
  | .dot4 _ _ _ => [4]
  | .a x =>
    (match x.op with
      | .add | .sub | .acc | .acr | .acl | .fadd | .fsub => [0]
      | .mul | .mulq | .fmul => [1]
      | .cmul | .cmulj => [1, 1]
      | .srs | .shl | .shr | .sha | .shls | .cvt => [2]
      | _ => [3])

/-- A group needs one pipe twice (R132). -/
def pipesTwice (ts : List Typed) : Bool :=
  let l := ts.flatMap (fun t => t.i.pipes)
  let n (p : Nat) : Nat := (l.filter (fun q => q == p)).length
  decide (2 < n 0 ∨ 2 < n 1 ∨ 1 < n 2 ∨ 1 < n 3 ∨ 1 < n 4)

/-- The checks of an instruction that depend on L and on the whole group (R122, R123). -/
def extraOk (ds : Descs) (len : Nat) (reads : List Nat) (big : Bool) (t : Typed) : Bool :=
  match t.i with
  | .cld co _ => decide (co + len ≤ 16384)
  | .dots _ _ _ _ sg _ _ =>
    decide (len % (8 * (sg + 1)) = 0) && !big && reads.all (fun r => !Desc.ok ds r || typeE (ds r).typ == 8)
  | _ => true

/-- The first body position that fails a check with cause FORM. -/
def formFail (n : Nat) (ts : List Typed) (ok : Typed → Bool) : Option Nat :=
  let bad := (List.zip (List.range ts.length) ts).find? (fun p => !ok p.2)
  match bad with
  | some p => some p.1
  | none => if ts.length < n then some ts.length else none

/-- The first body position whose own streams satisfy a test. -/
def firstPos (l : List (Option LvI)) (p : LvI → Bool) : Nat :=
  ((List.zip (List.range l.length) l).findSome? (fun q =>
    match q.2 with
    | some i => if p i then some q.1 else none
    | none => none)).getD 7

/-- A group of a body, its latched descriptors and its count: its plan, or why it is rejected (R114, R115). -/
def planOf (ds : Descs) (body : List (Word × Word)) (len : Nat) : Except Reject Plan :=
  let l := bodyOf body
  let ts := Check.run ds {} l
  let rs := bodyReads l
  let ws := bodyWrites l
  let big := Check.big ds {} l
  match formFail l.length ts (extraOk ds len rs big) with
  | some p => .error { cause := 1, instr := p }
  | none =>
    let idx := uniq (indexOf ds (rs ++ ws))
    let all := uniq (rs ++ ws ++ idx)
    match all.find? (fun t => !Desc.ok ds t) with
    | some t =>
      .error { cause := 2, stream := t
               instr := firstPos l (fun i => let n := i.reads ++ i.writes; (n ++ indexOf ds n).contains t) }
    | none =>
      let nr (i : LvI) : Nat := (uniq (i.reads ++ indexOf ds (i.reads ++ i.writes))).length
      if 4 < (uniq (rs ++ idx)).length ∨ 2 < ws.length then
        .error { cause := 2, instr := firstPos l (fun i => decide (4 < nr i)) }
      else
        let es := all.map (fun t => typeE (ds t).typ)
        let dots := ts.findSome? (fun t =>
          match t.i with
          | .dots kd cb ta tb sg ef sat => some (kd, cb, ta, tb, sg, ef, sat)
          | _ => none)
        let g := if dots.isSome then 8 else if es.contains 2 then 2 else if big || es.contains 4 then 4 else 8
        .ok { ts := ts, reads := rs, index := idx, writes := ws, g := g, dots := dots
              unpred := pipesTwice ts || all.any (fun t => (ds t).rsv) }

end Sys2Proof.Machine
end

