-- ==== Sys2Proof/Machine/Stream.lean ====
section
/-! DEFINITION. What the streams of a group read and write and what its instructions compute, element by element
(R92-R99, R104, R106, R113, R121-R126, R143, R147-R154). -/

namespace Sys2Proof.Machine

/-! ## Addresses (R92) -/

/-- addr(i) of R92; x is the element's index where the stream is INDEXED. -/
def Desc.addr (d : Desc) (i : Nat) (x : Int) : Int :=
  let r : Int := d.recWords
  let f : Int := d.fsel * typeWords d.typ
  match d.mode with
  | 0 => (d.base : Int) + (i : Int) * d.stride * r + f
  | 1 => (d.base : Int) + ((d.wpos : Int) + (i : Int) * d.stride) % (d.wlen : Int) * r
  | 2 => (d.base : Int) + ((i / 2 ^ d.logn * 2 ^ d.logn + revBits (i % 2 ^ d.logn) d.logn : Nat) : Int) * d.stride * r + f
  | _ => (d.base : Int) + x * d.stride * r + f

/-- The words of an element. -/
def Desc.words (d : Desc) (i : Nat) (x : Int) : List Int :=
  (List.range (typeWords d.typ)).map (fun j => d.addr i x + Int.ofNat j)

/-- The lowest and highest record of some elements' words, for the spans of R108; none where the span is the whole
address space. -/
def Desc.span (d : Desc) : Option (Int × Int) :=
  let w : Int := (typeWords d.typ : Int) - 1
  let between (l : List Int) : Int × Int := (l.foldl min (l.headD 0), l.foldl max (l.headD 0) + w)
  match d.mode with
  | 0 => some (between [d.addr 0 0, d.addr (d.len - 1) 0])
  | 1 => some ((d.base : Int), (d.base : Int) + d.wlen * d.recWords - 1)
  | 2 =>
    let n := ((d.len - 1) / 2 ^ d.logn + 1) * 2 ^ d.logn
    let f : Int := d.fsel * typeWords d.typ
    some (between [(d.base : Int) + f, (d.base : Int) + ((n - 1 : Nat) : Int) * d.stride * d.recWords + f])
  | _ => none

/-- Two streams' spans are disjoint (R108). -/
def disjoint (a b : Desc) : Bool :=
  if a.len = 0 ∨ b.len = 0 then true
  else
    match a.span, b.span with
    | some (p, q), some (u, v) => decide (q < u ∨ v < p)
    | _, _ => false

/-! ## Groups -/

/-- The descriptors of a group's latched set. -/
def Group.ds (g : Group) : Descs :=
  fun t => descOf ((g.descs.find? (fun p => p.1 == t)).map (fun p => p.2) |>.getD [])

/-- A group's plan, as its latched set and body give it. -/
def Group.plan (g : Group) : Except Reject Plan := planOf g.ds g.body g.len

/-- The plan of a group that has passed its checks. -/
def Group.planD (g : Group) : Plan :=
  match g.plan with
  | .ok p => p
  | .error _ => { ts := [], reads := [], index := [], writes := [], g := 8, dots := none, unpred := false }

/-- Elements of VPROG per commit: SEG ÷ 2 of a stationary group, 1 of any other (R124). -/
def Plan.unit (p : Plan) : Nat := match p.dots with | some (_, _, _, _, sg, _, _) => 8 * (sg + 1) | none => 1

/-- The context whose groups a cluster runs: the outgoing one until its groups have stopped (R199). -/
def Core.groupCtx (c : Core) : Nat := match c.out with | some o => if o.live then o.ctx else c.ctx | none => c.ctx

/-! ## Words of streams (R104) -/

/-- The cause codes of R165 for words. -/
def busCause (e : BusErr) : Nat :=
  match e with
  | .poison => 6
  | .window => 4
  | .unmapped => 3
  | .access => 3
  | .atomic => 3
  | .uncorr => 5
  | .refused => 5

/-- Checks 1 and 2 of R104 of one word. -/
def State.streamCheck (s : State) (ctx : Nat) (atM : Bool) (need : Need) (a : Int) : Option Nat :=
  if a < 0 ∨ !s.isRegion a.toNat then some 3
  else if !atM && !s.permits ctx need a.toNat then some 4
  else none

/-- The words of an element that a group reads: a wait, the first failing word's cause and address, or the words. Words
that pass their checks are read even where another fails, and their errors logged. -/
inductive ElRead where
  | hold (s : State)
  | bad (s : State) (cause : Nat) (a : Int)
  | got (s : State) (ws : List Word)

/-- The words of an element read by the stream engine of cluster k. -/
def State.readWordsOf (s : State) (k ctx : Nat) (atM : Bool) : List Int → ElRead
  | [] => .got s []
  | a :: l =>
    let here : ElRead :=
      match s.streamCheck ctx atM .r a with
      | some c => .bad s c a
      | none =>
        match s.gate (0, k) a.toNat (s.locOf a.toNat) with
        | .wait s => .hold s
        | .refuse s => .bad s 5 a
        | .go s =>
          match s.readLoc (0, k) a.toNat (s.locOf a.toNat) false with
          | (s, .ok v) => .got s [v]
          | (s, .bad e) => .bad s (busCause e) a
    match here with
    | .hold s => .hold s
    | .bad s c a =>
      (match State.readWordsOf s k ctx atM l with
        | .hold s => .hold s
        | .bad s _ _ => .bad s c a
        | .got s _ => .bad s c a)
    | .got s v =>
      match State.readWordsOf s k ctx atM l with
      | .hold s => .hold s
      | .bad s c a => .bad s c a
      | .got s vs => .got s (v ++ vs)

/-! ## Reading ahead (R98, R100, R106, R120) -/

/-- What the reads of one element gave: the words by stream, the index that each write stream's element has, the stream
fault that R106 puts first, and the addresses read. -/
structure ElIn where
  vals : List (Nat × List Word) := []
  index : List (Nat × Nat × Word) := []
  fault : Option (Nat × Nat × Int) := none
  addrs : List Nat := []

/-- The body position of VDOTS. -/
def dotsPos (p : Plan) : Nat :=
  (((List.zip (List.range p.ts.length) p.ts).find? (fun q => match q.2.i with | .dots _ _ _ _ _ _ _ => true | _ => false)).map
    (fun q => q.1)).getD 0

/-- The write streams of a stationary group that advance on its outputs: those that an instruction after VDOTS writes
(R124). -/
def Plan.outWrites (p : Plan) : List Nat :=
  if p.dots.isNone then [] else uniq ((p.ts.drop (dotsPos p + 1)).flatMap (fun t => t.i.writes))

/-- The element of write stream w that input i of a group stands at (R124). -/
def Group.outAt (g : Group) (p : Plan) (w i : Nat) : Nat :=
  if p.outWrites.contains w then (let n := 8 * (i / g.unit); if (g.ds w).typ = 2 then n / 2 else n) else i

/-- What a read position is used for: as an operand or its index, and as the index of some write streams. -/
def Group.uses (g : Group) (p : Plan) (t : Nat) : Bool × List Nat :=
  (p.reads.contains t || (indexOf g.ds p.reads).contains t,
   p.writes.filter (fun w => decide ((g.ds w).mode = 3 ∧ (g.ds w).idx = t)))

/-- The lowest element of a read position that a group at input i still uses. -/
def Group.need (g : Group) (p : Plan) (t i : Nat) : Nat :=
  let u := g.uses p t
  let l := (if u.1 then [i] else []) ++ u.2.map (fun w => g.outAt p w i)
  l.foldl min (l.headD 0)

/-- The element count of a read position: no access at or beyond its T.LEN or that no element of the group uses (R100). -/
def Group.limit (g : Group) (p : Plan) (t : Nat) : Nat :=
  let u := g.uses p t
  min (g.ds t).len ((u.2.map (fun w => min (g.ds w).len (g.outAt p w g.len))).foldl max (if u.1 then g.len else 0))

/-- The next element that a read position presents. -/
def Group.next (g : Group) (p : Plan) (t : Nat) : Nat := g.need p t g.start + SMap.get 0 g.shown t

/-- What a read position holds of element i. -/
def Group.el (g : Group) (t i : Nat) : Option ReadEl := g.ahead.find? (fun e => e.t == t && e.i == i)

/-- Elements of stream t from i on read; one whose index could not be read is not accessed. None where a region must wake
first. -/
def State.readEls (s : State) (k : Nat) (g : Group) (t i : Nat) : Nat → State × Option (List ReadEl)
  | 0 => (s, some [])
  | n + 1 =>
    let d := g.ds t
    let x : Option Int :=
      if d.mode = 3 then (g.el d.idx i).bind (fun e => if e.bad.isSome then none else some (e.words.headD 0).toInt) else some 0
    let here : State × Option ReadEl :=
      match x with
      | none => (s, some { t := t, i := i })
      | some x =>
        let l := d.words i x
        match s.readWordsOf k (s.core k).groupCtx g.atM l with
        | .hold s => (s, none)
        | .bad s c a => (s, some { t := t, i := i, bad := some (c, a), addrs := l.map Int.toNat })
        | .got s ws => (s, some { t := t, i := i, words := ws, addrs := l.map Int.toNat })
    match here with
    | (s, none) => (s, none)
    | (s, some e) =>
      match State.readEls s k g t (i + 1) n with
      | (s, none) => (s, none)
      | (s, some l) => (s, some (e :: l))

/-- The turn of a read position (R100): the outstanding elements of its aligned E are presented, while it holds at most
320 words (R120) and their indices have been read. -/
def State.turn (s : State) (k : Nat) (g : Group) (p : Plan) (t : Nat) : State × Group :=
  let d := g.ds t
  let i := g.next p t
  let n := min ((i / typeE d.typ + 1) * typeE d.typ) (g.limit p t) - i
  let held := (g.ahead.filter (fun e => e.t == t)).length * typeWords d.typ
  let ready := d.mode != 3 || (List.range n).all (fun j => (g.el d.idx (i + j)).isSome)
  if n = 0 ∨ 320 < held + n * typeWords d.typ ∨ ready = false then (s, g)
  else
    match s.readEls k g t i n with
    | (s, none) => (s, g)
    | (s, some l) => (s, { g with ahead := g.ahead ++ l, shown := SMap.upd 0 g.shown t (· + n) })

/-- The turn of every read position of a group, index streams first. -/
def State.turns (s : State) (k : Nat) (g : Group) (p : Plan) : List Nat → State × Group
  | [] => (s, g)
  | t :: l => let r := s.turn k g p t; State.turns r.1 k r.2 p l

/-- The read positions of a group, index streams first. -/
def Plan.positions (p : Plan) : List Nat := p.index ++ p.reads.filter (fun t => !p.index.contains t)

/-- Every read position of a group has presented its last element. -/
def Group.presented (g : Group) (p : Plan) : Bool := p.positions.all (fun t => decide (g.limit p t ≤ g.next p t))

/-- The index of an INDEXED stream at an element, as it was read. -/
def ElIn.indexAt (e : ElIn) (t i : Nat) : Option Word :=
  (e.index.find? (fun p => p.1 == t && p.2.1 == i)).map (fun p => p.2.2)

/-- Index streams at some elements, as their positions hold them; none where one has not arrived. -/
def Group.indexIn (g : Group) : List (Nat × Nat) → ElIn → Option ElIn
  | [], e => some e
  | (t, i) :: l, e =>
    match g.el t i with
    | none => none
    | some r =>
      Group.indexIn g l (match r.bad with
        | some b => { e with fault := e.fault.or (some (t, b)) }
        | none => { e with index := (t, i, r.words.headD 0) :: e.index, addrs := r.addrs ++ e.addrs })

/-- Operand streams at element i, as their positions hold them. -/
def Group.readIn (g : Group) (i : Nat) : List Nat → ElIn → Option ElIn
  | [], e => some e
  | t :: l, e =>
    match g.el t i with
    | none => none
    | some r =>
      Group.readIn g i l (match r.bad with
        | some b => { e with fault := e.fault.or (some (t, b)) }
        | none => { e with vals := (t, r.words) :: e.vals, addrs := r.addrs ++ e.addrs })

/-- The reads of an element: operand streams at element i, and the indices of the write streams at the elements that they
are to write; index streams come first, then streams of lower T number (R98, R106). None where a word has not arrived. -/
def Group.elIn (g : Group) (reads : List Nat) (i : Nat) (ws : List (Nat × Nat)) : Option ElIn :=
  let rd := (indexOf g.ds reads).map (fun t => (t, i))
  let wr := (ws.filter (fun p => decide ((g.ds p.1).mode = 3 ∧ p.2 < (g.ds p.1).len))).map (fun p => ((g.ds p.1).idx, p.2))
  let all := (rd ++ wr).eraseDups
  let sorted := (List.range 16).flatMap (fun t => all.filter (fun p => p.1 == t))
  (g.indexIn sorted {}).bind (g.readIn i reads)

/-- A group at input i: what its positions hold of elements before it is consumed. -/
def Group.moveTo (g : Group) (p : Plan) (i : Nat) : Group :=
  { g with pos := i, ahead := g.ahead.filter (fun e => decide (g.need p e.t i ≤ e.i)) }

/-! ## Values -/

/-- A value of the language: the parts of a fixed-point value, or the encoding of a floating-point one. -/
abbrev Val := List Int

/-- A number of n bits as a class reads it; n = 0 for none fixed. -/
def clsRead (n cls : Nat) (x : Int) : Int := if n = 0 then x else if cls = 2 then wrapU x n else wrapS x n

/-- What an element's instructions read. -/
structure ElEnv where
  i : Nat
  g : Nat
  vals : List (Nat × List Word)
  bcast : List (List Word)
  acs : SMap (BitVec 48)
  vmode : Word
  fmode : Word

/-- Words of a stream element or a broadcast as a format reads them, with the OV of a spilled accumulator (R62). -/
def readForm (f : Form) (ws : List Word) (sat : Bool) : Val × Bool :=
  let w (j : Nat) : Word := ws.getD j 0
  if f.fl then ([if f.n = 40 then ((dbl (w 0) (w 1)).toNat : Int) else ((w 0).toNat : Int)], false)
  else if f.cx then ([clsRead 20 f.cls (w 0).toNat, clsRead 20 f.cls (w 1).toNat], false)
  else if f.n = 40 then ([clsRead 40 f.cls (dbl (w 0) (w 1)).toNat], false)
  else if f.n = 48 then
    let r := narrow (w 2 ++ (dbl (w 0) (w 1)) : BitVec 60).toInt 0 0 sat 48
    ([clsRead 48 f.cls r.1], r.2)
  else ([clsRead 20 f.cls (w 0).toNat], false)

/-- An operand's value. which is 0 for A and 1 for B; pos is the body position. -/
def ElEnv.opd (e : ElEnv) (links : List (Nat × Val)) (pos which : Nat) (o : Opd) (f : Form) (sat : Bool) : Val × Bool :=
  match o with
  | .t t => readForm f (((e.vals.find? (fun p => p.1 == t)).map (fun p => p.2)).getD []) sat
  | .k k =>
    let v := ((links.find? (fun p => p.1 == k)).map (fun p => p.2)).getD []
    (if f.fl then v else v.map (clsRead f.n f.cls), false)
  | .w n =>
    let ws := if n = 0 then [] else ((e.bcast.getD pos []).drop (2 * which))
    if f.n = 48 && !f.fl then ([clsRead 48 f.cls (ws.getD 0 0).toInt], false) else readForm f ws sat
  | .ac _ => ([], false)
  | .bad => ([], false)

/-- A value moved from one fraction position to another (R80). -/
def alignTo (x : Int) (fp dst : Nat) : Int := if fp ≤ dst then x * 2 ^ (dst - fp) else x / 2 ^ (fp - dst)

/-- The part of a value. -/
def part (v : Val) (j : Nat) : Int := v.getD j 0

/-- Results part by part with OV. -/
def ovParts (l : List (Int × Bool)) : Val × Flags := (l.map (fun p => p.1), { ov := l.any (fun p => p.2) })

/-- One floating-point result. -/
def fpVal (r : Nat × Flags) : Val × Flags := ([(r.1 : Int)], r.2)

/-- The format of a floating-point Form. -/
def Form.fmt (f : Form) : Fmt := if f.n = 40 then f40 else f20

/-- A shift of R72 on n bits: 0 left, 1 right, 2 arithmetic, 3 saturating left. -/
def shiftOp (o : LvOp) (x : Int) (c n cls : Nat) (sat : Bool) : Int × Bool :=
  let b := BitVec.ofInt n x
  let c' := min c n
  match o with
  | .shl => (clsRead n cls (shlL b c').toNat, false)
  | .shr => (clsRead n cls (shrL b c').toNat, false)
  | .sha => ((shrA b c').toInt, false)
  | _ => shlS x c sat n

/-- The conversion of VCVT (R80, R150). -/
def convertVal (x : LvA) (t : Typed) (rm : BitVec 2) (sat : Bool) (fmode : Word) (v : Int) : Val × Flags :=
  let r := t.fr
  if t.fa.fl then
    let a := t.fa.fmt.operand (ftzF fmode) v.toNat
    if r.fl then fpVal (r.fmt.convert (rmF fmode) (ftzF fmode) a)
    else
      let q := a.toFixed (if x.rdef then rmF fmode else 1) true r.n r.fp
      ([q.1], q.2)
  else if r.fl then fpVal (r.fmt.ofFixed (rmF fmode) (ftzF fmode) v t.fa.fp)
  else
    let y := if r.fp ≤ t.fa.fp then v else v * 2 ^ (r.fp - t.fa.fp)
    let sh := t.fa.fp - r.fp
    ovParts [if r.cls = 2 then narrowU y sh rm sat r.n else narrow y sh rm sat r.n]

/-- The result of an LV-A instruction on its operands a and b (R147-R151): VMIN and VMAX take an F20 operand beside an F40
one at its exact F40 value (R80). A value that no width fixes, as a link of VADD, VSUB, VCMUL or VCMULJ holds one, has no
most negative value: VNEG, VABS and VCONJ give it exactly and set no OV (DEDUCED log 92). -/
def opA (x : LvA) (t : Typed) (vmode fmode : Word) (mask : Val) (a b : Val) : Val × Flags :=
  let sat := (satOf x.sat vmode).getD false
  let rm := rmOf x.rdef x.rm vmode
  let n := t.fa.n
  let a0 := part a 0
  let b0 := part b 0
  let fp2 (o : FOp) : Val × Flags := fpVal (t.fa.fmt.op2 o fmode a0.toNat b0.toNat)
  let al (v : Val) (f : Form) : Val := v.map (fun y => alignTo y f.fp t.fr.fp)
  let fpa : Fp := t.fa.fmt.operand (ftzF fmode) a0.toNat
  let widen (f : Form) (y : Nat) : Nat × Flags :=
    if f.n < max t.fa.n t.fb.n then f40.convert (rmF fmode) (ftzF fmode) (f20.operand (ftzF fmode) y) else (y, {})
  let wide (o : FOp) : Val × Flags :=
    let u := widen t.fa a0.toNat
    let v := widen t.fb b0.toNat
    let r := (if t.fa.n = 40 ∨ t.fb.n = 40 then f40 else f20).op2 o fmode u.1 v.1
    fpVal (r.1, (u.2.or v.2).or r.2)
  match x.op with
  | .add => (List.zipWith (· + ·) (al a t.fa) (al b t.fb), {})
  | .sub => (List.zipWith (· - ·) (al a t.fa) (al b t.fb), {})
  | .fadd => fp2 .add
  | .fsub => fp2 .sub
  | .fmul => fp2 .mul
  | .mul => ([a0 * b0], {})
  | .mulq =>
    let sh := if x.ef = 0 then 19 else 0
    ovParts [if x.ef = 2 then narrowU (a0 * b0) sh rm sat 20 else narrow (a0 * b0) sh rm sat 20]
  | .cmul => ([a0 * b0 - part a 1 * part b 1, a0 * part b 1 + part a 1 * b0], {})
  | .cmulj => ([a0 * b0 + part a 1 * part b 1, part a 1 * b0 - a0 * part b 1], {})
  | .srs => ovParts (a.map (fun y => narrow y x.bn rm sat t.fr.n))
  | .shl | .shr | .sha | .shls => ovParts [shiftOp x.op a0 (b0 % 2 ^ 20).toNat n t.fa.cls sat]
  | .cvt => convertVal x t rm sat fmode a0
  | .cmp =>
    if t.fa.fl then
      let r := Fp.cmp x.sh fpa (t.fb.fmt.operand (ftzF fmode) b0.toNat)
      ([(b2n r.1 : Int)], r.2)
    else
      let f := max t.fa.fp t.fb.fp
      let u := alignTo a0 t.fa.fp f
      let v := alignTo b0 t.fb.fp f
      ([(b2n (match x.sh with
          | 0 => decide (u = v)
          | 1 => decide (u ≠ v)
          | 2 => decide (u < v)
          | 3 => decide (u ≤ v)
          | 4 => decide (v < u)
          | _ => decide (v ≤ u)) : Int)], {})
  | .sel => (if mask.any (fun y => y != 0) then a else b, {})
  | .min =>
    if t.fa.fl then wide .min else
      let u := alignTo a0 t.fa.fp t.fr.fp
      let v := alignTo b0 t.fb.fp t.fr.fp
      ([if u < v then u else v], {})
  | .max =>
    if t.fa.fl then wide .max else
      let u := alignTo a0 t.fa.fp t.fr.fp
      let v := alignTo b0 t.fb.fp t.fr.fp
      ([if u < v then v else u], {})
  | .abs =>
    if t.fa.fl then fpVal (t.fa.fmt.signOp false fpa)
    else if n = 0 then ([(a0.natAbs : Int)], {}) else ovParts [absolute a0 sat n]
  | .neg =>
    if t.fa.fl then fpVal (t.fa.fmt.signOp true fpa)
    else if n = 0 then (a.map (fun y => -y), {}) else ovParts (a.map (fun y => negate y sat n))
  | .conj =>
    if n = 0 then ([a0, -(part a 1)], {})
    else let r := negate (part a 1) sat n; ([a0, r.1], { ov := r.2 })
  | .swap => ([part a 1, a0], {})
  | .div => let r := divS (if x.ef = 0 then a0 * 2 ^ 19 else a0) b0 sat
            ([r.q.toInt], { ov := r.ov, dz := r.dz })
  | .divu => let r := divU a0.toNat b0.toNat sat
             ([(r.q.toNat : Int)], { ov := r.ov, dz := r.dz })
  | .acc | .acr | .acl | .rmax | .rmin => ([], {})

/-- A floating-point mask element selects unless it is a zero of either sign (R151). -/
def maskVal (f : Form) (v : Val) : Val := if f.fl then v.map (fun y => y % 2 ^ (f.n - 1)) else v

/-! ## Results written to streams (R62, R113, R143) -/

/-- A value's words in a stream of a type, with flags. -/
def toStream (typ : Nat) (t : Typed) (rm : BitVec 2) (sat : Bool) (fmode : Word) (sh : Nat) (v : Val) : List Word × Flags :=
  let fr := t.fr
  let two (x : Nat) : List Word := [BitVec.ofNat 20 x, BitVec.ofNat 20 (x / 2 ^ 20)]
  if fr.fl && typ != 1 && typ != 3 then
    let n := if typ = 4 then 48 else 20
    let r := (fr.fmt.operand (ftzF fmode) (part v 0).toNat).toFixed (rmF fmode) (t.fa.cls != 2) n
      (if t.fa.cls = 0 then (if n = 20 then 19 else 38) else 0)
    (if n = 20 then [BitVec.ofInt 20 r.1]
     else
       let b := (BitVec.ofInt 48 r.1).signExtend 60
       [b.extractLsb' 0 20, b.extractLsb' 20 20, b.extractLsb' 40 20], r.2)
  else if fr.fl then
    let x := (part v 0).toNat
    let dst := if typ = 1 then f40 else f20
    let r : Nat × Flags :=
      if (fr.n == 40) == (typ == 1) then (x, {})
      else dst.convert (rmF fmode) (ftzF fmode) (fr.fmt.operand (ftzF fmode) x)
    (if typ = 1 then two r.1 else [BitVec.ofNat 20 r.1], r.2)
  else if typ = 3 then
    let r := f20.ofFixed (rmF fmode) (ftzF fmode) (part v 0) fr.fp
    ([BitVec.ofNat 20 r.1], r.2)
  else
    let n := if typ = 1 then 40 else if typ = 4 then 48 else 20
    let dfp := if fr.cls = 0 then (if n = 20 then 19 else 38) else 0
    let q (x : Int) : Int × Bool :=
      let d : Int := (fr.fp : Int) - dfp + sh
      let y := if d < 0 then x * 2 ^ (-d).toNat else x
      if fr.cls = 2 then narrowU y d.toNat rm sat n else narrow y d.toNat rm sat n
    let r := ovParts (v.map q)
    let ws : List Word :=
      if n = 40 then two (BitVec.ofInt 40 (part r.1 0)).toNat
      else if n = 48 then
        let b := (BitVec.ofInt 48 (part r.1 0)).signExtend 60
        [b.extractLsb' 0 20, b.extractLsb' 20 20, b.extractLsb' 40 20]
      else r.1.map (BitVec.ofInt 20)
    (ws, r.2)

/-- The result's shift when it is written (R149-R151 take SH as a parameter). -/
def LvA.writeShift (x : LvA) : Nat :=
  match x.op with
  | .srs => 0
  | .cvt => 0
  | .cmp => 0
  | .sel => 0
  | _ => x.sh

/-! ## One element through the body -/

/-- What an element has done so far: links, writes by stream, element and first word, updates, flags, its trap. -/
structure ElSt where
  links : List (Nat × Val) := []
  writes : List (Nat × Nat × Nat × List Word × Nat) := []
  zset : List (Nat × BitVec 48) := []
  accs : List (Nat × AccOp) := []
  coefs : List (Nat × Word × Nat) := []
  flags : Flags := {}
  trap : Option (Nat × Nat) := none

/-- A result put where its instruction sends it: pairs is set after VDOTS, where real results fill C elements in pairs
(R124). -/
def ElSt.put (st : ElSt) (ds : Descs) (e : ElEnv) (pairs : Bool) (pos : Nat) (d : Opd) (t : Typed) (rm : BitVec 2) (sat : Bool)
    (sh : Nat) (v : Val) : ElSt :=
  match d with
  | .k k => { st with links := (k, v) :: st.links }
  | .t n =>
    let typ := (ds n).typ
    let half := pairs && typ == 2 && !t.fr.cx
    let el := if half then e.i / 2 else e.i
    if (ds n).len ≤ el then st
    else
      let r := toStream typ t rm sat e.fmode sh v
      { st with writes := st.writes ++ [(n, el, if half then e.i % 2 else 0, r.1, pos)], flags := st.flags.or r.2 }
  | _ => st

/-- An accumulator instruction on one element (R126, R147, R151). An operand of VRMAX or VRMIN that is wider than A48, which
a link can hold, is narrowed to it by S as VACL narrows, and OV set (DESIGN CHOICE log 88). -/
def ElSt.accum (st : ElSt) (e : ElEnv) (x : LvA) (t : Typed) (m : Nat) (v : Val) : ElSt :=
  let sat := (satOf x.sat e.vmode).getD false
  let al (y : Int) : Int := alignTo y t.fa.fp (fpOf x.ef 38)
  let lane := if x.op = .acl then e.i % 8 else 8 / e.g * (e.i % e.g)
  let nar (y : Int) : Int × Bool := narrow (al y) 0 0 sat 48
  let z : BitVec 48 := if x.op = .acc then 0 else if x.op = .rmax then 0x800000000000#48 else 0x7FFFFFFFFFFF#48
  let clear := x.op != .acl && bit (BitVec.ofNat 4 x.sh) 0 && e.i == 0
  let ops : List (Nat × AccOp × Bool) :=
    (List.zip (List.range v.length) v).map (fun p =>
      match x.op with
      | .acc => (8 * m + lane + p.1, AccOp.add (al p.2) sat, false)
      | .rmax => (8 * m + lane + p.1, AccOp.max (nar p.2).1, (nar p.2).2)
      | .rmin => (8 * m + lane + p.1, AccOp.min (nar p.2).1, (nar p.2).2)
      | _ => (8 * m + lane + p.1, AccOp.put (nar p.2).1, (nar p.2).2))
  { st with
    zset := if clear then st.zset ++ (List.range 8).map (fun l => (8 * m + l, z)) else st.zset
    accs := st.accs ++ ops.map (fun o => (o.1, o.2.1))
    flags := st.flags.or { ov := ops.any (fun o => o.2.2) } }

/-- The flags that an instruction raised that trap, if any. -/
def ElSt.trapped (st : ElSt) (e : ElEnv) (pos : Nat) (f : Flags) : ElSt :=
  let x := trapFlags f e.vmode e.fmode
  { st with flags := st.flags.or f, trap := if x = 0 then st.trap else st.trap.or (some (pos, x)) }

/-- The sum of the products of neighbouring pairs (R121). -/
def prodSum : List Int → Int
  | x :: y :: l => x * y + prodSum l
  | _ => 0

/-- One instruction on one element. -/
def ElSt.instr (st : ElSt) (ds : Descs) (e : ElEnv) (pairs : Bool) (links : List (Nat × Form)) (pos : Nat) (t : Typed) : ElSt :=
  match t.i with
  | .a x =>
    let sat := (satOf x.sat e.vmode).getD false
    let rm := rmOf x.rdef x.rm e.vmode
    let a := e.opd st.links pos 0 x.a t.fa sat
    let b := if x.op.binary then e.opd st.links pos 1 x.b t.fb sat else ([], false)
    let st := { st with flags := st.flags.or { ov := a.2 || b.2 } }
    (match x.op, x.d with
      | .acc, .ac m => st.accum e x t m a.1
      | .acl, .ac m => st.accum e x t m a.1
      | .rmax, .ac m => st.accum e x t m a.1
      | .rmin, .ac m => st.accum e x t m a.1
      | .acr, d =>
        let m := match x.a with | .ac m => m | _ => 0
        st.put ds e pairs pos d t rm sat x.writeShift [(SMap.get 0 e.acs (8 * m + e.i % 8)).toInt]
      | _, d =>
        let mask := maskVal (((links.find? (fun p => p.1 == x.sh)).map (fun p => p.2)).getD {})
          (((st.links.find? (fun p => p.1 == x.sh)).map (fun p => p.2)).getD [])
        let r := opA x t e.vmode e.fmode mask a.1 b.1
        let st := st.trapped e pos r.2
        let f0 := st.flags
        let q := { st with flags := {} }.put ds e pairs pos d t rm sat x.writeShift r.1
        { q.trapped e pos q.flags with flags := f0.or q.flags })
  | .dot4 kd int l =>
    let f : Form := { n := 20, fp := if int then 0 else 19, cls := if int then 1 else 0 }
    let v := l.map (fun o => part (e.opd st.links pos 0 o f false).1 0)
    { st with links := (kd, [prodSum v]) :: st.links }
  | .cld co x => { st with coefs := st.coefs ++ [(co + e.i, ((e.vals.find? (fun p => p.1 == x)).map (fun p => p.2.headD 0)).getD 0, pos)] }
  | .dots _ _ _ _ _ _ _ => st

/-- The formats of the links that a body's instructions have written, as each instruction sees them. -/
def linkForms (ts : List Typed) : List (Nat × Form) :=
  ts.filterMap (fun t =>
    match t.i with
    | .a x => (match x.d with | .k k => some (k, t.fr) | _ => none)
    | .dot4 kd _ _ => some (kd, t.fr)
    | .dots kd _ _ _ _ _ _ => some (kd, t.fr)
    | .cld _ _ => none)

/-- What an instruction after a trap leaves to check: the words that it would write, whatever their values (R155). -/
def ElSt.skip (st : ElSt) (ds : Descs) (e : ElEnv) (pairs : Bool) (pos : Nat) (t : Typed) : ElSt :=
  match t.i with
  | .a x =>
    (match x.d with
      | .t n =>
        let typ := (ds n).typ
        let half := pairs && typ == 2 && !t.fr.cx
        let el := if half then e.i / 2 else e.i
        if (ds n).len ≤ el then st
        else { st with writes := st.writes ++
                 [(n, el, if half then e.i % 2 else 0, List.replicate (if half then 1 else typeWords typ) 0, pos)] }
      | _ => st)
  | .cld co _ => { st with coefs := st.coefs ++ [(co + e.i, 0, pos)] }
  | _ => st

/-- Instructions of a body from position pos on, on one element; an instruction that traps ends the element's work (R84),
and of those after it only the words that they would write are of interest. -/
def ElSt.run (ds : Descs) (e : ElEnv) (pairs : Bool) (links : List (Nat × Form)) : Nat → ElSt → List Typed → ElSt
  | _, st, [] => st
  | pos, st, t :: ts =>
    ElSt.run ds e pairs links (pos + 1) (if st.trap.isSome then st.skip ds e pairs pos t else st.instr ds e pairs links pos t) ts

end Sys2Proof.Machine
end

