-- ==== Sys2Proof/Machine/Chain.lean ====
section
/-! DEFINITION. Chain groups: issue, steps, commit, faults, retirement and re-issue (R102, R114-R126, R133-R138,
R156-R171). -/

namespace Sys2Proof.Machine

/-! ## Fetching (R23, R183, R223, R264) -/

/-- What fetching a word gives: a wait, the word, or the code and subcause of an exception. -/
inductive FetchW where
  | hold (s : State)
  | ok (s : State) (w : Word)
  | bad (s : State) (code sub : Nat)

/-- The machine-check subcause of a failed instruction fetch (R264). -/
def fetchSub (e : BusErr) : Nat :=
  match e with
  | .uncorr => 1
  | .poison => 2
  | _ => 3

/-- A word fetched for core k at the level and with the windows of c; one that a buffered store writes waits (R225). -/
def State.fetchWord (s : State) (k : Nat) (c : Core) (a : Dbl) : FetchW :=
  let n := a.toNat
  if !s.isRegion n then .bad s 5 1
  else if !(c.cst.pl == .m || s.permits c.ctx .x n) then .bad s 5 3
  else
    match c.fetched a with
    | some (.ok w) => .ok s w
    | some (.bad e) => .bad s 13 (fetchSub e)
    | none =>
      if (c.buffering n).isSome then .hold s
      else
      match s.gate (1, k) n (s.locOf n) with
      | .wait s => .hold s
      | .refuse s => .bad s 13 3
      | .go s =>
        match s.readSram (1, k) n (s.locOf n) with
        | (s, .ok w) => .ok s w
        | (s, .bad e) => .bad s 13 (fetchSub e)

/-- What fetching a body gives. -/
inductive FetchB where
  | hold (s : State)
  | ok (s : State) (l : List Word)
  | bad (s : State) (code sub : Nat) (a : Dbl) (i : Nat)

/-- Words fetched in order. -/
def State.fetchWords (s : State) (k : Nat) (c : Core) (a : Dbl) (i : Nat) : Nat → FetchB
  | 0 => .ok s []
  | n + 1 =>
    match s.fetchWord k c a with
    | .hold s => .hold s
    | .bad s code sub => .bad s code sub a i
    | .ok s w =>
      match State.fetchWords s k c (a + 1) (i + 1) n with
      | .hold s => .hold s
      | .bad s code sub b j => .bad s code sub b j
      | .ok s l => .ok s (w :: l)

/-- Words taken in pairs. -/
def pairsOf : List Word → List (Word × Word)
  | x :: y :: l => (x, y) :: pairsOf l
  | _ => []

/-- An exception of a fetch: FETCH at home, a machine check at M (R223, R264). -/
def State.fetchExc (s : State) (k code sub : Nat) (a : Dbl) : Out :=
  let c := s.core k
  s.takeExc k { code := code, sub := sub, lvl := if code = 13 then .m else c.cst.pl.home, ret := c.pc, info := a }

/-! ## The fault record (R165, R166) -/

/-- VFC without PEND. -/
def VFault.word (f : VFault) : Word :=
  BitVec.ofNat 20 (b2n f.wr * 2 ^ 17 + f.flg * 2 ^ 12 + f.instr * 2 ^ 9 + f.stream * 32 + f.cause)

/-- The record of a fault in the core's registers, with PEND set (R165, R167). -/
def Core.record (c : Core) (f : VFault) : Core :=
  { c with vfc := f.word ||| pendBit, vfe := BitVec.ofNat 20 f.vfe, vfa := BitVec.ofNat 40 f.va }

/-- The record of a fault in a group. -/
def Group.record (g : Group) (f : VFault) : Group :=
  { g with vfc := f.word, vfe := BitVec.ofNat 20 f.vfe, vfa := BitVec.ofNat 40 f.va }

/-- A pending group fault is delivered at the instruction at the program counter (R167): room for the frame is made
first, and PEND is cleared as the exception is taken. -/
def State.deliverFault (s : State) (k : Nat) : Out :=
  match s.drainLoads k with
  | .hold s => ok s
  | .done s (some f) => s.loadFault k f
  | .done s none =>
    match s.room k 3 with
    | .hold s => ok s
    | .done s =>
      let c := s.core k
      (s.setCore k { c with vfc := c.vfc &&& ~~~ pendBit }).enter k { code := 7, lvl := c.cst.pl.home, ret := c.pc }

/-! ## Progress in the control block (R161) -/

/-- CB.VPROG written with VPROG. -/
def State.checkpoint (s : State) (k : Nat) : State := s.setCb (s.core k).groupCtx 8 (s.core k).vprog

/-- The first group in flight, or else the first stopped one, becomes the oldest: CB.VGRP and CB.VPROG name it, and VPROG
counts it. -/
def State.oldest (s : State) (k : Nat) : State :=
  let c := s.core k
  match c.groups ++ c.stopped with
  | [] => s
  | g :: _ =>
    let s := s.setCore k { c with vprog := BitVec.ofNat 20 g.vprog }
    ((s.setCb c.groupCtx 6 (loW g.chain)).setCb c.groupCtx 7 (hiW g.chain)).checkpoint k

/-! ## Stopping (R162) -/

/-- Every group in flight of cluster k stops, the oldest at its count, the younger at its starting count. -/
def State.stopAll (s : State) (k : Nat) : State :=
  let c := s.core k
  let st := match c.groups with
    | [] => []
    | g :: l => g.halt g.vprog :: l.map (fun y => y.halt y.start)
  s.setCore k { c with groups := [], stopped := st ++ c.stopped }

/-- The oldest group in flight stops on a fault (R162, R165). -/
def State.faultOldest (s : State) (k : Nat) (f : VFault) : State :=
  let c := s.core k
  match c.groups with
  | [] => s
  | g :: l =>
    let s := s.setCore k { c with groups := g.record f :: l }
    ((s.stopAll k).onCore k (fun c => c.record f)).checkpoint k

/-! ## Issue (R102, R114-R116, R137, R153) -/

/-- A group that fails an issue check stops at once at its count, before any access (R102, R115). -/
def State.rejectGroup (s : State) (k : Nat) (g : Group) (f : VFault) : State :=
  let c := s.core k
  let s := s.setCore k ({ c with stopped := c.stopped ++ [(g.halt g.vprog).record f] }.record f)
  if c.groups = [] then s.oldest k else s

/-- The first and last word of a cluster's coefficient store (R122). -/
def coefBase (k : Nat) : Nat := 0x40000000 + k * 0x4000

/-- The window check of VDOTS (R153). -/
def State.dotsWindow (s : State) (k : Nat) (g : Group) : Bool :=
  g.atM || [0, 1, 2, 3].any (fun w => s.windowGrants (s.core k).ctx w .r (coefBase k) (coefBase k + 0x3FFF))

/-- The accumulators that a group writes. -/
def Plan.accs (p : Plan) : List Nat :=
  p.ts.filterMap (fun t => match t.i with | .a x => (match x.d with | .ac m => some m | _ => none) | _ => none)

/-- A group put in flight, or rejected, or retired at once (R116, R119): with none in flight it executes and becomes the
oldest. The window check of VDOTS is made at issue whatever L is: R153 makes it then, and R116 says of L = 0 that it
raises no fault (DESIGN CHOICE log 88). -/
def State.launch (s : State) (k : Nat) (g : Group) : State :=
  match g.plan with
  | .error r => s.rejectGroup k g { cause := r.cause, stream := r.stream, instr := r.instr, vfe := g.vprog }
  | .ok p =>
    if p.dots.isSome && !s.dotsWindow k g then
      s.rejectGroup k g { cause := 4, va := coefBase k, instr := dotsPos p, vfe := 0 }
    else
      let c := s.core k
      let first := c.groups.isEmpty
      let v := g.vprog / p.unit * p.unit
      let g := { g with stopped := false, running := first, fresh := [], acs := if first then c.ac else []
                        unit := p.unit, accs := p.accs, vprog := v, start := v, pos := v
                        unpred := g.unpred || p.unpred, unpredAcc := g.unpredAcc || pipesTwice p.ts }
      if g.vprog < g.len then
        let s := s.setCore k { c with groups := c.groups ++ [g] }
        if first then s.oldest k else s
      else if first then
        let s := (s.setCore k { c with groups := [g] }).oldest k
        s.onCore k (fun c => { c with groups := [] })
      else s

/-- The broadcast words of an instruction: two for A and two for B, the second only where a pair is read (R137, R173). -/
def Core.broadcasts (c : Core) (t : Option LvI) (f : Option Typed) : List Word :=
  let two (o : Opd) (x : Form) : List Word :=
    match o with
    | .w n =>
      if n = 0 then [0, 0]
      else
        [c.wr (BitVec.ofNat 5 n), if x.cx || (x.n == 40) then c.wr (BitVec.ofNat 5 (n + 1)) else 0]
    | _ => [0, 0]
  match t with
  | some (.a x) => two x.a ((f.map Typed.fa).getD {}) ++ (if x.op.binary then two x.b ((f.map Typed.fb).getD {}) else [0, 0])
  | _ => [0, 0, 0, 0]

/-- A core one instruction further in every count (R127, R226, R230), for the body instructions of a group. -/
def Core.bodyPass (c : Core) : Nat → Core
  | 0 => c
  | n + 1 => (Core.bodyPass c n).ageMstart

/-- The instructions of the vector part wait until the groups of the outgoing context have stopped and the incoming
vector part is in place (R199). -/
def Core.victim (c : Core) : Bool := c.vecIn.isSome || (match c.out with | some o => o.live | none => false)

/-- CHAIN n, Wc (R136-R138). -/
def execChain (k : Nat) (n : BitVec 3) (rsv : BitVec 4) (c : BitVec 5) (s : State) : Out :=
  s.instr k (fun c0 =>
    if c0.victim then ok s
    else if !s.profT c0 then s.fault k 3
    else if c0.pend then s.deliverFault k
    else if c0.stopped != [] then s.illegal k
    else if 2 ≤ c0.groups.length then ok s
    else
      let m := if rsv = 0 then n.toNat else 0
      match s.drainStores k with
      | .hold s => ok s
      | .done s =>
        match s.fetchWords k (s.core k) (c0.pc + 1) 0 (2 * m) with
        | .hold s => ok s
        | .bad s code sub a _ => s.fetchExc k code sub a
        | .ok s ws =>
          match if m = 0 then Drain.done s none else s.drainLoads k with
          | .hold s => ok s
          | .done s (some f) => s.loadFault k f
          | .done s none =>
            let c1 := s.core k
            let body := pairsOf ws
            let l := bodyOf body
            let ds : Descs := fun t => descOf (c1.descWords t)
            let ts := Check.run ds {} l
            let g : Group :=
              { chain := c0.pc, n := m, body := body, len := elementCount ds l c (c0.wr c)
                vmode := c0.vm1, fmode := c0.fm1, atM := c0.cst.pl == .m
                descs := (bodyNames ds l).map (fun t => (t, c1.descWords t))
                bcast := (List.range l.length).map (fun j => c1.broadcasts (l.getD j none) ts[j]?) }
            let d := (c1.retire (1 + 2 * m)).bodyPass m
            let s := s.setCore k (if m = 0 then d else d.sync)
            if m = 0 then ok (s.rejectGroup k { g with len := 0 } { cause := 1, instr := 7 })
            else ok (s.launch k g))

/-! ## The barrier and the vector-state moves (R156-R158, R169) -/

/-- An instruction that first waits, and delivers a pending fault, as VBAR does (R156, R158). -/
def State.afterGroups (s : State) (k : Nat) (c : Core) (wait : Out) (body : Out) : Out :=
  if c.victim then ok s
  else if c.groups != [] then wait
  else if c.pend then s.deliverFault k
  else body

/-- VBAR (R156): with groups in flight it waits in X. -/
def execVbar (k : Nat) (s : State) : Out :=
  s.instr k (fun c => s.afterGroups k c (s.done k { c with vbar := true }) (s.done k (c.retire 1)))

/-- VBAR_COMPLETION (R156): the groups have retired; a fault not delivered is taken at the VBAR. -/
def execVbarCompletion (k : Nat) (s : State) : Out :=
  if !s.clusterOn k then noUnit
  else
    let c := s.core k
    if !c.vbar || c.groups != [] || !s.atWork k then ok s
    else if c.pend then (s.setCore k { c with vbar := false }).deliverFault k
    else s.done k ({ c with vbar := false }.retire 1)

/-- MTT Tt.w, Ws (R157). -/
def execMtt (k : Nat) (t : BitVec 4) (w : BitVec 3) (rs : BitVec 5) (s : State) : Out :=
  s.instr k (fun c =>
    s.needT k true (s.done k { c.retire 1 with t := SMap.set 0 c.t (8 * t.toNat + w.toNat) (c.wr rs) }))

/-- MFT Wd, Tt.w (R157); reserved bits read 0 (R89). -/
def execMft (k : Nat) (d : BitVec 5) (t : BitVec 4) (w : BitVec 3) (s : State) : Out :=
  s.instr k (fun c =>
    let v := SMap.get 0 c.t (8 * t.toNat + w.toNat)
    s.needT k true (s.done k ((c.retire 1).setW d (if w = 7 then 0 else if w = 4 then v &&& 0x3FFFF else v))))

/-- MTAC ACm.l.p, Ws (R158). -/
def execMtac (k : Nat) (m : BitVec 2) (l : BitVec 3) (p : BitVec 2) (rs : BitVec 5) (s : State) : Out :=
  s.instr k (fun c =>
    s.needT k (p != 3) (s.afterGroups k c (ok s)
      (let key := 8 * m.toNat + l.toNat
       let v := c.wr rs
       let o := SMap.get 0 c.ac key
       let x : BitVec 48 :=
         if p = 0 then o.extractLsb' 20 28 ++ v
         else if p = 1 then o.extractLsb' 40 8 ++ v ++ o.extractLsb' 0 20
         else v.extractLsb' 0 8 ++ o.extractLsb' 0 40
       s.done k { c.retire 1 with ac := SMap.set 0 c.ac key x })))

/-- MFAC Wd, ACm.l.p (R158). -/
def execMfac (k : Nat) (d : BitVec 5) (m : BitVec 2) (l : BitVec 3) (p : BitVec 2) (s : State) : Out :=
  s.instr k (fun c =>
    s.needT k (p != 3) (s.afterGroups k c (ok s)
      (let o := SMap.get 0 c.ac (8 * m.toNat + l.toNat)
       let v : Word :=
         if p = 0 then o.extractLsb' 0 20 else if p = 1 then o.extractLsb' 20 20 else (o.extractLsb' 40 8).signExtend 20
       s.done k ((c.retire 1).setW d v))))

/-! ## Starting the queued group (R108, R119, R125) -/

/-- The group reads accumulators as they stand (R126). -/
def Plan.readsAcc (p : Plan) : Bool := p.ts.any (fun t => match t.i with | .a x => x.op == .acr | _ => false)

/-- The group writes coefficients. -/
def Plan.loadsCoef (p : Plan) : Bool := p.ts.any (fun t => match t.i with | .cld _ _ => true | _ => false)

/-- The younger group may present its first reads beside the older one (R108, R119). -/
def mayStart (o y : Group) : Bool :=
  let p := o.planD
  let q := y.planD
  (decide (o.len ≤ o.pos) || o.presented p) && o.outq.all (fun e => e.fault.isNone)
    && (decide (o.len ≤ o.vprog)
      || ((q.reads ++ q.index).all (fun r => p.writes.all (fun w => disjoint (y.ds r) (o.ds w)))
          && !q.readsAcc && !(p.loadsCoef && q.dots.isSome)))

/-- QUEUED_GROUP_START (R119): the queued group executes. -/
def execQueuedGroupStart (k : Nat) (s : State) : Out :=
  if !s.clusterOn k then noUnit
  else
    let c := s.core k
    let go (g : Group) : Group := { g with running := true, acs := c.ac }
    match c.groups with
    | [g] => s.done k { c with groups := [if g.running then g else go g] }
    | [o, y] => if !y.running && !c.victim && mayStart o y then s.done k { c with groups := [o, go y] } else ok s
    | _ => ok s

/-! ## Steps (R104, R106, R117, R123, R124) -/

/-- The words that an element writes: address, word, stream and the stream's element; or the stream whose word fails. -/
structure ElWrites where
  ws : List (Nat × Word × Nat × Nat) := []
  bad : Option (Nat × Nat × Int) := none

/-- The target of a word refuses it (R104 check 3). -/
def State.refused (s : State) (k : Nat) (a : Int) : Option Nat :=
  match s.gate (0, k) a.toNat (s.locOf a.toNat) with | .refuse _ => some 5 | _ => none

/-- The writes of an element placed and checked, streams in order of their numbers (R104, R106): where a word fails check
1 or 2, the lowest one that fails any check is the failing word. -/
def State.placeWrites (s : State) (k : Nat) (g : Group) (e : ElIn) (l : List (Nat × Nat × Nat × List Word × Nat)) : ElWrites :=
  let one (w : Nat × Nat × Nat × List Word × Nat) : ElWrites :=
    let d := g.ds w.1
    let x : Int := if d.mode = 3 then ((e.indexAt d.idx w.2.1).map BitVec.toInt).getD 0 else 0
    let as := (List.range w.2.2.2.1.length).map (fun j => d.addr w.2.1 x + Int.ofNat (w.2.2.1 + j))
    let bad (a : Int) : Option Nat := s.streamCheck (s.core k).groupCtx g.atM .w a
    { ws := (List.zip as w.2.2.2.1).map (fun p => (p.1.toNat, p.2, w.1, w.2.1))
      bad := if as.all (fun a => (bad a).isNone) then none
        else as.findSome? (fun a => ((bad a).or (s.refused k a)).map (fun c => (w.1, c, a))) }
  let sorted := (List.range 16).flatMap (fun t => (l.filter (fun w => w.1 == t)).map one)
  { ws := (l.map one).flatMap (fun w => w.ws), bad := sorted.findSome? (fun w => w.bad) }

/-- Where a stream is first named in a body. -/
def Group.firstNames (g : Group) (t : Nat) : Nat :=
  firstPos (bodyOf g.body) (fun i => let n := i.reads ++ i.writes; (n ++ indexOf g.ds n).contains t)

/-- A stream's fault as a record. What VFA holds of an address outside 40 bits is open (DESIGN CHOICE log 87). -/
def Group.streamFault (g : Group) (wr : Bool) (vfe : Nat) (f : Nat × Nat × Int) : VFault :=
  { cause := f.2.1, va := if 0 ≤ f.2.2 ∧ f.2.2 < 2 ^ 40 then f.2.2.toNat else (Config.outsideVfa f.2.2).toNat, stream := f.1, wr := wr, instr := g.firstNames f.1, vfe := vfe }

/-- The words written by elements that have committed or are on their way: stream, address and element. -/
def Group.written (g : Group) : List (Nat × Nat × Nat) :=
  g.wrote ++ g.outq.flatMap (fun e => e.writes.map (fun w => (w.2.2.1, w.1, w.2.2.2)))

/-- The overlaps that make a group's result unpredictable (R110): a word read at element i that an earlier element writes,
or a word written by two streams. -/
def Group.overlap (g : Group) (i : Nat) (reads : List Nat) (ws : List (Nat × Word × Nat × Nat)) : Bool :=
  let old := g.written
  reads.any (fun a => old.any (fun p => p.2.1 == a && decide (p.2.2 < i)))
    || ws.any (fun w => old.any (fun p => p.2.1 == w.1 && p.1 != w.2.2.1))
    || ws.any (fun w => ws.any (fun v => v.1 == w.1 && v.2.2.1 != w.2.2.1))

/-- The environment of an element. -/
def Group.env (g : Group) (p : Plan) (i : Nat) (e : ElIn) : ElEnv :=
  { i := i, g := p.g, vals := e.vals, bcast := g.bcast, acs := g.acs, vmode := g.vmode, fmode := g.fmode }

/-- An element with a fault ends the group's results on their way. -/
def Group.failAt (g : Group) (f : VFault) : Group := { g with outq := g.outq ++ [{ cnt := 0, fault := some f }], segOut := {} }

/-- The window check of the coefficient words that an element writes (R154). -/
def State.coefBad (s : State) (k : Nat) (g : Group) (l : List (Nat × Word × Nat)) : Option (Nat × Nat) :=
  if g.atM then none
  else
    (l.find? (fun p => !s.permits (s.core k).groupCtx .w (coefBase k + p.1))).map (fun p => (coefBase k + p.1, p.2.2))

/-- The instructions ts of a body, from position pos, on element i with what has been read: the fault that stops the
group, or what the element does when it commits. -/
def State.runElement (s : State) (k : Nat) (g : Group) (p : Plan) (pairs : Bool) (links : List (Nat × Val)) (pos : Nat)
    (ts : List Typed) (i vfe : Nat) (e : ElIn) : Except VFault ElemOut :=
  match e.fault with
  | some f => .error (g.streamFault false i f)
  | none =>
    let st := ElSt.run g.ds (g.env p i e) pairs (linkForms p.ts) pos { links := links } ts
    let w := s.placeWrites k g e st.writes
    match w.bad with
    | some f => .error (g.streamFault true vfe f)
    | none =>
      match s.coefBad k g st.coefs with
      | some (a, q) => .error { cause := 4, va := a, wr := true, instr := q, vfe := vfe }
      | none =>
        match st.trap with
        | some (q, x) => .error { cause := 7, flg := x, instr := q, vfe := vfe }
        | none => .ok { writes := w.ws, zset := st.zset, accs := st.accs, coefs := st.coefs, flags := st.flags }

/-- A write that its target refuses is logged by the target (R27). -/
def State.faultLog (s : State) (k : Nat) (f : VFault) : State :=
  if f.wr && f.cause == 5 then (match s.gate (0, k) f.va (s.locOf f.va) with | .refuse s => s | _ => s) else s

/-- What element i of an ordinary group reads, as its positions hold it. -/
def Group.inputs (g : Group) (p : Plan) (i : Nat) : Option ElIn := g.elIn p.reads i (p.writes.map (fun t => (t, i)))

/-- Elements of an ordinary group from pos on, n of them. -/
def State.stepElements (s : State) (k : Nat) (g : Group) (p : Plan) : Nat → State × Group
  | 0 => (s, g)
  | n + 1 =>
    let i := g.pos
    match g.inputs p i with
    | none => (s, g)
    | some e =>
      match s.runElement k g p false [] 0 p.ts i i e with
      | .error f => (s.faultLog k f, g.failAt f)
      | .ok o =>
        let bad := g.overlap i e.addrs o.writes
        State.stepElements s k ({ g with outq := g.outq ++ [o], unpred := g.unpred || bad }.moveTo p (i + 1)) p n

/-- A coefficient word of cluster k read by the DOT pipe. -/
def State.coefRead (s : State) (k off : Nat) : State × FWord := s.readSram (0, k) (coefBase k + off) (.coef k off)

/-- The exact sum of the products of one lane in a step: coefficients, and the words that they multiply. -/
def State.laneSum (s : State) (k : Nat) (ef : BitVec 2) : List (Nat × Int) → Int → State × Except (Nat × BusErr) Int
  | [], n => (s, .ok n)
  | (off, x) :: l, n =>
    match s.coefRead k off with
    | (s, .bad e) => (s, .error (off, e))
    | (s, .ok v) => State.laneSum s k ef l (n + clsRead 20 ef.toNat v.toNat * x)

/-- The lanes' sums of a step, from lane l on. -/
def State.laneSums (s : State) (k : Nat) (ef : BitVec 2) (c : Nat) (ab : List (Nat × Int)) (l : Nat) : Nat → State × Except (Nat × BusErr) (List Int)
  | 0 => (s, .ok [])
  | n + 1 =>
    match s.laneSum k ef (ab.map (fun p => (2048 * l + c + p.1, p.2))) 0 with
    | (s, .error e) => (s, .error e)
    | (s, .ok x) =>
      match State.laneSums s k ef c ab (l + 1) n with
      | (s, .error e) => (s, .error e)
      | (s, .ok xs) => (s, .ok (x :: xs))

/-- The results of two elements that commit together. -/
def ElemOut.join (a b : ElemOut) : ElemOut :=
  { cnt := a.cnt, writes := a.writes ++ b.writes, zset := a.zset ++ b.zset, accs := a.accs ++ b.accs
    coefs := a.coefs ++ b.coefs, flags := a.flags.or b.flags, fault := a.fault.or b.fault }

/-- What a part of a stationary step gives: a wait for a word, a fault, or its result. -/
inductive Part (α : Type) where
  | hold
  | fault (f : VFault)
  | got (x : α)

/-- The eight inputs of a step of a stationary group, and its instructions before VDOTS run on them: their results, the
pairs of input words and the addresses read, each with its element. A fault is one of its input (R155, R166). -/
def State.dotsInputs (s : State) (k : Nat) (g : Group) (p : Plan) (pre : List Typed) (ta tb : Nat) (i : Nat) :
    Nat → ElemOut → List (Int × Int) → List (Nat × List Nat) → Part (ElemOut × List (Int × Int) × List (Nat × List Nat))
  | 0, o, ab, rd => .got (o, ab, rd)
  | n + 1, o, ab, rd =>
    let ws := uniq (pre.flatMap (fun t => t.i.writes))
    match g.elIn p.reads i (ws.map (fun t => (t, i))) with
    | none => .hold
    | some e =>
      match s.runElement k g p false [] 0 pre i i e with
      | .error f => .fault f
      | .ok q =>
        let v (t : Nat) : Int := (((e.vals.find? (fun x => x.1 == t)).map (fun (x : Nat × List Word) => x.2.headD 0)).getD 0).toInt
        State.dotsInputs s k g p pre ta tb (i + 1) n (o.join q) (ab ++ [(v ta, v tb)]) (rd ++ [(i, e.addrs)])

/-- The outputs of a segment: the instructions after VDOTS on each of its eight values, and the addresses of the indices
that they read (R124). A fault is one of its segment (R166). -/
def State.dotsOutputs (s : State) (k : Nat) (g : Group) (p : Plan) (post : List Typed) (pos kd seg j : Nat) :
    List Int → ElemOut → List (Nat × List Nat) → Part (ElemOut × List (Nat × List Nat))
  | [], o, rd => .got (o, rd)
  | v :: vs, o, rd =>
    let el (t : Nat) : Nat := if (g.ds t).typ = 2 then j / 2 else j
    let ws := uniq (post.flatMap (fun t => t.i.writes))
    match g.elIn [] j (ws.map (fun t => (t, el t))) with
    | none => .hold
    | some e =>
      match e.fault with
      | some f => .fault (g.streamFault false seg f)
      | none =>
        match s.runElement k g p true [(kd, [v])] pos post j seg e with
        | .error f => .fault f
        | .ok q => State.dotsOutputs s k g p post pos kd seg (j + 1) vs (o.join q) (rd ++ [(j, e.addrs)])

/-- One step of a stationary group: eight inputs, and at the end of a segment its outputs (R123, R124). -/
def State.stepDots (s : State) (k : Nat) (g : Group) (p : Plan) (kd cb ta tb sg : Nat) (ef sat : BitVec 2) : State × Group :=
  let i := g.pos
  let unit := 8 * (sg + 1)
  let seg := i / unit * unit
  let pos := dotsPos p
  let pre := p.ts.take pos
  let post := p.ts.drop (pos + 1)
  match s.dotsInputs k g p pre ta tb i 8 g.segOut [] [] with
  | .hold => (s, g)
  | .fault f => (s.faultLog k f, g.failAt f)
  | .got (o, ab, rd) =>
    let xs := (List.zip (List.range 8) ab).flatMap (fun q => [(q.1, q.2.1)])
      ++ (List.zip (List.range 8) ab).flatMap (fun q => [(8 + q.1, q.2.2)])
    match s.laneSums k ef (16 * cb + 2 * (i - seg)) xs 0 8 with
    | (s, .error (off, e)) => (s, g.failAt { cause := busCause e, va := coefBase k + off, instr := pos, vfe := seg })
    | (s, .ok sums) =>
      let z := (satOf sat g.vmode).getD false
      let old := if i = seg then List.replicate 8 0 else g.part
      let r := List.zipWith (fun x y => narrow (x + y) 0 0 z 48) old sums
      let o := { o with flags := o.flags.or { ov := r.any (fun q => q.2) } }
      let bad := rd.any (fun q => g.overlap q.1 q.2 [])
      let next := { g with part := r.map (fun q => q.1), segOut := o, unpred := g.unpred || bad }
      if (i + 8) % unit ≠ 0 then (s, next.moveTo p (i + 8))
      else
        match s.dotsOutputs k next p post (pos + 1) kd seg (8 * (seg / unit)) next.part { o with cnt := unit } [] with
        | .hold => (s, g)
        | .fault f => (s.faultLog k f, next.failAt f)
        | .got (o, rd) =>
          let bad := rd.any (fun q => next.overlap q.1 q.2 []) || next.overlap 0 [] o.writes
          (s, { next with outq := next.outq ++ [o], segOut := {}, unpred := next.unpred || bad }.moveTo p (i + 8))

/-- Words on their way at the fullest write position of a group (R120). -/
def Group.held (g : Group) : Nat :=
  let l := g.outq.flatMap (fun e => e.writes.map (fun w => w.2.2.1))
  (List.range 16).foldl (fun n t => max n (l.filter (fun x => x == t)).length) 0

/-- The elements of a group's next step (R117). -/
def Group.stepLen (g : Group) (p : Plan) : Nat := min (p.g - g.pos % p.g) (min g.len (g.stopAt.getD g.len) - g.pos)

/-- The words that a group's next step puts at its fullest write position. -/
def Group.stepWords (g : Group) (p : Plan) : Nat :=
  let n := if g.unit = 1 then g.stepLen p else if (g.pos + 8) % g.unit = 0 then 8 else 0
  (p.writes.map (fun t => n * typeWords (g.ds t).typ)).foldl max 0

/-- A group can advance: no result of it is a fault, and its write positions have room for 64 words (R120). -/
def Group.canStep (g : Group) : Bool :=
  g.running && decide (g.pos < min g.len (g.stopAt.getD g.len)) && g.outq.all (fun e => e.fault.isNone)
    && decide (g.held + g.stepWords g.planD ≤ 64)

/-- A step of group g of cluster k: its read positions take their turns, and the step goes once every operand word of it
has arrived. What put puts back is the group after it. -/
def State.stepGroup (s : State) (k : Nat) (g : Group) (put : State → Group → State) : State :=
  let p := g.planD
  let n := g.stepLen p
  let q := s.turns k g p p.positions
  let r :=
    match p.dots with
    | some (kd, cb, ta, tb, sg, ef, sat) => q.1.stepDots k q.2 p kd cb ta tb sg ef sat
    | none =>
      if (List.range n).all (fun j => (q.2.inputs p (g.pos + j)).isSome) then q.1.stepElements k q.2 p n else q
  put (if r.2.unpred && !g.unpred then r.1.scramble (g.wrote.map (fun w => w.2.1)) else r.1) r.2

/-- GROUP_STEP (R117): a group of the cluster advances one step. -/
def execGroupStep (k : Nat) (s : State) : Out :=
  if !s.clusterOn k then noUnit
  else
    let c := s.core k
    let put (i : Nat) (s : State) (g : Group) : State := s.onCore k (fun c => { c with groups := c.groups.set i g })
    match c.groups with
    | [] => ok s
    | g :: l =>
      if g.canStep then ok (s.stepGroup k g (put 0))
      else
        match l with
        | [] => ok s
        | y :: _ => if y.canStep && !c.victim then ok (s.stepGroup k y (put 1)) else ok s

/-! ## Commit, fault, retirement (R83, R126, R160-R163) -/

/-- An accumulator update on a lane (R70, R126): the lane and OV. -/
def AccOp.apply (o : AccOp) (v : BitVec 48) : BitVec 48 × Bool :=
  match o with
  | .add x sat => let r := narrow (v.toInt + x) 0 0 sat 48; (BitVec.ofInt 48 r.1, r.2)
  | .max x => (if v.toInt < x then BitVec.ofInt 48 x else v, false)
  | .min x => (if x < v.toInt then BitVec.ofInt 48 x else v, false)
  | .put x => (BitVec.ofInt 48 x, false)

/-- Updates made in order. -/
def State.applyAccs (s : State) (k : Nat) : List (Nat × AccOp) → Bool → State × Bool
  | [], ov => (s, ov)
  | (i, o) :: l, ov =>
    let r := o.apply (SMap.get 0 (s.core k).ac i)
    State.applyAccs (s.onCore k (fun c => { c with ac := SMap.set 0 c.ac i r.1 })) k l (ov || r.2)

/-- Flags of committed elements merged (R83): into the modes of the context that issued the group. -/
def State.mergeGroup (s : State) (k : Nat) (f : Flags) : State :=
  s.onCore k (fun c =>
    match c.out with
    | some o =>
      if o.live then
        { c with out := some { o with words := o.words.map (fun p =>
            if p.1 = 0x39 then (p.1, mergeV p.2 f) else if p.1 = 0x3A then (p.1, mergeF p.2 f) else p) } }
      else c.merge f
    | none => c.merge f)

/-- Words written by a committing element. -/
def State.commitWrites (s : State) (free : Bool) : List (Nat × Word × Nat × Nat) → State
  | [] => s
  | w :: l =>
    let d := s.draw 20
    let q : State × Word := if free then (d.2, d.1) else (s, w.2.1)
    State.commitWrites (q.1.writeLoc w.1 (s.locOf w.1) q.2) free l

/-- Coefficient words written by a committing element (R122, R154). -/
def State.commitCoefs (s : State) (k : Nat) (free : Bool) : List (Nat × Word × Nat) → State
  | [] => s
  | w :: l =>
    let d := s.draw 20
    let q : State × Word := if free then (d.2, d.1) else (s, w.2.1)
    State.commitCoefs (q.1.writeStore (coefBase k + w.1) (.coef k w.1) q.2) k free l

/-- The first write of an element that must wait for a region. -/
def State.writeWaits (s : State) (k : Nat) (l : List (Nat × Word × Nat × Nat)) : Option State :=
  l.findSome? (fun w => match s.gate (0, k) w.1 (s.locOf w.1) with | .wait s => some s | _ => none)

/-- The write of an element that its target refuses: of the stream of the lowest number, the lowest word (R27, R106,
R166). -/
def State.writeRefused (s : State) (k : Nat) (l : List (Nat × Word × Nat × Nat)) : Option (State × Nat × Nat) :=
  let bad := l.filter (fun w => (s.refused k w.1).isSome)
  let t := bad.foldl (fun n w => min n w.2.2.1) 16
  let a := (bad.filter (fun w => w.2.2.1 == t)).foldl (fun n w => min n w.1) (2 ^ 40)
  if bad = [] then none
  else match s.gate (0, k) a (s.locOf a) with | .refuse s => some (s, a, t) | _ => none

/-- Words of later elements that had been presented when a write was refused: each is performed or not as a free value
says (R106). -/
def State.maybeCommit (s : State) (k : Nat) (free : Bool) : List (Nat × Word × Nat × Nat) → State
  | [] => s
  | w :: l =>
    let b := s.drawBool
    let go := b.1 && (match b.2.gate (0, k) w.1 (b.2.locOf w.1) with | .go _ => true | _ => false)
    State.maybeCommit (if go then b.2.commitWrites free [w] else b.2) k free l

/-- The index of an element of an INDEXED write stream, as the index stream holds it now. -/
def State.peekIndex (s : State) (g : Group) (d : Desc) (i : Nat) : Int :=
  let a := ((g.ds d.idx).addr i 0).toNat
  match s.peek a (s.locOf a) with | .good v _ => v.toInt | _ => 0

/-- An element that a group has still to commit writes word a (R19, R99). -/
def State.rewrites (s : State) (g : Group) (a : Nat) : Bool :=
  let p := g.planD
  p.writes.any (fun t =>
    let d := g.ds t
    let i := g.outAt p t g.vprog
    (List.range (min d.len (g.outAt p t g.len) - i)).any (fun j =>
      (d.words (i + j) (if d.mode = 3 then s.peekIndex g d (i + j) else 0)).contains (a : Int)))

/-- The words of a group that a load must see as they were before it (R19): of those just written with their old forms, and
those from before, the ones that it will write again. -/
def State.midWords (s : State) (g : Group) (l : List (Nat × BitVec 31)) : List (Nat × BitVec 31) :=
  ((g.mid ++ l.filter (fun x => !g.mid.any (fun y => y.1 == x.1))).eraseDups).filter (fun x => s.rewrites g x.1)

/-- The oldest group's element e commits (R160). -/
def State.commitElement (s : State) (k : Nat) (g : Group) (rest : List Group) (e : ElemOut) (q : List ElemOut) : State :=
  let s := e.writes.foldl (fun s w => match s.gate (0, k) w.1 (s.locOf w.1) with | .go s => s | _ => s) s
  let at0 := s.mem
  let s := s.commitCoefs k g.unpredAcc e.coefs
  let s := s.commitWrites g.unpred e.writes
  let touched := e.coefs.map (fun w => coefBase k + w.1) ++ e.writes.map (fun w => w.1)
  let fresh := g.fresh ++ touched.map (fun a => (a, SMap.get 0 at0 a, SMap.get 0 s.mem a))
  let s := s.onCore k (fun c => { c with ac := e.zset.foldl (fun m z => SMap.set 0 m z.1 z.2) c.ac })
  let r := s.applyAccs k e.accs false
  let s := if g.unpredAcc then r.1.freeLanes k (lanesOf g.accs) else r.1
  let s := s.mergeGroup k (e.flags.or { ov := r.2 })
  let v := g.vprog + e.cnt
  let g' := { g with
    vprog := v, outq := q, fresh := if v / 64 = g.vprog / 64 then fresh else []
    wrote := g.wrote ++ e.writes.map (fun (w : Nat × Word × Nat × Nat) => (w.2.2.1, w.1, w.2.2.2)) }
  let g' := { g' with mid := s.midWords g' (e.writes.map (fun (w : Nat × Word × Nat × Nat) => (w.1, SMap.get 0 at0 w.1))) }
  let s := s.onCore k (fun c => { c with groups := g' :: rest, vprog := BitVec.ofNat 20 v })
  if v / 64 = g.vprog / 64 then s else s.checkpoint k

/-- ELEMENT_COMMIT (R160): the next element of the oldest group commits: its writes are performed, its updates made, its
flags merged; a refused write makes it the faulting element, and each word of a later element may have been written
(R106). -/
def execElementCommit (k : Nat) (s : State) : Out :=
  if !s.clusterOn k then noUnit
  else
    let c := s.core k
    match c.groups with
    | [] => ok s
    | g :: rest =>
      match g.outq with
      | [] => ok s
      | e :: q =>
        if e.fault.isSome || !decide (g.vprog < g.stopAt.getD g.len) then ok s
        else
          match s.writeWaits k e.writes with
          | some s => ok s
          | none =>
            match s.writeRefused k e.writes with
            | some (s, a, t) =>
              let f : VFault := { cause := 5, va := a, stream := t, wr := true, instr := g.firstNames t, vfe := g.vprog }
              ok ((s.maybeCommit k g.unpred (q.flatMap (fun e => e.writes))).onCore k (fun c => { c with groups := { g with outq := [{ cnt := 0, fault := some f }] } :: rest }))
            | none => ok (s.commitElement k g rest e q)

/-- GROUP_FAULT (R162): the next element of the oldest group has a fault; the groups stop. A fault at the stop point of a
preemption is not reported (R106). -/
def execGroupFault (k : Nat) (s : State) : Out :=
  if !s.clusterOn k then noUnit
  else
    match (s.core k).groups with
    | [] => ok s
    | g :: _ =>
      match g.outq with
      | [] => ok s
      | e :: _ =>
        match e.fault with
        | none => ok s
        | some f => if g.stopAt.any (fun v => decide (v ≤ g.vprog)) then ok s else ok (s.faultOldest k f)

/-- GROUP_RETIRE (R119, R160): the oldest group has committed every element; VPROG reads its L until the next group becomes
the oldest. -/
def execGroupRetire (k : Nat) (s : State) : Out :=
  if !s.clusterOn k then noUnit
  else
    let c := s.core k
    match c.groups with
    | [] => ok s
    | g :: rest =>
      if g.vprog < g.len then ok s
      else
        let s := (s.setCore k { c with groups := rest, vprog := BitVec.ofNat 20 g.len }).checkpoint k
        let s := s.oldest k
        ok (if c.victim || c.preempt.any (fun w => w != .waiting) then s.onCore k Core.setStop else s)

/-! ## Re-issue (R170, R171) -/

/-- What re-issuing stopped groups gives. -/
inductive Reissue where
  | hold (s : State)
  | done (s : State)

/-- The record that a re-issued group is rejected with before it runs: a CHAIN word that failed its checks fails them again,
and so does a group that failed a check of its descriptors (R171). -/
def Group.again (g : Group) : Option VFault :=
  let f : VFault := { cause := bits g.vfc 2 0, stream := bits g.vfc 8 5, instr := bits g.vfc 11 9, vfe := g.vfe.toNat }
  if g.n = 0 then some { f with cause := 1, stream := 0, instr := 7 } else if f.cause = 2 then some f else none

/-- Groups re-issued in order at their counts: the body is fetched again and the checks are made again; a group whose
checks fail stops with its fault, and the groups behind it stay stopped (R171, R162). A body that cannot be fetched fails
as a body that is none (DEDUCED log 36), and one that has changed makes the group unpredictable (R177). -/
def State.reissueList (s : State) (k : Nat) (c : Core) : List Group → Reissue
  | [] => .done s
  | g :: l =>
    let stop (s : State) (g : Group) (f : VFault) : Reissue :=
      .done ((s.rejectGroup k g f).onCore k (fun c => { c with stopped := c.stopped ++ l }))
    match g.again with
    | some f => if g.n = 0 then stop s g f else
      (match s.fetchWords k c (g.chain + 1) 0 (2 * g.n) with
        | .hold s => .hold s
        | .bad s _ _ _ _ => stop s g f
        | .ok s ws =>
          let g := { g with body := pairsOf ws }
          (match g.plan with
            | .error r => stop s g (if r.cause = 2 then { cause := 2, stream := r.stream, instr := r.instr, vfe := g.vprog } else f)
            | .ok _ => stop s g f))
    | none =>
      match s.fetchWords k c (g.chain + 1) 0 (2 * g.n) with
      | .hold s => .hold s
      | .bad s _ _ _ i =>
        stop s g { cause := 1, instr := i / 2, vfe := g.vprog }
      | .ok s ws =>
        let moved := g.body != [] && g.body != pairsOf ws
        let s := s.launch k { g with body := pairsOf ws, vfc := 0, vfe := 0, vfa := 0
                                     unpred := g.unpred || moved, unpredAcc := g.unpredAcc || moved }
        if (s.core k).stopped != [] then .done (s.onCore k (fun c => { c with stopped := c.stopped ++ l }))
        else State.reissueList s k c l

/-- The stopped groups of core k re-issued at the level and with the windows of c (R170); those of an incoming vector
part that is not in place yet are waited for. -/
def State.reissue (s : State) (k : Nat) (c : Core) : Reissue :=
  let d := s.core k
  if d.victim then (if d.vecIn.any (fun v => v.fault && v.slots != []) then .hold s else .done s)
  else if !d.stalled then .done s
  else
    match (s.setCore k { d with stopped := [] }).reissueList k c d.stopped with
    | .hold s' => .hold (s'.onCore k (fun x => { x with groups := d.groups, stopped := d.stopped, vprog := d.vprog, vfc := d.vfc, vfe := d.vfe, vfa := d.vfa }))
    | .done s => .done s

end Sys2Proof.Machine
end

