-- ==== Sys2Proof/Machine/Channels.lean ====
section
/-! DEFINITION. The commands of the DMA channels and of the HBM controllers (R293-R311). -/

namespace Sys2Proof.Machine

/-! ## Channel commands (R296-R304) -/

/-- A command of a channel that the device has. -/
def State.channel (s : State) (n : Nat) (f : State → State) : Out := if 96 ≤ n then noUnit else ok (f s)

/-- A write to a register of channel n by a master (R293). -/
def State.writeDma (s : State) (who : Master) (n off : Nat) (v : Word) : Out :=
  if 96 ≤ n then noUnit else s.writeBy who (0x30000 + n * 0x40 + off) v

/-- CMD.START (R298). -/
def execDmaStart (who : Master) (n : Nat) (s : State) : Out := s.writeDma who n 0x20 1
/-- CMD.STOP (R301). -/
def execDmaStop (who : Master) (n : Nat) (s : State) : Out := s.writeDma who n 0x20 2
/-- CMD.CLEAR (R297). -/
def execDmaClear (who : Master) (n : Nat) (s : State) : Out := s.writeDma who n 0x20 4
/-- CMD.KILL (R297). -/
def execDmaKill (who : Master) (n : Nat) (s : State) : Out := s.writeDma who n 0x20 8
/-- A write to a shadow register (R296). -/
def execDmaShadowWrite (who : Master) (n : Nat) (off : BitVec 4) (v : Word) (s : State) : Out :=
  s.writeDma who n (0x10 + off.toNat) v
/-- DMA_READ_RETURN (R299, R303); for a read of host memory the command brings the completion and its dwords. -/
def execDmaReadReturn (n : Nat) (hds : List (BitVec 32)) (ep : HostCpl) (s : State) : Out :=
  s.channel n (fun s => s.dmaRead n hds ep)
/-- DMA_WRITE_RESPONSE (R299). -/
def execDmaWriteResponse (n : Nat) (s : State) : Out := s.channel n (fun s => s.dmaWriteResp n)
/-- DMA_COMPLETION (R300). -/
def execDmaCompletion (n : Nat) (s : State) : Out := s.channel n (fun s => s.dmaComplete n)
/-- DMA_HALT (R303). -/
def execDmaHalt (n : Nat) (s : State) : Out := s.channel n (fun s => s.dmaHalt n)
/-- HOST_DMA_TIMEOUT (R330). -/
def execHostDmaTimeout (n : Nat) (s : State) : Out := s.channel n (fun s => s.dmaTimeout n)

/-! ## HBM (R306-R310) -/

/-- What a master's access to an HBM stack meets: the stack and offset, if it may be performed. -/
def State.hbmAccess (s : State) (who : Master) (a : Nat) (wr : Bool) (f : State → Nat → Nat → State) : State :=
  match s.locOf a with
  | .hbm h o =>
    if s.up && reaches who (.hbm h o) wr then
      (match s.gate (logWho who) a (.hbm h o) with
        | .go s => f s h o
        | .wait s => s
        | .refuse s => s)
    else s
  | _ => s

/-- HBM_READ (R309): the controller reads one block and returns the words asked of it, or an error. -/
def execHbmRead (who : Master) (a : Dbl) (cnt : Nat) (s : State) : Out :=
  ok (s.hbmAccess who a.toNat false (fun s h o =>
    let r := s.readBlock (logWho who) h (o / 24) a.toNat false
    let n := min cnt (24 - o % 24)
    let d : LdData := match r.2.2 with
      | some e => .bad e a.toNat
      | none => .ok ((List.range n).map (fun i => blockWord r.2.1 (o % 24 + i)))
    { r.1 with outs := { r.1.outs with hbmReads := r.1.outs.hbmReads ++ [d] } }))

/-- The answer of a write to a stack: a failure is the channel's, the store's or the debug master's as R220, R303 and R390
report it (R308). -/
def State.hbmAnswer (s : State) (who : Master) (a : Nat) (e : Option BusErr) : State :=
  let s := { s with outs := { s.outs with hbmWrites := s.outs.hbmWrites ++ [e] } }
  match e with
  | none => s
  | some e =>
    match who with
    | .core k => s.onCore k (fun c => c.refused a e)
    | .dma n =>
      let d := s.chan n
      let t := (d.wq.find? (fun w => decide (w.addr ≤ (a : Int)) && decide ((a : Int) < w.addr + w.ws.length))).map
        (fun w => w.t + ((a : Int) - w.addr).toNat)
      if d.state == .running then
        s.setChan n (d.addFail { cause := dmaCause e, wr := true, addr := BitVec.ofNat 40 a, t := t.getD d.done.toNat })
      else s
    | .debug => s.debugFail (dbgCause e)
    | _ => s

/-- HBM_WHOLE_BLOCK_WRITE (R308): the 24 words of a block, from its first address. -/
def execHbmWholeBlockWrite (who : Master) (a : Dbl) (ws : List Word) (s : State) : Out :=
  ok (s.hbmAccess who a.toNat true (fun s h o =>
    if o % 24 = 0 ∧ ws.length = 24 then (s.hbmWhole h (o / 24) ws).hbmAnswer who a.toNat none else s))

/-- HBM_READ_MODIFY_WRITE (R308): some words of one block; a bad block refuses the write and its writer is told. -/
def execHbmReadModifyWrite (who : Master) (a : Dbl) (ws : List Word) (s : State) : Out :=
  ok (s.hbmAccess who a.toNat true (fun s h o =>
    if o % 24 + ws.length ≤ 24 then
      let r := s.hbmRmw (logWho who) h (o / 24) (o % 24) ws
      r.1.hbmAnswer who a.toNat r.2
    else s))

/-- The place of a stack's scrubber in the table of walkers. -/
def hbmWalker (h : Nat) : Nat := 128 + h

/-- The HBM scrubber reads the next block of a stack (R310): a correction is written back, and an uncorrectable block is
poisoned. -/
def State.hbmScrub (s : State) (h : Nat) : State :=
  let n := s.hbmSize / 24
  let b := SMap.get 0 s.walkers (hbmWalker h) % n
  let x := s.block h b
  let i := hbmIndex h b
  let a := blockAddr h b
  let l : Loc := .hbm h (24 * b)
  let s := { s with walkers := SMap.set 0 s.walkers (hbmWalker h) ((b + 1) % n) }
  match blockDecode x i with
  | .clean d k => if k = 0 then s else (s.blockFixed (10, 0) a l k).putBlock h b (blockEncode d i 0)
  | .poisoned d k => if k = 0 then s else (s.blockFixed (10, 0) a l k).putBlock h b (blockEncode d i 0x5A5)
  | .uncorr =>
    ((s.countUe l.unit).logAt 9 (10, 0) a l 0).putBlock h b (blockEncode (x.toNat % 2 ^ 480) i 0x5A5)

/-- HBM_SCRUB_BLOCK (R310). -/
def execHbmScrubBlock (h : Nat) (s : State) : Out :=
  if 4 ≤ h then noUnit else if s.fabricOff h then ok s else ok (s.hbmScrub h)

end Sys2Proof.Machine
end

