-- ==== Sys2Proof/Machine/Clock.lean ====
section
/-! DEFINITION. The commands of the PTP clock, its timers and pins, and of PIP_NOW (R333-R336, R372). -/

namespace Sys2Proof.Machine

/-- A read of PTP_TOD word 0 (R334). -/
def execPtpTodRead (who : Master) (s : State) : Out := s.readBy who 0x50000
/-- The write of word 3 of PTP_SET (R334). -/
def execPtpSet (who : Master) (v : Word) (s : State) : Out := s.writeBy who 0x50007 v
/-- The write of word 1 of PTP_ADJ (R334). -/
def execPtpAdj (who : Master) (v : Word) (s : State) : Out := s.writeBy who 0x50009 v
/-- A write of PTP_CTL with CAP = 1 (R334). -/
def execPtpCtlCap (who : Master) (v : Word) (s : State) : Out := s.writeBy who 0x5000C (v ||| 0x80000)
/-- The write of word 3 of a timer (R334). -/
def execTmrNextWrite (who : Master) (t : Nat) (v : Word) (s : State) : Out :=
  if 64 ≤ t then noUnit else s.writeBy who (0x50100 + 8 * t + 3) v
/-- TIMER_EVENT (R335). -/
def execTimerEvent (t : Nat) (s : State) : Out := if 64 ≤ t then noUnit else ok (s.timerFire t)

/-- PPS_IN_EDGE (R336): the time is captured, PPSF set, and host source 3 raised. -/
def execPpsInEdge (s : State) : Out :=
  ok ({ s with ptp := { s.ptp with ppscap := s.ptp.time, ppsf := true } }.hostIrq 3)

/-- PPS_OUT_RISE (R336): as a whole second later than the last has come, while PPSEN is 1 (DESIGN CHOICE log 4). -/
def execPpsOutRise (s : State) : Out :=
  let p := s.ptp
  if p.ppsen && !p.ppsOut && p.turned && decide (bits p.time 79 32 ≠ bits p.ppsRise 79 32) then
    ok { s with ptp := { p with ppsOut := true, ppsRise := p.time } }
  else ok s

/-- PPS_OUT_FALL (R336): PPSW ms after it rose, 0 taken as 1. -/
def execPpsOutFall (s : State) : Out :=
  let p := s.ptp
  if p.ppsOut && decide (timeNs p.ppsRise + max 1 p.ppsw.toNat * 10 ^ 6 ≤ timeNs p.time) then
    ok { s with ptp := { p with ppsOut := false } }
  else ok s

/-- The clock's time in units of 2^-8 ns. -/
def fineTime (t : BitVec 80) (f : BitVec 32) : Int := (timeNs t * 256 + bits f 31 24 : Nat)

/-- SYNCERR_UPDATE (R334): 10^7 cycles of SYNC_IN have passed since the last one. -/
def execSyncerrUpdate (s : State) : Out :=
  let p := s.ptp
  let e := fineTime p.time p.frac - fineTime p.syncLast p.syncFrac - 256 * 10 ^ 9
  ok { s with ptp := { p with syncerr := BitVec.ofInt 40 e, syncLast := p.time, syncFrac := p.frac, syncok := true } }

/-- A read of PIP_NOW word 0 (R372). -/
def execPipNowRead (who : Master) (s : State) : Out := s.readBy who 0x10104

end Sys2Proof.Machine
end

