-- ==== Sys2Proof/Machine/Ledger.lean ====
section
/-! DEFINITION. The commands of the ledger (R350, R362) and of rolls (R364-R367). -/

namespace Sys2Proof.Machine

/-! ## The ledger -/

/-- A read of INT_LDG_DATA (R350). -/
def execIntLdgDataRead (who : Master) (s : State) : Out := s.readBy who 0x60011
/-- A write of INT_LDG_DATA (R350). -/
def execIntLdgDataWrite (who : Master) (v : Word) (s : State) : Out := s.writeBy who 0x60011 v
/-- A write of INT_LDG_CTL.ERASE (R350). -/
def execIntLdgCtlErase (who : Master) (s : State) : Out := s.writeBy who 0x60012 1

/-- LEDGER_PROGRAM_DONE (R350): the cell holds its value; one that was not erased holds a free value (R368). At the end of a
record's writing the slot holds it (R362). -/
def execLedgerProgramDone (s : State) : Out :=
  match s.int.ldgOp with
  | some (.program c v) =>
    let d := s.draw 16
    let r := if s.int.cell c = 0xFFFF then (s, v) else (d.2, d.1)
    ok { r.1 with int := { r.1.int with ledger := SMap.set 0xFFFF r.1.int.ledger c r.2, ldgOp := none } }
  | some (.record q l) => ok { s with int := s.int.putRecord q l }
  | _ => ok s

/-- LEDGER_ERASE_DONE (R350): every cell of the slot reads 0xFFFF. -/
def execLedgerEraseDone (s : State) : Out :=
  match s.int.ldgOp with
  | some (.erase n) => ok { s with int := { s.int with ledger := s.int.ledger.purge (fun c => c / 1024 == n), ldgOp := none } }
  | _ => ok s

/-! ## Rolls -/

/-- ROLL_CMD with KIND 00 (R366). -/
def execRollRegion (who : Master) (tgt : BitVec 7) (s : State) : Out := s.writeBy who 0x70000 (tgt.zeroExtend 20)
/-- ROLL_CMD with KIND 01 (R366). -/
def execRollCluster (who : Master) (tgt : BitVec 7) (s : State) : Out :=
  s.writeBy who 0x70000 (0x40000 ||| tgt.zeroExtend 20)
/-- ROLL_CMD with KIND 10 (R366). -/
def execRollIoDie (who : Master) (s : State) : Out := s.writeBy who 0x70000 0x80000

/-- ROLL_SIG of a target after a roll that ran to its end: the published one when it passed, a free value otherwise
(R364, DESIGN CHOICE log 25). -/
def State.setSig (s : State) (kind t : Nat) (pass : Bool) : State :=
  let d := s.draw 40
  let r := if pass then (s, Config.rollSignature kind t) else (d.2, d.1)
  { r.1 with rolls := { r.1.rolls with sig := SMap.set 0 r.1.rolls.sig (rollIdx kind t) r.2 } }

/-- What a region roll leaves (R364, R367). -/
def State.regionRolled (s : State) (n : Nat) (bad : Option (BitVec 7)) : State :=
  let s := { s with mem := s.mem.purge (inWindow n) }
  let s := s.onRgn n (fun r => { r with scrubPtr := 0, scrubWb := [], needsClear := false }.toRun)
  (((s.setRollSt (rollIdx 0 n) 2 bad).setSig 0 n bad.isNone)).keeperIrq (.roll (.region n))

/-- A cluster's registers as a roll leaves them (R364). -/
def Core.rolled (c : Core) : Core :=
  { c with
    w := [], a := [], f := [], t := [], ac := [], cst := { pl := .u }, causeS := 0, causeM := 0, vprog := 0
    vmode := 0, fmode := 0, vm1 := 0, vm2 := 0, fm1 := 0, fm2 := 0, cnt := 0, lk := 0, mh := 0, ml := 0
    vfc := 0, vfe := 0, vfa := 0, resv := none, rolling := false }

/-- What a cluster roll leaves (R364). -/
def State.clusterRolled (s : State) (k : Nat) (bad : Option (BitVec 7)) : State :=
  let a := 0x40000000 + k * 0x4000
  let here (x : Nat) : Bool := decide (a ≤ x) && decide (x < a + 0x4000)
  let s := { s with mem := s.mem.purge here, walkWb := s.walkWb.filter (fun w => !here w.addr) }
  let s := s.onCore k Core.rolled
  ((s.setRollSt (rollIdx 1 k) 2 none).setSig 1 k bad.isNone).keeperIrq (.roll (.cluster k))

/-- ROLL_END (R364, R365): for a region with the lowest physical square that mismatched, if any; for a cluster whether
its signature is the published one. -/
def execRollEnd (tgt : RollTarget) (bad : Option (BitVec 7)) (s : State) : Out :=
  match tgt with
  | .region n =>
    if !s.regionOn n then noUnit else if (s.rgn n).pstate != .rolling then ok s else ok (s.regionRolled n bad)
  | .cluster k =>
    if !s.clusterOn k then noUnit
    else if !(s.core k).rolling || (s.rgn (homeOf k)).pstate != .run then ok s
    else ok (s.clusterRolled k bad)

end Sys2Proof.Machine
end

