-- ==== Sys2Proof/Machine/Words.lean ====
section
/-! DEFINITION. What a steward core reads in its words: the layouts, major opcodes and functions of the instruction set
(R133, R134, R237-R256). A word with a reserved opcode, function or bit is no instruction (R240). -/

namespace Sys2Proof.Machine

/-- Five bits of a word from bit lo. -/
def f5 (w : Word) (lo : Nat) : BitVec 5 := w.extractLsb' lo 5
/-- Three bits of a word from bit lo. -/
def f3 (w : Word) (lo : Nat) : BitVec 3 := w.extractLsb' lo 3

/-- A word pair is the instruction i where its reserved bits are 0. -/
def given (ok : Bool) (i : Instr) : Option Instr := if ok then some i else none

/-- SYS, layout FN (R237, R252); the word 0x00000 is NOP. -/
def sysWord (k : Nat) (w : Word) : Option Instr :=
  let a := f5 w 10
  let b := f5 w 5
  match bits w 4 0 with
  | 0 => given (a == 0 && b == 0) (.nop k)
  | 1 => given (a == 0 && b == 0) (.sync k)
  | 2 => given (a == 0 && b == 0) (.isync k)
  | 3 => given (a == 0 && b == 0) (.ret k)
  | 4 => given (bits w 14 13 == 0 && b == 0) (.jr k (f3 w 10))
  | 5 => given (bits w 14 13 == 0 && b == 0) (.jalr k (f3 w 10))
  | 6 => some (.mfc k a b)
  | 7 => some (.mtc k a b)
  | 8 => given (a == 0) (.rep k b)
  | 9 => given (a == 0) (.signal k b)
  | 10 => some (.gate k (w.extractLsb' 5 10))
  | 11 => some (.bkpt k (w.extractLsb' 5 10))
  | 12 => given (a == 0 && b == 0) (.rfe k)
  | 13 => given (a == 0 && b == 0) (.rfg k)
  | _ => none

/-- IMM (R243). -/
def immWord (k : Nat) (w v : Word) : Option Instr :=
  let d := f5 w 10
  let s := f5 w 5
  match bits w 4 0 with
  | 0 => some (.addi k d s v)
  | 1 => some (.subi k d s v)
  | 2 => some (.andi k d s v)
  | 3 => some (.ori k d s v)
  | 4 => some (.xori k d s v)
  | 5 => given (s == 0) (.movi k d v)
  | _ => none

/-- The options RDEF, RM and SAT from bit lo (R244, R256). -/
def optAt (v : Word) (lo : Nat) : Opt :=
  { rdef := bit v (lo + 4), rm := v.extractLsb' (lo + 2) 2, sat := v.extractLsb' lo 2 }

/-- X (R244, R245): C9 is reserved but for the immediate shifts, an unused register field is 0, SAT is not 11. -/
def xWord (k : Nat) (w v : Word) : Option Instr :=
  let d := f5 w 10
  let s := f5 w 5
  let t := f5 w 0
  let o := optAt v 9
  let c : BitVec 9 := v.extractLsb' 0 9
  let three (i : Instr) : Option Instr := given (o.sat != 3 && c == 0) i
  let two (i : Instr) : Option Instr := given (o.sat != 3 && c == 0 && t == 0) i
  let shift (i : Instr) : Option Instr := given (o.sat != 3 && t == 0) i
  match bits v 19 14 with
  | 0 => three (.adds k d s t o.sat)
  | 1 => three (.subs k d s t o.sat)
  | 2 => two (.neg k d s o.sat)
  | 3 => two (.abs k d s o.sat)
  | 4 => three (.shls k d s t o.sat)
  | 5 => shift (.shli k d s c)
  | 6 => shift (.shri k d s c)
  | 7 => shift (.shai k d s c)
  | 8 => shift (.shlsi k d s c o.sat)
  | 9 => shift (.shar k d s c o)
  | 10 => three (.mulu k d s t o.sat)
  | 11 => three (.mulq k d s t o)
  | 12 => three (.mulwu k d s t)
  | 13 => given (o.sat != 3 && c == 0 && d == 0) (.mstart k s t)
  | 14 => three (.div k d s t o.sat)
  | 15 => three (.divu k d s t)
  | 16 => three (.divq k d s t o.sat)
  | 17 => three (.divw k d s t o.sat)
  | 18 => three (.divwu k d s t o.sat)
  | 19 => three (.min k d s t)
  | 20 => three (.max k d s t)
  | 21 => three (.minu k d s t)
  | 22 => three (.maxu k d s t)
  | _ => none

/-- FP (R254, R255). -/
def fpWord (k : Nat) (w v : Word) : Option Instr :=
  let d := f5 w 10
  let s := f5 w 5
  let t := f5 w 0
  let wd := bit v 13
  let aux := f3 v 10
  let wx := f5 v 5
  let is (i : Instr) : Option Instr := given (bits v 3 0 == 0) i
  match bits v 19 14 with
  | 0 => is (.fadd k wd d s t)
  | 1 => is (.fsub k wd d s t)
  | 2 => is (.fmul k wd d s t)
  | 3 => is (.fdiv k wd d s t)
  | 4 => given (bits v 3 0 == 0 && t == 0) (.fsqrt k wd d s)
  | 5 => is (.fmin k wd d s t)
  | 6 => is (.fmax k wd d s t)
  | 7 => is (.fabs k wd d s)
  | 8 => is (.fneg k wd d s)
  | 9 => is (.fmov k wd d s)
  | 10 => given (bits v 3 0 == 0 && d == 0) (.fcmp k wd wx s t aux)
  | 11 => is (.fcvt k wd d s)
  | 12 => is (.ftow k wd wx s aux (bit v 4))
  | 13 => is (.ffrw k wd d wx aux)
  | 14 => is (.fmfw k wd wx s)
  | 15 => is (.fmtw k wd d wx)
  | _ => none

/-- SV (R256, R257): a field that an operation does not use is 0. -/
def svWord (k : Nat) (w v : Word) : Option Instr :=
  let d := f3 w 12
  let a := f3 w 9
  let b := f3 w 6
  let f : SvForm := { lf := v.extractLsb' 18 2, ef := v.extractLsb' 16 2 }
  let o := optAt v 11
  let c := f3 v 8
  let p : BitVec 8 := v.extractLsb' 0 8
  let noRm := !o.rdef && o.rm == 0
  let noOpt := noRm && o.sat == 0
  let lanes (i : Instr) : Option Instr := given (noOpt && c == 0 && p == 0) i
  let narrows (i : Instr) : Option Instr := given (noRm && c == 0 && p == 0) i
  let shift (i : Instr) : Option Instr := given (noOpt && b == 0 && c == 0) i
  match bits w 5 0 with
  | 0x00 => narrows (.sadd k f d a b o.sat)
  | 0x01 => narrows (.ssub k f d a b o.sat)
  | 0x02 => lanes (.sand k f d a b)
  | 0x03 => lanes (.sor k f d a b)
  | 0x04 => lanes (.sxor k f d a b)
  | 0x05 => shift (.sshl k f d a p)
  | 0x06 => shift (.sshr k f d a p)
  | 0x07 => shift (.ssha k f d a p)
  | 0x08 => given (noRm && b == 0 && c == 0) (.sshls k f d a p o.sat)
  | 0x09 => given (noOpt && p == 0) (.scmp k f d a b c)
  | 0x0A => given (noOpt && p == 0) (.ssel k f d c a b)
  | 0x0B => lanes (.smin k f d a b)
  | 0x0C => lanes (.smax k f d a b)
  | 0x0D => given (noRm && b == 0 && c == 0 && p == 0) (.sabs k f d a o.sat)
  | 0x0E => given (noRm && b == 0 && c == 0 && p == 0) (.sneg k f d a o.sat)
  | 0x0F => given (b == 0 && c == 0 && !bit p 6) (.ssrs k f d a (p.extractLsb' 0 6) (bit p 7) o)
  | 0x10 => given (b == 0 && c == 0 && !bit p 6) (.ssrsp k d a (p.extractLsb' 0 6) { f := f, hi := bit p 7 } o)
  | 0x11 => given (c == 0 && p == 0) (.smulq k f d a b o)
  | 0x12 => lanes (.smulwL k f d a b)
  | 0x13 => lanes (.smulwH k f d a b)
  | 0x14 => lanes (.sdot k f d a b)
  | 0x15 => narrows (.sdota k f d a b o.sat)
  | 0x16 => lanes (.sfadd k f d a b)
  | 0x17 => lanes (.sfsub k f d a b)
  | 0x18 => lanes (.sfmul k f d a b)
  | 0x19 => given (noOpt && b == 0 && c == 0 && bits p 6 4 == 0) (.scvt k f d a (p.extractLsb' 0 3) (bit p 3) (bit p 7))
  | 0x1A => given (noOpt && a == 0 && b == 0 && c == 0 && bits p 7 5 == 0) (.sspl k f d (p.extractLsb' 0 5))
  | 0x1B => given (noOpt && f.lf == 0 && f.ef == 0 && a == 0 && b == 0 && bits p 7 5 == 0) (.smtl k d c (p.extractLsb' 0 5))
  | 0x1C => given (noOpt && f.lf == 0 && f.ef == 0 && d == 0 && b == 0 && bits p 7 5 == 0) (.smfl k (p.extractLsb' 0 5) a c)
  | 0x1D => given (noOpt && f.lf == 0 && f.ef == 0 && b == 0 && c == 0 && p == 0) (.smov k d a)
  | _ => none

/-- BR (R250). -/
def brWord (k : Nat) (w v : Word) : Option Instr :=
  let s := f5 w 5
  let t := f5 w 0
  let flag (i : Instr) : Option Instr := given (s == 0 && t == 0) i
  match bits w 14 10 with
  | 0 => some (.beq k s t v)
  | 1 => some (.bne k s t v)
  | 2 => some (.blt k s t v)
  | 3 => some (.bge k s t v)
  | 4 => some (.bltu k s t v)
  | 5 => some (.bgeu k s t v)
  | 6 => flag (.bcs k v)
  | 7 => flag (.bcc k v)
  | 8 => flag (.bmi k v)
  | 9 => flag (.bpl k v)
  | 10 => flag (.bzs k v)
  | 11 => flag (.bzc k v)
  | 12 => flag (.b k v)
  | _ => none

/-- J and JAL (R251). -/
def jWord (k : Nat) (w v : Word) : Option Instr :=
  let o : BitVec 30 := w.extractLsb' 0 10 ++ v
  match bits w 14 10 with
  | 0 => some (.j k o)
  | 1 => some (.jal k o)
  | _ => none

/-- AOP (R249): fields and the second word are 0 where an instruction does not use them. -/
def aopWord (k : Nat) (w v : Word) : Option Instr :=
  let a := f3 w 12
  let b := f3 w 9
  let n := f5 w 4
  let imm (i : Instr) : Option Instr := given (b == 0 && n == 0) i
  let move (i : Instr) : Option Instr := given (b == 0 && v == 0) i
  match bits w 3 0 with
  | 0 => given (v == 0) (.adda k a b n)
  | 1 => given (n == 0) (.addai k a b v)
  | 2 => imm (.lal k a v)
  | 3 => imm (.lah k a v)
  | 4 => move (.mtal k a n)
  | 5 => move (.mtah k a n)
  | 6 => move (.mfal k n a)
  | 7 => move (.mfah k n a)
  | 8 => move (.mtam k a n)
  | 9 => move (.mfam k n a)
  | 10 => imm (.upda k a v)
  | 11 => given (n == 0 && v == 0) (.mova k a b)
  | _ => none

/-- MEM2 (R247). -/
def mem2Word (k : Nat) (w v : Word) : Option Instr :=
  let r := f5 w 10
  let x := f3 w 10
  let a := f3 w 7
  let mode : BitVec 2 := w.extractLsb' 5 2
  let e : Mem2 := { a := a, mode := mode, x := v }
  let ok := decide (mode.toNat < 2 ∨ v.toNat < 32)
  let reg (i : Instr) : Option Instr := given ok i
  let short (i : Instr) : Option Instr := given (ok && bits w 14 13 == 0) i
  let lane (i : Instr) : Option Instr := given (bits w 14 13 == 0 && mode == 0 && decide (v.toNat < 8)) i
  let atom (n : Nat) (i : Instr) : Option Instr := given (mode == 0 && decide (v.toNat < n)) i
  match bits w 4 0 with
  | 0x00 => reg (.lw k r (.two e))
  | 0x01 => reg (.sw k r (.two e))
  | 0x02 => reg (.ld k r (.two e))
  | 0x03 => reg (.sd k r (.two e))
  | 0x04 => reg (.lq k r e)
  | 0x05 => reg (.sq k r e)
  | 0x06 => short (.la k x e)
  | 0x07 => short (.sa k x e)
  | 0x08 => reg (.lf k r e)
  | 0x09 => reg (.sf k r e)
  | 0x0A => reg (.lfw k r e)
  | 0x0B => reg (.sfw k r e)
  | 0x0C => atom 1 (.lwx k r a)
  | 0x0D => atom 32 (.swx k (f5 v 0) r a)
  | 0x0E => short (.vld k x e)
  | 0x0F => short (.vst k x e)
  | 0x10 => short (.vld2 k x e)
  | 0x11 => short (.vld3 k x e)
  | 0x12 => short (.vld4 k x e)
  | 0x13 => lane (.vgath k x a (f3 v 0))
  | 0x14 => lane (.vscat k x a (f3 v 0))
  | 0x15 => atom 32 (.xadd k r (f5 v 0) a)
  | _ => none

/-- The words of major 11110 (R133). -/
def chainWord (k : Nat) (w : Word) : Option Instr :=
  match bits w 14 12 with
  | 0 => some (.chain k (f3 w 9) (w.extractLsb' 5 4) (f5 w 0))
  | 1 => given (bits w 11 0 == 0) (.vbar k)
  | 2 => some (.mtt k (w.extractLsb' 8 4) (f3 w 5) (f5 w 0))
  | 3 => some (.mft k (f5 w 0) (w.extractLsb' 8 4) (f3 w 5))
  | 4 => given (bits w 6 5 != 3) (.mtac k (w.extractLsb' 10 2) (f3 w 7) (w.extractLsb' 5 2) (f5 w 0))
  | 5 => given (bits w 6 5 != 3) (.mfac k (f5 w 0) (w.extractLsb' 10 2) (f3 w 7) (w.extractLsb' 5 2))
  | _ => none

/-- The address operand of layout M1 (R237, R246). -/
def m1Ea (w : Word) : MemEa := .one (f3 w 7) (w.extractLsb' 5 2) (f5 w 0)

/-- The instruction that core k decodes from its word w and the word v that follows it, outside a group body; none where
w is no instruction, as a reserved major is none and a long-vector word (R134, R239, R240). -/
def wordInstr (k : Nat) (w v : Word) : Option Instr :=
  let d := f5 w 10
  let s := f5 w 5
  let t := f5 w 0
  match bits w 19 15 with
  | 0 => sysWord k w
  | 1 => some (.add k d s t)
  | 2 => some (.sub k d s t)
  | 3 => some (.adc k d s t)
  | 4 => some (.sbc k d s t)
  | 5 => some (.and k d s t)
  | 6 => some (.or k d s t)
  | 7 => some (.xor k d s t)
  | 8 => some (.mul k d s t)
  | 9 => some (.mulw k d s t)
  | 10 => some (.shl k d s t)
  | 11 => some (.shr k d s t)
  | 12 => some (.sha k d s t)
  | 13 => some (.lw k d (m1Ea w))
  | 14 => some (.sw k d (m1Ea w))
  | 15 => some (.ld k d (m1Ea w))
  | 16 => some (.sd k d (m1Ea w))
  | 17 => immWord k w v
  | 18 => xWord k w v
  | 19 => fpWord k w v
  | 20 => svWord k w v
  | 21 => brWord k w v
  | 22 => jWord k w v
  | 23 => given (bits w 9 0 == 0) (.dbnz k d v)
  | 24 => given (bits w 14 0 == 0) (.repi k v)
  | 25 => aopWord k w v
  | 26 => some (.wait k d s t)
  | 27 => mem2Word k w v
  | 30 => chainWord k w
  | _ => none

end Sys2Proof.Machine
end

