-- ==== Sys2Proof/Machine/System.lean ====
section
/-! DEFINITION. System instructions: barriers, control registers, SIGNAL, gates, returns, WAIT, and the events that a
steward core takes at an instruction boundary (R194, R195, R212, R225, R252, R253, R264-R282, R389). -/

namespace Sys2Proof.Machine

/-! ## NOP, SYNC, ISYNC (R220, R225, R252) -/

/-- NOP (R252). -/
def execNop (k : Nat) (s : State) : Out := s.instr k (fun c => s.done k (c.retire 1))

/-- An instruction that holds X until the store buffer is empty (R220). -/
def State.drained1 (s : State) (k : Nat) (body : State → Out) : Out :=
  match s.drainStores k with
  | .hold s => ok s
  | .done s => body s

/-- SYNC (R220, R252). -/
def execSync (k : Nat) (s : State) : Out :=
  s.instr k (fun _ => s.drained1 k (fun s => s.done k ((s.core k).retire 1)))

/-- ISYNC (R225): after the drain every line of the fetch buffer is discarded, and fetch starts again. -/
def execIsync (k : Nat) (s : State) : Out :=
  s.instr k (fun _ => s.drained1 k (fun s =>
    let c := s.core k
    s.done k { c.jump 1 (c.pc + 1) with fbuf := [], stale := [] }))

/-! ## MFC and MTC (R212, R213, R261, R262) -/

/-- A control register that U may not reach: 16 to 31, and CAUSE, which is never written, for a read (R212, R258). -/
def isPrivCtl (n : Nat) (rd : Bool) : Bool := (rd && n == 1) || decide (16 ≤ n)

/-- The vector-state registers, which wait for the groups of an outgoing context (R199). -/
def isVecCtl (n : Nat) : Bool := n == 2 || (decide (10 ≤ n) && decide (n ≤ 13))

/-- A control register that is not reserved. -/
def isCtl (n : Nat) : Bool := decide (n ≤ 13) || (decide (16 ≤ n) && decide (n ≤ 27))

/-- A control register that can be written. -/
def isCtlRw (n : Nat) : Bool := isCtl n && !([1, 11, 12, 13, 23].contains n)

/-- An access to control register n: the level, the number, and a wait for an outgoing context's groups. -/
def State.ctlAccess (s : State) (k n : Nat) (rd legal : Bool) (body : Core → Out) : Out :=
  s.instr k (fun c =>
    if c.cst.pl == .u && isPrivCtl n rd then s.privFault k
    else if !legal then s.illegal k
    else if c.victim && isVecCtl n then ok s
    else body c)

/-- MFC Wd, n (R212). -/
def execMfc (k : Nat) (d n : BitVec 5) (s : State) : Out :=
  s.ctlAccess k n.toNat true (isCtl n.toNat) (fun c => s.done k ((c.retire 1).setW d ((c.ctl n.toNat).getD 0)))

/-- The bits of a control register that are not reserved, and whether writing it acts (R14, R81, R82, R165, R213, R262,
R276, R279). -/
def ctlForm (n : Nat) : Word × Bool :=
  match n with
  | 0 => (0x00F87, false)
  | 3 => (0x003F0, false)
  | 4 => (0x01FFF, false)
  | 10 => (0xFFFE7, true)
  | 22 => (0x003FF, false)
  | 24 => (0xCFFFF, false)
  | 26 => (0x00103, true)
  | 27 => (0x00103, false)
  | _ => (0xFFFFF, false)

/-- A control register written by MTC at the executing level. -/
def Core.putCtl (c : Core) (n : Nat) (v : Word) : Core :=
  match n with
  | 0 => c.setCst c.cst.pl v
  | 2 => c.writeVprog v
  | 3 => c.setVmode v
  | 4 => c.setFmode v
  | 5 => { c with cnt := v }
  | 6 => { c with lk := putLo c.lk v }
  | 7 => { c with lk := putHi c.lk v }
  | 8 => { c with mh := v }
  | 9 => { c with ml := v }
  | 10 => c.writeVfc v
  | 16 => { c with evb := putLo c.evb (v &&& 0xFFF00) }
  | 17 => { c with evb := putHi c.evb v }
  | 18 => { c with ssb := putLo c.ssb v }
  | 19 => { c with ssb := putHi c.ssb v }
  | 20 => { c with gtb := putLo c.gtb (v &&& 0xFFFFC) }
  | 21 => { c with gtb := putHi c.gtb v }
  | 22 => { c with gtn := gtnOf v }
  | 24 => c.setWctl c.cst.pl v
  | 25 => c.reload
  | 26 => c.setIpend c.cst.pl v
  | 27 => c.setImask c.cst.pl v
  | _ => c

/-- MTC of a number: a value with reserved bits set is unpredictable; a register takes a free value of its other bits,
and one that acts does nothing (R14, R15, DESIGN CHOICE log 16). -/
def State.mtc (s : State) (k n : Nat) (rs : BitVec 5) : Out :=
  s.ctlAccess k n false (isCtlRw n) (fun c =>
    let v := c.wr rs
    let f := ctlForm n
    let d := c.retire 1
    if v &&& ~~~ f.1 = 0 then s.done k (d.putCtl n v)
    else if f.2 then s.done k d
    else
      let x := s.draw 20
      x.2.done k (d.putCtl n (x.1 &&& f.1)))

/-- MTC n, Ws (R212). -/
def execMtc (k : Nat) (n rs : BitVec 5) (s : State) : Out := s.mtc k n.toNat rs

/-- A write of VFC (R165, R170). -/
def execVfcDiscard (k : Nat) (rs : BitVec 5) (s : State) : Out := s.mtc k 10 rs

/-- A write of VPROG (R169). -/
def execVprogWrite (k : Nat) (rs : BitVec 5) (s : State) : Out := s.mtc k 2 rs

/-- A write of WDOG_CNT (R279, R280). -/
def execWdogCntWrite (k : Nat) (rs : BitVec 5) (s : State) : Out := s.mtc k 25 rs

/-! ## SIGNAL (R195) -/

/-- SIGNAL Wc (R195): after the store buffer has drained, SIGNAL is set in context Wc. -/
def execSignal (k : Nat) (c : BitVec 5) (s : State) : Out :=
  s.instr k (fun c0 =>
    let x := (c0.wr c).toNat
    if c0.cst.pl == .u && s.ctxState x != 0 && ctlGroup (s.ctl x) != ctlGroup (s.ctl c0.ctx) then s.privFault k
    else s.drained1 k (fun s => ok ((s.setCore k ((s.core k).retire 1)).wakeCtx x 4)))

/-! ## BKPT and GATE (R252, R270, R271) -/

/-- BKPT k (R252, R264): the return point is the instruction after it, or under REP the next repetition. -/
def execBkpt (k : Nat) (_code : BitVec 10) (s : State) : Out :=
  s.instr k (fun c => s.takeExc k { code := 8, lvl := c.cst.pl.home, ret := if c.rep.isSome then c.pc else c.pc + 1 })

/-- The four words of a gate entry as a core reads them. -/
structure GateEntry where
  tgt : Dbl
  v : Bool
  uok : Bool
  ap : BitVec 2
  rsv : Bool

/-- A gate entry from its words (R270). -/
def gateEntry (l : List Word) : GateEntry :=
  let w2 := l.getD 2 0
  { tgt := dbl (l.getD 0 0) (l.getD 1 0), v := bit w2 19, uok := bit w2 18, ap := w2.extractLsb' 16 2
    rsv := decide (bits w2 15 0 ≠ 0 ∨ l.getD 3 0 ≠ 0) }

/-- The kinds of access that AP names. -/
def apNeeds (ap : BitVec 2) : List Need := (if bit ap 0 then [.r] else []) ++ (if bit ap 1 then [.w] else [])

/-- The argument words lie in one window that grants every permission AP names (R271 step 4). -/
def State.argsOk (s : State) (c : Core) (ap : BitVec 2) (a0 : Dbl) (w1 : Word) : Bool :=
  ap == 0 || c.cst.pl == .m || w1 == 0
    || [0, 1, 2, 3].any (fun w => (apNeeds ap).all (fun n => s.windowGrants c.ctx w n a0.toNat (a0.toNat + w1.toNat - 1)))

/-- A core after a gate call (R271 step 6). -/
def Core.gated (c : Core) (t : Priv) (cause : Word) (tgt : Dbl) : Core :=
  let d := (c.setW30 t (c.w30 t - 8)).setCause t cause
  { d with
    cst := { c.cst with pl := t, rpt := false }, resv := none, pc := tgt, inVec := false
    rc := if c.rc == RcState.stepping then RcState.halting else c.rc }.sync

/-- GATEF at the GATE (R264, R271). -/
def State.gateFault (s : State) (k sub : Nat) : Out :=
  let c := s.core k
  s.takeExc k { code := 10, sub := sub, lvl := c.cst.pl.home, ret := c.pc }

/-- A gate call whose checks have passed (R271 steps 5 and 6). -/
def State.callGate (s : State) (k : Nat) (t : Priv) (g : Nat) (tgt : Dbl) : Out :=
  let c := s.core k
  let x : Exc := { code := 9, lvl := t, ret := c.pc + 1, info := BitVec.ofNat 40 g }
  match s.pushFrame k t (x.frame c.cstWord) with
  | .hold s => ok s
  | .done s => ok (s.onCore k (fun c => c.gated t x.cause tgt))
  | .fail f => if t = .m then ok (s.haltCore k 1) else ok (s.stackFault k 1 x.ret f x.cause)

/-- The checks of a gate entry that has been read, in the order of R271, with the argument registers as the GATE read
them. -/
def State.gateEntered (s : State) (k : Nat) (c0 : Core) (t : Priv) (g : Nat) (e : GateEntry) : Out :=
  if !e.v || e.rsv then s.gateFault k 2
  else if (c0.cst.pl == .u && !e.uok) || (c0.cst.pl == .m && t == .s) then s.gateFault k 3
  else if !s.argsOk c0 e.ap (c0.ar 0) (c0.wr 1) then s.gateFault k 4
  else s.callGate k t g e.tgt

/-- GATE g (R270, R271). An entry whose words cannot be read is no valid entry: of the exceptions of R258, GATE raises
GATEF (DEDUCED log 48). -/
def execGate (k : Nat) (g : BitVec 10) (s : State) : Out :=
  s.instr k (fun c0 =>
    let n := g.toNat
    let t : Priv := if n < 512 then .s else .m
    let i := n % 512
    match s.drainLoads k with
    | .hold s => ok s
    | .done s (some f) => s.loadFault k f
    | .done s none =>
      if (if t = .s then c0.gtn else c0.mgtn).toNat ≤ i then s.gateFault k 1
      else
        let l := addrsFrom ((if t = .s then c0.gtb else c0.mgtb) + BitVec.ofNat 40 (4 * i)) 4
        match s.checkAccess k (s.core k) [] false false l with
        | some _ => s.gateFault k 2
        | none =>
          match s.beforeLoad k l false with
          | (.hold s, _) => ok s
          | (.done s, some ws) => s.gateEntered k c0 t n (gateEntry ws)
          | (.done s, none) =>
            match s.readMixed (.core k) l with
            | .hold s => ok s
            | .got s (.bad _ _) => s.gateFault k 2
            | .got s (.ok ws) => s.gateEntered k c0 t n (gateEntry ws))

/-! ## RFE and RFG (R272-R275, R227, R170) -/

/-- What reading a frame gives: a wait, a failure, or its words; with its address. -/
inductive FrameRd where
  | hold (s : State)
  | fail (s : State) (f : Dbl)
  | got (s : State) (f : Dbl) (ws : List Word)

/-- The frame of a return is the one in the scratch area (R268). -/
def Core.fromScratch (c : Core) (rfg : Bool) : Bool := c.cst.pl == .m && c.sfh && !rfg

/-- Device address of the scratch frame of cluster k (R263, R268). -/
def scratchFrame (k : Nat) : Dbl := BitVec.ofNat 40 (0x30200000 + k * 0x400 + 0x3F8)

/-- The frame of a return read (R272, R273). -/
def State.readFrame (s : State) (k : Nat) (rfg : Bool) : FrameRd :=
  let c := s.core k
  let t := c.cst.pl
  let f := c.base t + (c.w30 t).zeroExtend 40
  if c.fromScratch rfg then .got s (scratchFrame k) ((List.range 8).map (fun i => SMap.get 0 c.scratch (0xF8 + i)))
  else if (c.w30 t).toNat % 8 ≠ 0 ∨ s.frameOk c t f .r = false then .fail s f
  else
    match s.readMixed (.core k) (addrsFrom f 8) with
    | .hold s => .hold s
    | .got s (.bad _ _) => .fail s f
    | .got s (.ok ws) => .got s f ws

/-- The subcause with which a return is refused, if any (R274 step 1). -/
def refusal (pl : Priv) (rfg : Bool) (w0 w1 : Word) : Option Nat :=
  let fpl := bits w0 11 10
  if fpl = 2 ∨ pl.code < fpl then some 1
  else if w0 &&& 0xFF078 ≠ 0 then some 3
  else if rfg ∧ bits w1 4 0 ≠ 9 then some 2
  else none

/-- What every return that is not refused does (R274 step 2, R268): W30 of the level popped, SFH cleared where the frame
came from the scratch area, and the reservation dropped (DEDUCED log 46). -/
def Core.popped (c : Core) (rfg : Bool) : Core :=
  { c.setW30 c.cst.pl (c.w30 c.cst.pl + 8) with sfh := c.sfh && !c.fromScratch rfg, resv := none }

/-- The level named by a frame's CST word. -/
def frameLevel (w0 : Word) : Priv := (Priv.ofCode (bits w0 11 10)).getD .u

/-- CST after a return: RFE takes the frame's, RFG keeps N, Z and C (R274). -/
def Cst.restored (c : Cst) (rfg : Bool) (w0 : Word) : Cst :=
  let x := Cst.ofWord w0 (frameLevel w0)
  if rfg then { x with n := c.n, z := c.z, c := c.c } else x

/-- Control passes to a return point with a restored CST; RPT starts its repetitions (R227). -/
def Core.returned (c : Core) (cst : Cst) (pc : Dbl) : Core :=
  let d := c.jump 1 pc
  { d with cst := { cst with rpt := false }, rep := if cst.rpt then some c.cnt.toNat else none, repNew := cst.rpt }

/-- A return whose frame has been read (R274, R275). -/
def State.finishReturn (s : State) (k : Nat) (rfg : Bool) (f : Dbl) (ws : List Word) : Out :=
  let c := s.core k
  let w0 := ws.getD 0 0
  let ret := dbl (ws.getD 2 0) (ws.getD 3 0)
  match refusal c.cst.pl rfg w0 (ws.getD 1 0) with
  | some x => s.takeExc k { code := 11, sub := x, lvl := c.cst.pl, ret := c.pc, info := f }
  | none =>
    if c.mflt then
      s.done k { c.popped rfg with
        mflt := false, pc := ret, cst := Cst.ofWord w0 (frameLevel w0), preempt := some .machine, phase := .leaving }
    else
      let cst := c.cst.restored rfg w0
      match s.reissue k { c with cst := cst } with
      | .hold s => ok s
      | .done s => s.done k (s.skipZero (((s.core k).popped rfg).returned cst ret))

/-- RFE or RFG (R252, R272-R275). -/
def State.return (s : State) (k : Nat) (rfg : Bool) : Out :=
  s.instr k (fun c =>
    if c.cst.pl == .u then s.privFault k
    else
      match s.drainLoads k with
      | .hold s => ok s
      | .done s (some f) => s.loadFault k f
      | .done s none =>
        s.drained1 k (fun s =>
          match s.readFrame k rfg with
          | .hold s => ok s
          | .fail s f => if c.cst.pl == .m then ok (s.haltCore k 2) else ok (s.stackFault k 2 c.pc f 0)
          | .got s f ws => s.finishReturn k rfg f ws))

/-- RFE (R252). -/
def execRfe (k : Nat) (s : State) : Out := s.return k false
/-- RFG (R252). -/
def execRfg (k : Nat) (s : State) : Out := s.return k true

/-! ## WAIT (R194, R253) -/

/-- CB.DEADLINE (R179). -/
def State.deadline (s : State) (c : Nat) : BitVec 60 := (s.cb c 11 ++ s.cb c 10) ++ s.cb c 9

/-- CB.DEADLINE written. -/
def State.setDeadline (s : State) (c : Nat) (v : BitVec 60) : State :=
  ((s.setCb c 9 (v.extractLsb' 0 20)).setCb c 10 (v.extractLsb' 20 20)).setCb c 11 (v.extractLsb' 40 20)

/-- The DEADLINE cause of a WAIT (R193): its bit is in the new mask and PIP_NOW has reached the deadline. -/
def State.lateAt (s : State) (c : Nat) (mask : Nat) : Nat :=
  if mask / 2 % 2 = 1 ∧ (s.deadline c).toNat ≤ s.pip.now.toNat then 2 else 0

/-- The words of a control block that a WAIT reads are counted and logged; none where one cannot be read (R349). -/
def State.cbReads (s : State) (who : LogWho) (c : Nat) : List Nat → State × Bool
  | [] => (s, true)
  | w :: l =>
    match s.cbRead who c w with
    | (s, none) => (s, false)
    | (s, some _) => State.cbReads s who c l

/-- The access of WAIT to CB.WAKE and CB.DEADLINE (R194): the mask, the deadline, and m with its causes not yet
cleared. -/
def State.waitAccess (s : State) (c : Nat) (ws wt : Word) : State × Nat :=
  let mask := bits ws 5 0
  let dm := bits ws 7 6
  let s := if dm = 1 then s.setDeadline c (s.pip.now + wt.zeroExtend 60)
    else if dm = 2 then s.setDeadline c (s.deadline c + wt.zeroExtend 60) else s
  let cause := bits (s.cb c 1) 15 10 ||| s.lateAt c mask
  let s := s.setCb c 1 (BitVec.ofNat 20 (cause * 1024 + mask))
  (s, cause &&& (mask ||| 32))

/-- WAIT Wd, Ws, Wt (R194, R253). A control block that cannot be read is left alone, and m is a free value (R349,
DEDUCED log 29). -/
def execWait (k : Nat) (d rs t : BitVec 5) (s : State) : Out :=
  s.instr k (fun c0 =>
    let ws := c0.wr rs
    if c0.cst.pl == .m || bits ws 7 6 == 3 then s.illegal k
    else
      match s.drainLoads k with
      | .hold s => ok s
      | .done s (some f) => s.loadFault k f
      | .done s none =>
        match s.cbReads (1, k) c0.ctx [0, 1, 9, 10, 11] with
        | (s, false) =>
          let x := s.draw 6
          x.2.done k (((x.2.core k).retire 1).setW d (x.1.zeroExtend 20))
        | (s, true) =>
          let r := s.waitAccess c0.ctx ws (c0.wr t)
          let s := r.1
          if r.2 ≠ 0 then
            (s.clearCauses c0.ctx r.2).done k (((s.core k).retire 1).setW d (BitVec.ofNat 20 r.2))
          else
            let s := s.setCtxState c0.ctx 2
            let s := { s with sched := { s.sched with waitRegs := SMap.set 0 s.sched.waitRegs c0.ctx (d.toNat + 1) } }
            s.done k { (s.core k).retire 1 with preempt := some .waiting, phase := .leaving })

/-! ## Illegal words and fetch faults (R223, R240, R264, R269) -/

/-- The instruction that core k decodes at its program counter (R237-R239): none where a word cannot be fetched, and
within it none where the words are no instruction (R240). -/
def State.decoded (s : State) (k : Nat) (c : Core) : Option (Option Instr) :=
  match s.fetchPeek c c.pc with
  | none => none
  | some w =>
    if wordLen w = 1 ∨ bits w 19 15 = 31 then some (wordInstr k w 0)
    else (s.fetchPeek c (c.pc + 1)).map (wordInstr k w)

/-- ILLEGAL_INSTRUCTION (R134, R240): a word at the program counter that is no instruction takes ILLEGAL; nothing happens
where the core decodes an instruction there. -/
def execIllegalInstruction (k : Nat) (s : State) : Out :=
  s.instr k (fun c => if s.decoded k c = some none then s.illegal k else ok s)

/-- The exception of a failed fetch at an address (R264, R269): the first word of a vector entry at S gives a machine
check, and at M a halt. -/
def State.fetchFails (s : State) (k : Nat) (code sub : Nat) (a : Dbl) : Out :=
  let c := s.core k
  if c.inVec && a == c.pc then
    if c.cst.pl == .m then ok (s.haltCore k 1)
    else s.takeExc k { code := 13, sub := 6, lvl := .m, ret := c.pc, info := a }
  else s.fetchExc k code sub a

/-- FETCH_FAULT (R223): the word at the program counter, or the second word of its instruction, cannot be fetched; where
both can, nothing happens. -/
def execFetchFault (k : Nat) (s : State) : Out :=
  if !s.clusterOn k then noUnit
  else if !(s.atWork k && (s.core k).free) then ok s
  else
    let c := s.core k
    match s.fetchWord k c c.pc with
    | .hold s => ok s
    | .bad s code sub => s.fetchFails k code sub c.pc
    | .ok _ w =>
      if wordLen w = 1 then ok s
      else
        match s.fetchWord k c (c.pc + 1) with
        | .hold s => ok s
        | .bad s code sub => s.fetchFails k code sub (c.pc + 1)
        | .ok _ _ => ok s

/-- The words of a line as a refill delivers them (R223). -/
def State.refill (s : State) (k : Nat) : List Nat → State × List FWord
  | [] => (s, [])
  | a :: l =>
    let r := s.readSram (1, k) a (s.locOf a)
    let q := State.refill r.1 k l
    (q.1, r.2 :: q.2)

/-- FETCH_REFILL_RETURN (R223, R225): a line that the core has asked for, of the one in F or the four that follow it,
arrives, and replaces the line whose use is oldest. It waits for buffered stores to its words. -/
def execFetchRefillReturn (k : Nat) (a : Dbl) (s : State) : Out :=
  if !s.clusterOn k then noUnit
  else
    let c := s.core k
    let b := a.toNat / 8 * 8
    let l := (List.range 8).map (fun i => b + i)
    let wanted := c.wantsLine b && !(c.fbuf.any (fun f => f.holds b)) && s.isRegion b && !c.sbuf.any (fun e => e.meets l)
    let put (s : State) (ws : List FWord) : Out :=
      let c := s.core k
      let c := { c with fbuf := c.fbuf.drop (c.fbuf.length - 7) ++ [{ base := b, ws := ws }] }
      s.done k (s.skipZero c)
    if !wanted then ok s
    else
      match s.gate (1, k) b (s.locOf b) with
      | .wait s => ok s
      | .refuse s => put s (List.replicate 8 (.bad .refused))
      | .go s => let r := s.refill k l; put r.1 r.2

/-! ## Interrupts and machine checks at a boundary (R265, R278) -/

/-- INTERRUPT_TAKEN (R265, R276, R278): the interrupt of the higher level, at an instruction boundary; of two sources of
S either may be taken. -/
def execInterruptTaken (k : Nat) (s : State) : Out :=
  if !s.clusterOn k then noUnit
  else
    let c := s.core k
    if !s.atWork k || c.div.isSome || c.mchk.isSome then ok s
    else
      match c.irq with
      | none => ok s
      | some (l, b) =>
        let x : State × Nat :=
          match b with
          | [i, j] => let d := s.drawBool; (d.2, if d.1 then i else j)
          | _ => (s, b.headD 0)
        x.1.takeExc k { code := 12, sub := x.2, lvl := l, ret := c.pc }

/-- PENDING_MCHK_TAKEN (R220, R265): the imprecise machine check of a refused store. -/
def execPendingMchkTaken (k : Nat) (s : State) : Out :=
  if !s.clusterOn k then noUnit
  else
    let c := s.core k
    match c.mchk with
    | none => ok s
    | some (a, _) =>
      if !s.atWork k || c.div.isSome then ok s
      else
        match s.drainLoads k with
        | .hold s => ok s
        | .done s (some f) => s.loadFault k f
        | .done s none =>
          match s.room k 3 with
          | .hold s => ok s
          | .done s =>
            (s.onCore k (fun c => { c with mchk := none })).enter k
              { code := 13, sub := 4, lvl := .m, ret := c.pc, info := BitVec.ofNat 40 a, w6 := 0xC0000 }

/-! ## Watchdog (R279-R281) -/

/-- PERIOD, with 0 taken as 1. -/
def Core.period (c : Core) : Nat := max 1 (bits c.wctl 15 0)

/-- The watchdog counts: enabled, a context bound, not halted (R280, R282). -/
def Core.counts (c : Core) : Bool := bit c.wctl 19 && c.bound.isSome && !c.isHalted

/-- WATCHDOG_WARNING (R280): COUNT stands at 2 × PERIOD. -/
def execWatchdogWarning (k : Nat) (s : State) : Out :=
  if !s.clusterOn k then noUnit
  else
    let c := s.core k
    if c.counts && decide (c.wcnt.toNat = 2 * c.period) then s.done k { c with ipend := c.ipend ||| 2 } else ok s

/-- WATCHDOG_EXPIRY (R281): COUNT has reached 0: the context is switched out, or the core halts at M. -/
def execWatchdogExpiry (k : Nat) (s : State) : Out :=
  if !s.clusterOn k then noUnit
  else
    let c := s.core k
    if !(c.counts && c.wcnt == 0 && c.phase == .running) then ok s
    else if c.cst.pl == .m then ok (s.haltCore k 3)
    else ok (s.requestPreempt k .wdog)

/-! ## Run control at a boundary (R389) -/

/-- CORE_HALTED (R389): a requested halt takes effect at an instruction boundary; in FIELD it waits while the core is
at M. Outstanding loads complete first; the DATA exception of one that fails waits until the core runs again (R265). -/
def execCoreHalted (k : Nat) (s : State) : Out :=
  if !s.clusterOn k then noUnit
  else
    let c := s.core k
    let held := c.bound.isSome && s.dev.lc == 2 && c.cst.pl == .m
    if c.rc != .halting || held || c.div.isSome || c.rolling || !(c.phase == .running || c.phase == .free) then ok s
    else
      match s.drainLoads k with
      | .hold s => ok s
      | .done s _ => s.done k { s.core k with rc := .halted, rcPl := c.cst.pl, resv := none, vbar := false }

end Sys2Proof.Machine
end

