-- ==== Sys2Proof/Machine/Switch.lean ====
section
/-! DEFINITION. Context commands, binding, restoring, preemption, switch-out and saving, and the other events of the
scheduler (R172-R174, R186-R199). -/

namespace Sys2Proof.Machine

/-! ## Commands of CTX_CMD (R188, R189) -/

/-- A write of CTX_CMD. -/
def State.cmdBy (s : State) (who : Master) (op : BitVec 4) : Out := s.writeBy who 0x20000 (op.zeroExtend 20)

/-- CTX_CMD ALLOC (R189). -/
def execAlloc (who : Master) (s : State) : Out := s.cmdBy who 1
/-- CTX_CMD ACTIVATE (R189). -/
def execActivate (who : Master) (s : State) : Out := s.cmdBy who 2
/-- CTX_CMD SUSPEND (R189). -/
def execSuspend (who : Master) (s : State) : Out := s.cmdBy who 3
/-- CTX_CMD WAKE (R189). -/
def execWake (who : Master) (s : State) : Out := s.cmdBy who 4
/-- CTX_CMD RESUME (R189). -/
def execResumeContext (who : Master) (s : State) : Out := s.cmdBy who 5
/-- CTX_CMD RELEASE (R189). -/
def execRelease (who : Master) (s : State) : Out := s.cmdBy who 6
/-- CTX_CMD with another OP (R189). -/
def execCtxCmdBadop (who : Master) (op : BitVec 4) (s : State) : Out := s.cmdBy who op

/-- CTX_CMD_COMPLETION (R189): a held command of a master acts on the state that results. -/
def execCtxCmdCompletion (who : Master) (s : State) : Out := ok (s.ctxComplete (bankOf who))

/-! ## Events (R184, R187, R193, R196, R198) -/

/-- DEADLINE_REACHED (R193): at the pip edge at which PIP_NOW is CB.DEADLINE, while the bit is in MASK. -/
def execDeadlineReached (c : BitVec 20) (s : State) : Out :=
  let x := c.toNat
  let r := s.cbSeen x [1, 9, 10, 11]
  if r.2 && bit (r.1.cb x 1) 1 && r.1.deadline x == r.1.pip.now then ok (r.1.wakeCtx x 1) else ok r.1

/-- A READY context of a class is homed in region n. -/
def State.waiterOf (s : State) (n cls : Nat) : Bool :=
  (SMap.get [] s.sched.ready (queueKey (dieOf n) cls)).any (fun x => ctlHome (s.ctl x) == n)

/-- SLICE_EXPIRY (R198). -/
def execSliceExpiry (k : Nat) (s : State) : Out :=
  if !s.clusterOn k then noUnit
  else
    match s.victimClass k with
    | none => ok s
    | some cls =>
      let c := s.core k
      if c.phase == .running && cls != 0 && s.sched.slice != 0 && decide (s.sched.slice.toNat ≤ c.boundPips)
          && s.waiterOf (homeOf k) cls then ok (s.requestPreempt k .slice)
      else ok s

/-- Contexts whose blocks have a word other than a clean 0, in rising order: every other context is FREE. -/
def State.liveBlocks (s : State) : List Nat :=
  let l := s.mem.filterMap (fun e =>
    if 0x20000000 ≤ e.1 ∧ e.1 < 0x22000000 then some ((e.1 - 0x20000000) / 32) else none)
  l.foldr (fun c q => if q.head? = some c then q else c :: q) []

/-- A block read by the rebuild (R187): recounted, and queued where it is READY or has a matched cause. -/
def State.rebuildOne (s : State) (c : Nat) : State :=
  match s.cbRead (9, 0) c 0 with
  | (s, none) => s
  | (s, some v) =>
    match s.cbRead (9, 0) c 1 with
    | (s, none) => s
    | (s, some w) =>
      let st := ctlState v
      let s := if isActive st then s.countIn v else s
      if st = 3 then s.enqueue c false
      else if st = 2 ∧ wakeMatch w ≠ 0 then (s.setCtxState c 3).enqueue c false
      else s

/-- QUEUE_REBUILD (R187): after a warm reset, from every block in rising order. -/
def execQueueRebuild (s : State) : Out :=
  if s.sched.rebuilt || !s.up then ok s
  else
    let s := { s with sched := { s.sched with ready := [], ua := [], ut := [], c0act := 0, rebuilt := true } }
    ok (s.liveBlocks.foldl State.rebuildOne s)

/-- INBOX_DELIVERY (R196, R326): the dispatcher's next delivery. -/
def execInboxDelivery (s : State) : Out := ok s.dispatch

/-! ## The register sets of the save area (R190) -/

/-- The bank of W30 that offset 0x01E holds, and the one that offset 0 holds (R182, R190). -/
def baseBank (save : Word) : Priv × Priv := if bit save 2 then (.s, .u) else (.u, .s)

/-- Words from an offset. -/
def wordsFrom (o : Nat) (l : List Word) : List (Nat × Word) := List.zip ((List.range l.length).map (fun i => o + i)) l

/-- The words of doubles. -/
def dblWords (l : List Dbl) : List Word := l.flatMap (fun v => [loW v, hiW v])

/-- What a core saves of its register sets, with CB.SAVE's low word (R190). -/
def Core.saveWords (c : Core) (save : Word) : List (Nat × Word) :=
  let b := baseBank save
  let w (i : Nat) : Word := if i = 0 then c.w30 b.2 else if i = 30 then c.w30 b.1 else SMap.get 0 c.w i
  wordsFrom 0 ((List.range 32).map w ++ dblWords ((List.range 8).map (fun i => SMap.get 0 c.a i))
      ++ (List.range 8).map (fun i => SMap.get 0 c.am i)
      ++ [c.cst.word false, c.vmode, c.fmode, c.cnt, loW c.lk, hiW c.lk, c.mh, c.ml])
    ++ (if bit save 0 then wordsFrom 0x40 (dblWords ((List.range 32).map (fun i => SMap.get 0 c.f i))) else [])
    ++ (if bit save 1 then
          wordsFrom 0x80 ((List.range 16).flatMap (fun t => (List.range 7).map (fun i => SMap.get 0 c.t (8 * t + i))))
        else [])

/-- A word of a read save area. -/
def areaWord (l : List (Nat × Word)) (o : Nat) : Word := ((l.find? (fun p => p.1 == o)).map (fun p => p.2)).getD 0

/-- A double of a read save area. -/
def areaDbl (l : List (Nat × Word)) (o : Nat) : Dbl := dbl (areaWord l o) (areaWord l (o + 1))

/-- The level that a restored CST gives: 10 and 11 are taken as PRIV (R182). -/
def restoredLevel (cst save : Word) : Priv :=
  if bits cst 11 10 = 0 then .u else if bits cst 11 10 = 1 then .s else (baseBank save).1

/-- The register sets restored from the words of a save area (R190), with RPT as R227 states. -/
def Core.restoreSets (c : Core) (save : Word) (l : List (Nat × Word)) : Core :=
  let b := baseBank save
  let g := areaWord l
  let w := [31, 29, 28, 27, 26, 25, 24, 23, 22, 21, 20, 19, 18, 17, 16, 15, 14, 13, 12, 11, 10, 9, 8, 7, 6, 5, 4, 3, 2, 1].foldl
    (fun m i => SMap.set 0 m i (g i)) c.w
  let w := SMap.set 0 (SMap.set 0 w (wKey b.1 30) (g 30)) (wKey b.2 30) (g 0)
  let x := Cst.ofWord (g 0x38) (restoredLevel (g 0x38) save)
  let c := { c with
    w := w
    a := (List.range 8).foldl (fun m i => SMap.set 0 m i (areaDbl l (0x20 + 2 * i))) c.a
    am := (List.range 8).foldl (fun m i => SMap.set 0 m i (g (0x30 + i))) c.am
    cst := { x with rpt := false }
    cnt := g 0x3B, lk := areaDbl l 0x3C, mh := g 0x3E, ml := g 0x3F
    rep := if x.rpt then some (g 0x3B).toNat else none, repNew := x.rpt
    f := if bit save 0 then (List.range 32).foldl (fun m i => SMap.set 0 m i (areaDbl l (0x40 + 2 * i))) c.f else c.f
    t := if bit save 1 then
        (List.range 16).foldl (fun m t => (List.range 7).foldl (fun m i => SMap.set 0 m (8 * t + i) (g (0x80 + 7 * t + i))) m) c.t
      else c.t }
  ((c.setVmode (g 0x39)).setFmode (g 0x3A)).sync

/-! ## The vector part (R173) -/

/-- The words of the accumulators, from offset 0x0F0. -/
def acWords (ac : SMap (BitVec 48)) : List Word :=
  (List.range 32).flatMap (fun i =>
    let v := SMap.get 0 ac i
    [v.extractLsb' 0 20, v.extractLsb' 20 20, (v.extractLsb' 40 8).signExtend 20])

/-- The accumulators from the words of a save area. -/
def acFrom (l : List (Nat × Word)) : SMap (BitVec 48) :=
  (List.range 32).foldl (fun m i =>
    let o := 0xF0 + 3 * i
    SMap.set 0 m i (((areaWord l (o + 2)).extractLsb' 0 8 ++ areaWord l (o + 1)) ++ areaWord l o)) []

/-- VFC of a slot: the group's record, with PEND while it awaits delivery. -/
def slotVfc (g : Group) (vfc : Word) : Word :=
  if g.vfc ≠ 0 ∧ vfc = g.vfc ||| pendBit then vfc else g.vfc

/-- The words of a slot that holds a group (R173): of a group that names more descriptors than R101 allows, the first six
are held (DESIGN CHOICE log 88). -/
def slotWords (g : Group) (vfc : Word) : List Word :=
  let rec8 (p : Nat × List Word) : List Word := (List.range 7).map (fun i => p.2.getD i 0) ++ [BitVec.ofNat 20 p.1]
  let l := g.descs.take 6
  let ds := l.flatMap rec8
  let bc := (List.range 7).flatMap (fun j => (List.range 4).map (fun i => (g.bcast.getD j []).getD i 0))
  [loW g.chain, hiW g.chain, BitVec.ofNat 20 g.len, BitVec.ofNat 20 g.vprog, g.vmode, g.fmode
  , BitVec.ofNat 20 (2 ^ 19 + 2 ^ 18 + g.n * 2 ^ 15 + l.length * 2 ^ 12), slotVfc g vfc, g.vfe
  , loW g.vfa, hiW g.vfa, 0] ++ ds ++ List.replicate (48 - ds.length) 0 ++ bc

/-- What is stored of slot i: the group, or word 6 alone (R172). -/
def slotSave (gs : List Group) (i : Nat) (vfc : Word) : List (Nat × Word) :=
  let o := 0x150 + 88 * i
  match gs[i]? with
  | some g => wordsFrom o (slotWords g vfc)
  | none => [(o + 6, 0)]

/-- The group of a slot from the words of a save area; a slot that breaks R173 gives an unpredictable group (R177). -/
def slotGroup (l : List (Nat × Word)) (i : Nat) : Option Group :=
  let o := 0x150 + 88 * i
  let g (j : Nat) : Word := areaWord l (o + j)
  let n := bits (g 6) 17 15
  let nd := bits (g 6) 14 12
  if !bit (g 6) 19 then none
  else
    let bad := decide ((n = 0 ∧ bits (g 7) 2 0 ≠ 1) ∨ 6 < nd ∨ (g 2).toNat < (g 3).toNat)
    some { chain := dbl (g 0) (g 1), n := n, body := [], len := (g 2).toNat, start := (g 3).toNat, vprog := (g 3).toNat
           pos := (g 3).toNat, vmode := g 4, fmode := g 5, stopped := true, vfc := g 7 &&& ~~~ pendBit, vfe := g 8
           vfa := dbl (g 9) (g 10), unpred := bad, unpredAcc := bad
           descs := (List.range (min nd 6)).map (fun r =>
             (bits (g (12 + 8 * r + 7)) 3 0, (List.range 8).map (fun j => if j = 7 then 0 else g (12 + 8 * r + j))))
           bcast := (List.range n).map (fun j => (List.range 4).map (fun q => g (60 + 4 * j + q))) }

/-- The vector part read from a save area (R174); slot 0 may hold a pending fault. -/
def vecFrom (l : List (Nat × Word)) (vprog : Word) : VecIn :=
  let gs := (slotGroup l 0).toList ++ (slotGroup l 1).toList
  let r : Group := gs.headD { chain := 0, n := 0, body := [], len := 0, vmode := 0, fmode := 0 }
  { ac := some (acFrom l), slots := gs, vfc := r.vfc, vfe := r.vfe, vfa := r.vfa, vprog := vprog
    fault := (slotGroup l 0).isSome && bit (areaWord l 0x157) 18 }

/-- Elements of VPROG per commit of the group of a slot, as its body words stand (R124, R169). -/
def State.slotUnit (s : State) (g : Group) : Nat :=
  let w (j : Nat) : Word :=
    let a := (g.chain + BitVec.ofNat 40 (1 + j)).toNat
    match s.peek a (s.locOf a) with | .good v _ => v | _ => 0
  ((List.range g.n).findSome? (fun j =>
    match lvDecode (w (2 * j)) (w (2 * j + 1)) with | some (.dots _ _ _ _ sg _ _) => some (8 * (sg + 1)) | _ => none)).getD 1

/-- A restored vector part takes its place (R174): a group whose fault has been delivered stays stopped, and valid slots
are re-issued otherwise. Windows apply to them as at S (R183). -/
def State.installVec (s : State) (k : Nat) (v : VecIn) : Reissue :=
  let c := s.core k
  let d : Core := { c with
    ac := v.ac.getD c.ac, groups := [], stopped := v.slots.map (fun g => { g with unit := s.slotUnit g }), vfc := v.vfc, vfe := v.vfe, vfa := v.vfa, vprog := v.vprog
    vecIn := none }
  let s := s.setCore k d
  if v.fault then .done (s.oldest k)
  else s.reissue k { d with cst := { d.cst with pl := .s } }

/-- The vector part of the outgoing context goes to the switch buffer once its groups have stopped (R172, R199 step 3). -/
def State.storeVec (s : State) (k : Nat) (o : Outgoing) : State :=
  let c := s.core k
  let ws := if o.profT then wordsFrom 0xF0 (acWords c.ac) ++ slotSave c.stopped 0 c.vfc ++ slotSave c.stopped 1 c.vfc else []
  s.setCore k { c with
    out := some { o with words := o.words ++ ws, live := false, faulted := c.pend }
    groups := [], stopped := [], vfc := 0, vfe := 0, vfa := 0, vprog := 0 }

/-! ## Switching out (R163, R172, R199) -/

/-- The core may stop here for its switch-out: at a boundary at U or S that run control does not hold, or after the
instruction that made the context leave; a voluntary switch first waits for the groups (R172, R389). -/
def State.mayLeave (s : State) (k : Nat) (why : LeaveKind) : Bool :=
  let c := s.core k
  c.out.isNone && c.vecIn.isNone && c.div.isNone && !c.rolling && !c.isHalted
    && ((c.phase == .running && c.cst.pl != .m) || c.phase == .leaving)
    && (why != .waiting || c.groups == [])

/-- VICTIM_BOUNDARY (R199): the core stops, its registers go to the switch buffer, CB.PC names the next instruction, and
the cluster is free for another context; its groups run on to their stop point. -/
def execVictimBoundary (k : Nat) (s : State) : Out :=
  if !s.clusterOn k then noUnit
  else
    match (s.core k).preempt, (s.core k).bound with
    | some why, some x =>
      if !s.mayLeave k why then ok s
      else
        match s.drainLoads k with
        | .hold s => ok s
        | .done s (some f) => s.loadFault k f
        | .done s none =>
          let c := (s.core k).saveRep
          let save := s.cb x 4
          let s := (s.setCb x 2 (loW c.pc)).setCb x 3 (hiW c.pc)
          let s := s.unclaim k
          let o : Outgoing := { ctx := x, why := why, words := c.saveWords save, profT := bit save 1, live := true }
          let d : Core := { c with
            out := some o, bound := none, preempt := none, phase := .free, claim := 0, boundPips := 0, resv := none
            stale := [], vbar := false, inVec := false }
          let s := s.setCore k d.setStop
          ok (if d.groups = [] then s.storeVec k o else s)
    | _, _ => ok s

/-- GROUP_PREEMPT_STOP (R163, R199 step 3): the oldest group of the outgoing context reaches its stop point, or no group
is left; the slots and accumulators are stored, and a vector part that waits is put in place. -/
def execGroupPreemptStop (k : Nat) (s : State) : Out :=
  if !s.clusterOn k then noUnit
  else
    let install (s : State) : Out :=
      match (s.core k).vecIn with
      | none => ok s
      | some v =>
        match s.installVec k v with
        | .hold s => ok (s.onCore k (fun c => { c with vecIn := some v, stopped := [], groups := [], vfc := 0, vfe := 0, vfa := 0 }))
        | .done s => ok s
    let c := s.core k
    match c.out with
    | none => install s
    | some o =>
      if !o.live then install s
      else
        let at_ := match c.groups with
          | [] => true
          | g :: _ => g.stopAt == some g.vprog && decide (g.vprog < g.len)
        if !at_ then ok s
        else
          let s := if c.groups = [] then s else (s.stopAll k).checkpoint k
          match (s.core k).out with
          | some o => install (s.storeVec k o)
          | none => ok s

/-! ## Saving (R182, R186, R192, R194) -/

/-- The save area lies in one region window or one HBM stack window (R182). -/
def State.areaOk (s : State) (a : Nat) : Bool :=
  match s.locOf a with
  | .region _ _ => true
  | .hbm h o => (match s.locOf (a + 511) with | .hbm g _ => g == h && decide (o + 511 < s.hbmSize) | _ => false)
  | _ => false

/-- Words of a save area in runs of consecutive offsets. -/
def runs : List (Nat × Word) → List (Nat × List Word)
  | [] => []
  | (o, v) :: l =>
    match runs l with
    | [] => [(o, [v])]
    | (p, ws) :: r => if p = o + 1 then (o, v :: ws) :: r else (o, [v]) :: (p, ws) :: r

/-- Runs written as cluster k's accesses; whether all were (R192). -/
def State.saveRuns (s : State) (k a : Nat) : List (Nat × List Word) → State × Bool
  | [] => (s, true)
  | (o, ws) :: l =>
    match s.locOf (a + o) with
    | .hbm h x =>
      (match s.hbmWrite (1, k) h ws.length x ws with
        | (s, none) => State.saveRuns s k a l
        | (s, some _) => (s, false))
    | _ => State.saveRuns (s.writeLocs (a + o) ws) k a l

/-- The state that the context takes once its save has ended (R186, R194, R198, R281); one that leaves with a pending
fault is FAULTED with VECTOR, unless it is suspended (R172). -/
def State.switchedOut (s : State) (o : Outgoing) (saved : Bool) : State :=
  let c := o.ctx
  let v := s.ctl c
  let out (s : State) : State := if ctlState v = 3 then s.dequeue c else s
  if !saved then (out s).toFaulted c 3
  else
    match o.why with
    | .suspend => (s.countOut v).setCtxState c 1
    | .wdog => s.toFaulted c (if o.faulted then 2 else 4)
    | .machine => s.toFaulted c (if o.faulted then 2 else 5)
    | .higher => if o.faulted then s.toFaulted c 2 else s.toReady c true
    | .slice => if o.faulted then s.toFaulted c 2 else s.toReady c false
    | .waiting => if o.faulted then (out s).toFaulted c 2 else s

/-- SAVE_COMPLETE (R192): the switch buffer has been written to the save area, the store buffer has drained, and the
context takes the state that its leaving gives it; a save-area access that fails makes it FAULTED. -/
def execSaveComplete (k : Nat) (s : State) : Out :=
  if !s.clusterOn k then noUnit
  else
    match (s.core k).out with
    | none => ok s
    | some o =>
      if o.live then ok s
      else
        match s.drainStores k with
        | .hold s => ok s
        | .done s =>
          let a := s.saveArea o.ctx
          let l := o.words.map (fun p => a + p.1)
          let done (s : State) (r : Bool) : Out := ok ((s.onCore k (fun c => { c with out := none })).switchedOut o r)
          if !s.areaOk a then done s false
          else
            match s.waits (.core k) l with
            | some s => ok s
            | none =>
              match l.findSome? (fun x => match s.busGate (.core k) x with | .refuse s => some s | _ => none) with
              | some s => done s false
              | none =>
                let r := s.saveRuns k a (runs o.words)
                done r.1 r.2

/-! ## Binding and restoring (R192, R197, R174) -/

/-- BIND_DECISION (R197, R200): a free cluster binds the first eligible READY context of the highest class homed in its
region; the region is woken, turns are claimed, and the watchdog is reloaded. No bind while the die fabrics are off (R333). -/
def execBindDecision (k : Nat) (s : State) : Out :=
  if !s.clusterOn k then noUnit
  else if !(s.clusterFree k && (s.core k).msetAll && (s.core k).phase == .free && s.sched.rebuilt && !s.fabricOff (dieOf (homeOf k))) then ok s
  else
    let n := homeOf k
    match s.chooseFrom n 8 with
    | (s, none) => ok s
    | (s, some x) =>
      let v := s.ctl x
      let claim := if ctlClass v = 0 then s.claimOf n else 0
      let s := s.dequeue x
      let s := { s with sched := { s.sched with
          ut := SMap.upd 0 s.sched.ut (ctlGroup v) (· + claim), binds := s.sched.binds + 1 } }
      let s := s.onCore k (fun c => { c.reload with
        bound := some x, phase := .restoring, claim := claim, boundPips := 0, bindNo := s.sched.binds, preempt := none })
      ok (s.wakeRegion n)

/-- The cluster gives up a bind. -/
def State.unbind (s : State) (k : Nat) : State :=
  (s.unclaim k).onCore k (fun c => { c with bound := none, phase := .free, claim := 0, boundPips := 0, preempt := none })

/-- The offsets that a restore reads (R174, R190). -/
def restoreOffsets (save : Word) : List Nat :=
  List.range 0x40 ++ (if bit save 0 then (List.range 0x40).map (fun i => 0x40 + i) else [])
    ++ (if bit save 1 then (List.range 0x180).map (fun i => 0x80 + i) else [])

/-- The result of the WAIT that made a context leave, written to its Wd before the first instruction (R194). -/
def State.waitResult (s : State) (k x : Nat) : State :=
  let d := SMap.get 0 s.sched.waitRegs x
  if d = 0 then s
  else
    let m := wakeMatch (s.cb x 1)
    ((s.clearCauses x m).forgetWait x).onCore k (fun c => c.setW (BitVec.ofNat 5 (d - 1)) (BitVec.ofNat 20 m))

/-- The context starts: its registers, its PC, its state, its WAIT result (R192, R194, R227). -/
def State.started (s : State) (k x : Nat) (save : Word) (l : List (Nat × Word)) : State :=
  let pc := dbl (s.cb x 2) (s.cb x 3)
  let s := s.onCore k (fun c => { c.restoreSets save l with pc := pc, phase := .running, inVec := false })
  let s := s.onCore k (fun c => s.skipZero c)
  (s.setCtxState x 4).waitResult k x

/-- RESTORE_COMPLETE (R192, R174, R186): the save area has been read and the context starts; a read that fails makes it
FAULTED and leaves the cluster free. A pending fault in slot 0 is taken at CB.PC; other slots are re-issued, at once or
after the outgoing groups have stopped. A block that cannot be read any more keeps its place in its queue (R349). -/
def execRestoreComplete (k : Nat) (s : State) : Out :=
  if !s.clusterOn k then noUnit
  else
    let c := s.core k
    match c.bound with
    | none => ok s
    | some x =>
      if c.phase != .restoring || (s.rgn (homeOf k)).pstate != .run then ok s
      else if !s.cbReadable x bindWords then ok (((s.cbSeen x bindWords).1.unbind k).enqueue x true)
      else
        let save := s.cb x 4
        let a := s.saveArea x
        let offs := restoreOffsets save
        let bad (s : State) : Out := ok ((s.unbind k).toFaulted x 3)
        if !s.areaOk a then bad s
        else
          match s.readAll (.core k) (offs.map (fun o => a + o)) with
          | .hold s => ok s
          | .got s (.bad _ _) => bad s
          | .got s (.ok ws) =>
            match s.room k 3 with
            | .hold s => ok s
            | .done s =>
              let l := List.zip offs ws
              let v : VecIn := if bit save 1 then vecFrom l (s.cb x 8) else { vprog := s.cb x 8 }
              let wait (h : State) : Out := ok { s with regions := h.regions }
              let s := s.started k x save l
              let next (s : State) : Out :=
                if v.fault then
                  s.enter k { code := 7, lvl := (s.core k).cst.pl.home, ret := (s.core k).pc }
                else ok s
              match (s.core k).out with
              | some o =>
                if o.live then next (s.onCore k (fun c => { c with vecIn := some v }))
                else
                  (match s.installVec k v with
                    | .hold h => wait h
                    | .done s => next s)
              | none =>
                match s.installVec k v with
                | .hold h => wait h
                | .done s => next s

end Sys2Proof.Machine
end

