-- ==== Sys2Proof/Machine/Resets.lean ====
section
/-! DEFINITION. Warm and cold reset, start-up, the input power's arrival and loss, the device states, and life-cycle
programming (R46, R176, R187, R292, R305, R371-R382, R392, R401). -/

namespace Sys2Proof.Machine

/-! ## What a warm reset does to work in progress (R176, R187, R292, R378) -/

/-- Words replaced since a group's last checkpoint, the newest first: each may hold its old value again (R176). -/
def State.blurOld (s : State) : List (Nat × BitVec 31 × BitVec 31) → State
  | [] => s
  | e :: l =>
    let d := s.drawBool
    let s := d.2
    State.blurOld
      (if d.1 && SMap.get 0 s.mem e.1 == e.2.2 then { s with mem := SMap.set 0 s.mem e.1 e.2.1 } else s) l

/-- Words of an element on its way, each written or not (R176). -/
def State.blurWrites (s : State) (k : Nat) (free : Bool) : List (Nat × Word) → State
  | [] => s
  | w :: l =>
    let d := s.drawBool
    let s := d.2
    let v := s.draw 20
    let q : State × Word := if free then (v.2, v.1) else (s, w.2)
    State.blurWrites
      (if d.1 then (match q.1.gate (0, k) w.1 (q.1.locOf w.1) with | .go s => s.writeLoc w.1 (s.locOf w.1) q.2 | _ => s)
       else s) k free l

/-- Elements on their way whose index lies in the uncertain range above the checkpoint base (R176). -/
def State.blurNew (s : State) (k base : Nat) (free : Bool) : Nat → List ElemOut → State
  | _, [] => s
  | first, e :: q =>
    if first < base + (if e.cnt = 1 then 128 else 64 + e.cnt) ∧ e.fault.isNone = true then
      let ws := e.coefs.map (fun w => (coefBase k + w.1, w.2.1)) ++ e.writes.map (fun w => (w.1, w.2.1))
      State.blurNew (s.blurWrites k free ws) k base free (first + e.cnt) q
    else s

/-- What a warm reset leaves of the oldest group in flight of cluster k (R176). -/
def State.blurGroup (s : State) (k : Nat) : State :=
  match (s.core k).groups with
  | [] => s
  | g :: _ =>
    let base := (s.cb (s.core k).groupCtx 8).toNat
    (s.blurNew k base g.unpred g.vprog g.outq).blurOld g.fresh.reverse

/-- Work whose interrupts to the keeper core are not raised (R305). -/
def State.quietly (s : State) (f : State → State) : State :=
  let t := f s
  { t with outs := { t.outs with keeper := s.outs.keeper } }

/-- Presented writes of channel n answered, at most m. -/
def State.answerAll (s : State) (n : Nat) : Nat → State
  | 0 => s
  | m + 1 => State.answerAll (s.dmaWriteResp n) n m

/-- A channel's master reset: the beats that its targets had accepted are performed, the others dropped (R292, R305). -/
def State.cutChannel (s : State) (n : Nat) : State :=
  let s := s.setChan n { s.chan n with killed := true, rq := [] }
  let s := s.quietly (fun s => s.abortWrites n)
  s.answerAll n (s.chan n).wq.length

/-- The oldest stores of core k performed, at most m, and whether all of them were. -/
def State.performSome (s : State) (k : Nat) : Nat → State
  | 0 => s
  | m + 1 => match s.performStore k with | .hold s => s | .done s => State.performSome s k m

/-- A core's master reset (R292): of the stores that it may have presented to one target a free number had been presented,
and of these a free number accepted, which are performed; the first one dropped is logged. -/
def State.cutStores (s : State) (k : Nat) : State :=
  match (s.core k).sbuf with
  | [] => s
  | e :: rest =>
    let l := e :: rest.takeWhile (fun x => s.sameTarget e.addrs x.addrs)
    let p := s.draw 8
    let shown := p.1.toNat % (l.length + 1)
    let a := p.2.draw 8
    let taken := a.1.toNat % (shown + 1)
    let s := a.2.performSome k taken
    let left := (s.core k).sbuf
    let dropped := shown - (rest.length + 1 - left.length)
    match left with
    | [] => s
    | x :: _ => if dropped = 0 then s else s.quietly (fun s => s.logAt 0xC (1, k) x.addr (s.locOf x.addr) 0)

/-- Every RUNNING context becomes FAULTED with FCAUSE RESET, and the keeper core is interrupted (R186, R187). -/
def State.failRunning (s : State) : State :=
  s.liveBlocks.foldl (fun s c => if s.ctxState c = 4 then s.toFaulted c 1 else s) s

/-- Running rolls are aborted (R367). -/
def Rolls.abort (r : Rolls) : Rolls :=
  { r with st := SMap.map 0 r.st (fun _ v => if bits v 19 18 = 1 then 0xC0000 else v) }

/-- A region after a warm reset (R378, R379, R46, R367). TARGET, which no rule names, stands like every register that the
rules do not name (DEDUCED log 63). -/
def Region.warm (r : Region) : Region :=
  let undef := r.pstate == .rolling || (r.pstate == .waking && (r.filling || !r.fromNap))
  { moved := r.moved, target := r.target, eqt := r.eqt, eqtFrac := r.eqtFrac, cp := r.cp
    low := r.low, lowsq := r.lowsq, sq := r.sq, temp := r.temp, tempOk := r.tempOk
    thermal := r.thermal, cap := r.cap, scrubPtr := r.scrubPtr, scrubDue := r.scrubDue, scrubLast := r.scrubLast
    pstate := if r.pstate == .off then .off else .nap
    needsClear := r.needsClear || undef }

/-- A cluster after a warm reset (R379, R260, R263). -/
def Core.warm (c : Core) : Core :=
  { mevb := c.mevb, msb := c.msb, mgtb := c.mgtb, mgtn := c.mgtn, mset := c.mset, scratch := c.scratch }

/-- Every port's control register at its reset value: its links go down (R332, R323). -/
def State.portsOff (s : State) : State :=
  (List.range 8).foldl (fun s p =>
    let s := if (s.port p).en then s.portOff p else s
    s.onPort p (fun x => { x with ctl := 0 })) s

/-- A warm reset starts (R378, R379). -/
def State.warmReset (s : State) (src : BitVec 3) (hold : ResetHold) : State :=
  let s := (List.range 96).foldl (fun s n => if (s.chan n).wq.isEmpty then s else s.cutChannel n) s
  let s := (List.range 96).foldl State.blurGroup s
  let s := (List.range 96).foldl State.cutStores s
  let s := s.failRunning
  let s := ({ s with host := {} }).portsOff
  let s := { s with
    cores := SMap.map {} s.cores (fun _ c => c.warm)
    regions := SMap.map {} s.regions (fun _ r => r.warm)
    walkWb := []
    sched := { slice := s.sched.slice, qa := s.sched.qa, qt := s.sched.qt, waitRegs := s.sched.waitRegs, rebuilt := false }
    dmas := []
    lnk := { s.lnk with deliveries := [] }
    ptp := { s.ptp with ppsOut := false }
    timers := SMap.map {} s.timers (fun _ x => { x with en := false })
    rolls := s.rolls.abort
    dbg := { s.dbg with op := none }
    monU := {}
    monM := {}
    fabrics := []
    keeper := { cold := false }
    dev := { s.dev with slot := 3, bootCause := 0, src := src, stage := .held, hbmFilled := true, rst := hold } }
  (List.range 48).foldl State.updateLow s

/-! ## Cold reset and loss of power (R379, R392) -/

/-- The fuses as a programming operation leaves them (R381, R382). -/
def Dev.programmed (d : Dev) : Dev :=
  match d.fuseOp with
  | .none => d
  | .enroll okh osk => { d with lc := 2, owner := true, okh := okh, osk := osk, fuseOp := .none }
  | .sealing => { d with lc := 1, fuseOp := .none }
  | .toReturn => { d with lc := 3, okh := BitVec.allOnes 384, osk := BitVec.allOnes 256, fuseOp := .none }
  | .toVoid =>
    { d with lc := 4, destroyed := true, okh := BitVec.allOnes 384, osk := BitVec.allOnes 256, fuseOp := .none }

/-- A programming operation cut off leaves the earlier state or the new one (R381). -/
def State.cutFuses (s : State) : State :=
  if s.dev.fuseOp = .none then s
  else
    let d := s.drawBool
    { d.2 with dev := if d.1 then d.2.dev.programmed else { d.2.dev with fuseOp := .none } }

/-- A cell of the ledger takes a free value. -/
def State.blurCell (s : State) (c : Nat) : State :=
  let d := s.draw 16
  { d.2 with int := { d.2.int with ledger := SMap.set 0xFFFF d.2.int.ledger c d.1 } }

/-- A record cut off: its cells are free, and its CRC is bad (R363). -/
def State.cutRecord (s : State) (slot : Nat) : State :=
  let s := ((List.range 1022).map (fun i => 1024 * slot + i)).foldl State.blurCell s
  let d := s.draw 32
  let bad := crc32 (cellBytes (d.2.int.cells slot 0 1022)) ^^^ (d.1 ||| 1)
  { d.2 with int := { d.2.int with ledger := putCells d.2.int.ledger (1024 * slot + 1022) (leCells bad.toNat 2) } }

/-- A ledger operation cut off leaves free values in the cells that it works on (R363). -/
def State.cutLedger (s : State) : State :=
  match s.int.ldgOp with
  | none => s
  | some (.program c _) => s.blurCell c
  | some (.erase n) => ((List.range 1024).map (fun i => 1024 * n + i)).foldl State.blurCell s
  | some (.record q _) => s.cutRecord (q % 32)

/-- Everything that a cold reset, the OFF state and a loss of power lose: all but the fuses and the ledger, with the
stores that start-up clears later left as they are until it does (R371, R374, R379, R392). -/
def State.loseAll (s : State) : State :=
  let s := s.cutFuses.cutLedger
  { pending := s.pending, draws := s.draws, outs := s.outs
    mem := s.mem.purge (fun a => !(decide (0x20000000 ≤ a) && decide (a < 0x22000000)))
    hbm := s.hbm
    int := { ledger := s.int.ledger }
    dev := { s.dev with slot := 3, bootCause := 0, src := 0, version := 0, stage := .held, hbmFilled := false } }

/-- A cold reset starts (R379). The PMBus status keeps its latched bits. -/
def State.coldReset (s : State) (src : BitVec 3) (hold : ResetHold) : State :=
  let p := s.pwr
  let s := s.loseAll
  { s with
    pwr := { statInput := p.statInput, statTemp := p.statTemp, cml := p.cml }
    dev := { s.dev with src := src, rst := hold } }

/-- A cold boot starts, unless the straps hold the device in reset (R374, R398). -/
def State.bootCold (s : State) : State :=
  if s.dev.tmode ≠ 0 then { s with dev := { s.dev with rst := .porst, bootCause := 8, stage := .held } }
  else { s with dev := { s.dev with rst := .none, stage := .started } }

/-- A warm reset ends: boot goes on from the image (R378); in VOID it stops (R380). -/
def State.bootWarm (s : State) : State :=
  { s with dev :=
      if s.dev.lc = 4 then { s.dev with rst := .none, stage := .stopped, bootCause := 7 }
      else { s.dev with rst := .none, stage := .cleared } }

/-! ## Reset pins and holds (R377) -/

/-- PORST_N_ASSERT (R377, R401). -/
def execPorstNAssert (s : State) : Out :=
  if !s.dev.porst then ok s
  else if s.pwr.dev = .unpowered ∨ s.dev.rst = .power then ok { s with dev := { s.dev with porst := false } }
  else
    let s := s.coldReset 0 .porst
    ok { s with dev := { s.dev with porst := false, thermtrip := false } }

/-- PORST_N_RELEASE (R374, R398): the straps are sampled and boot starts. -/
def execPorstNRelease (sadr : BitVec 3) (tmode : BitVec 2) (s : State) : Out :=
  if s.dev.porst then ok s
  else if s.pwr.dev = .unpowered then ok { s with dev := { s.dev with porst := true } }
  else
    let s := { s with dev := { s.dev with porst := true, sadr := sadr, tmode := tmode } }
    if s.dev.rst = .porst ∧ s.dev.thermtrip = false then ok s.bootCold else ok s

/-- A warm reset source acts: the device is powered, and no cold reset is in progress (R377). -/
def State.warmMay (s : State) : Bool :=
  (s.dev.rst == .none || s.dev.rst == .wrst || s.dev.rst == .internalWarm) && s.pwr.dev != .off && s.pwr.dev != .unpowered

/-- WRST_N_ASSERT (R377, R378): low for at least 1 µs. -/
def execWrstNAssert (s : State) : Out :=
  if !s.dev.wrst then ok s
  else
    let s := { s with dev := { s.dev with wrst := false } }
    if s.warmMay then ok (s.warmReset 1 .wrst) else ok s

/-- WRST_N_RELEASE (R377, R378). -/
def execWrstNRelease (s : State) : Out :=
  let t := { s with dev := { s.dev with wrst := true } }
  if s.dev.rst = .wrst then ok t.bootWarm else ok t

/-- INTERNAL_RESET_HOLD_END (R377): 10 µs after the start of a reset from an internal source. -/
def execInternalResetHoldEnd (s : State) : Out :=
  if s.dev.rst = .internalWarm then ok s.bootWarm else if s.dev.rst = .internalCold then ok s.bootCold else ok s

/-- UART_WAKE_BYTE (R371): the byte 0xA5 in device OFF starts a cold boot; not while THERMTRIP_N is low (R401). -/
def execUartWakeByte (b : BitVec 8) (s : State) : Out :=
  if s.pwr.dev = .off ∧ s.dev.thermtrip = false ∧ s.dev.rst = .none ∧ b = 0xA5 then ok (s.coldReset 6 .internalCold) else ok s

/-- A link-down made by a write of HOST_CTL with HRST = 1 resets the device (R343, R377). -/
def State.linkFall (s : State) : State :=
  if s.host.fell then
    let s := { s with host := { s.host with fell := false } }
    if s.warmMay then s.warmReset 2 .internalWarm else s
  else s

/-- PCIE_HOT_RESET (R343, R377). -/
def execPcieHotReset (s : State) : Out :=
  if !s.up || !s.host.lup then ok s
  else
    let t := s.functionReset
    if s.host.hrst && t.warmMay then ok (t.warmReset 2 .internalWarm) else ok t

/-- PCIE_LINK_DOWN (R343, R377). -/
def execPcieLinkDown (s : State) : Out :=
  if !s.up || !s.host.lup then ok s
  else
    let t := s.functionReset
    let t := { t with host := { t.host with lup := false, width := 0, speed := 0 } }
    if s.host.hrst && t.warmMay then ok (t.warmReset 2 .internalWarm) else ok t

/-! ## Start-up (R374, R375) -/

/-- Boot is at a stage, out of reset. -/
def State.atStage (s : State) (b : BootStage) : Bool := s.up && s.dev.stage == b

/-- FUSES_SENSED (R374): in VOID the device stops. -/
def execFusesSensed (s : State) : Out :=
  if !s.atStage .started then ok s
  else if s.dev.lc = 4 then ok { s with dev := { s.dev with stage := .stopped, bootCause := 7 } }
  else ok { s with dev := { s.dev with stage := .fused } }

/-- HUB_PLL_LOCK (R374). -/
def execHubPllLock (s : State) : Out :=
  if s.atStage .fused then ok { s with dev := { s.dev with stage := .rom } } else ok s

/-- IO_DIE_ROLL_DONE (R374, R364): a failure stops boot. -/
def execIoDieRollDone (pass : Bool) (s : State) : Out :=
  if !s.atStage .rom then ok s
  else
    let s := (s.setRollSt (rollIdx 2 0) 2 none).setSig 2 0 pass
    ok { s with dev :=
        if pass then { s.dev with stage := .rolled } else { s.dev with stage := .stopped, bootCause := 6 } }

/-- CONTEXT_STORE_CLEARED (R374, R178). -/
def execContextStoreCleared (s : State) : Out :=
  if !s.atStage .rolled then ok s
  else ok { s with
    mem := s.mem.purge (fun a => decide (0x20000000 ≤ a) && decide (a < 0x22000000))
    dev := { s.dev with stage := .cleared } }

/-- HBM_FILL_DONE (R374): every block holds zeros with valid code. -/
def execHbmFillDone (s : State) : Out :=
  let going := s.atStage .rolled || s.atStage .cleared || s.atStage .firmware || s.atStage .recovery
  if !going || s.dev.hbmFilled then ok s else ok { s with hbm := [], dev := { s.dev with hbmFilled := true } }

/-- A little-endian number. -/
def leNat : List Byte → Nat
  | [] => 0
  | b :: l => b.toNat + 256 * leNat l

/-- The VKH fuses (R381, R382). -/
def Dev.vkhNow (d : Dev) : BitVec 384 := if d.destroyed then BitVec.allOnes 384 else Config.vkh
/-- The VKD fuses (R381, R382). -/
def Dev.vkdNow (d : Dev) : BitVec 384 := if d.destroyed then BitVec.allOnes 384 else Config.vkd

/-- A digest in the order in which it is sent. -/
def digestBytes (l : List Byte) : BitVec 384 := BitVec.ofNat 384 (beNat l)

/-- The header's plain checks (R375): length, MAGIC, LEN, ENTRY, the reserved bytes. -/
def FlashSlot.headerOk (f : FlashSlot) : Bool :=
  let h := f.header
  let len := leNat (slice h 8 4)
  h.length == 512 && slice h 0 4 == [0x47, 0x58, 0x4B, 0x31] && decide (1 ≤ len) && decide (len ≤ 4194304)
    && decide (leNat (slice h 12 4) < len) && (slice h 257 255).all (· == 0) && f.body.length == len

/-- DEV_BOOT.CAUSE of a slot; 0 when it passes every check (R375, R376). -/
def Dev.slotCause (d : Dev) (f : FlashSlot) : BitVec 4 :=
  let h := f.header
  if f.timeout then 5
  else if !FlashSlot.headerOk f then 1
  else if Config.sha384 f.body ≠ digestBytes (slice h 16 48) then 2
  else if Config.sha384 (slice h 160 97) ≠ d.vkhNow then 3
  else if !Config.ecdsaVerify (slice h 160 97) (Config.sha384 (slice h 0 64)) (slice h 64 96) then 3
  else 0

/-- The keeper firmware starts from a slot. -/
def State.startFirmware (s : State) (slot : BitVec 2) (f : FlashSlot) : State :=
  { s with dev := { s.dev with
      slot := slot, bootCause := 0, stage := .firmware, version := BitVec.ofNat 32 (leNat (slice f.header 4 4)) } }

/-- IMAGE_VERIFIED (R374, R375): slot A is read and checked, then slot B; when both fail, the recovery monitor runs. -/
def execImageVerified (a b : FlashSlot) (s : State) : Out :=
  if !s.atStage .cleared then ok s
  else if s.dev.slotCause a = 0 then ok (s.startFirmware 0 a)
  else if s.dev.slotCause b = 0 then ok (s.startFirmware 1 b)
  else ok { s with dev := { s.dev with bootCause := s.dev.slotCause b, stage := .recovery } }

/-! ## Life-cycle (R381) -/

/-- LIFE_CYCLE_PROGRAM_DONE (R381): a cold reset follows. -/
def execLifeCycleProgramDone (s : State) : Out :=
  if s.dev.fuseOp = .none ∨ s.up = false then ok s
  else ok ({ s with dev := s.dev.programmed }.coldReset 5 .internalCold)

/-! ## Device states (R371) -/

/-- PWR_DEV.REQ = 01 written by a master (R371). -/
def execEnterStandby (who : Master) (s : State) : Out := s.writeBy who 0x10100 1
/-- PWR_DEV.REQ = 10 written by a master (R371). -/
def execReturnToActive (who : Master) (s : State) : Out := s.writeBy who 0x10100 2

/-- Every region is vacated and drained, and every channel IDLE or HALTED (R371). -/
def State.quiet (s : State) : Bool :=
  (List.range 48).all (fun n => !s.regionOn n || (s.vacated n && s.drained n))
    && (List.range 96).all (fun n => (s.chan n).state == .idle || (s.chan n).state == .halted)

/-- STANDBY_ENTRY (R371): HOLD is cleared and every region and fabric turned OFF; a roll under way is aborted (DEDUCED log 34). -/
def execStandbyEntry (s : State) : Out :=
  if s.pwr.dev = .entering ∧ s.up = true ∧ s.quiet = true then
    let s := (List.range 48).foldl (fun s n =>
      if s.regionOn n then
        (s.regionOff n).onRgn n (fun r => { r with ctl := r.ctl &&& 0xFFFFE, rollNext := false, castleWait := false })
      else s) s
    let s := { s with cores := SMap.map {} s.cores (fun _ c => { c with rolling := false }) }
    ok { s with pwr := { s.pwr with dev := .standby }, rolls := s.rolls.abort }
  else ok s

/-- ACTIVE_REACHED (R371): 2 ms after the request. -/
def execActiveReached (s : State) : Out :=
  if s.pwr.dev = .returning ∧ s.up = true then ok { s with pwr := { s.pwr with dev := .active } } else ok s

/-! ## Input power and thermal trip (R392, R401) -/

/-- VIN_OUT_OF_RANGE (R392): below 8.4 V or above 62.0 V every converter stops. -/
def execVinOutOfRange (v : Nat) (s : State) : Out :=
  if s.pwr.dev ≠ .unpowered ∧ (v < 840 ∨ 6200 < v) then
    let s := s.loseAll
    ok { s with pwr := { dev := .unpowered }, dev := { s.dev with rst := .power, thermtrip := false } }
  else ok s

/-- INPUT_POWER_ARRIVAL (R392, R372): VIN is back between the thresholds: the always-on domain starts, and the module holds
itself in cold reset. -/
def execInputPowerArrival (v : Nat) (s : State) : Out :=
  if s.pwr.dev = .unpowered ∧ 880 ≤ v ∧ v ≤ 6100 then
    ok { s with
      pip := {}
      pwr := { vin := BitVec.ofNat 13 v, low := decide (v < 1200) }
      dev := { s.dev with rst := .power } }
  else ok s

/-- VIN_IN_RANGE_5_MS (R392): the module's own cold reset ends, and that of PORST_N goes on while the pin is low. -/
def execVinInRange5Ms (s : State) : Out :=
  if s.dev.rst ≠ .power ∨ s.pwr.dev = .unpowered then ok s
  else if s.dev.porst then ok s.bootCold
  else ok { s with dev := { s.dev with rst := .porst } }

/-- The device in OFF: only the always-on domain is powered; PIP_NOW goes on (R371). -/
def State.turnOff (s : State) (trip : Bool) : State :=
  let p := s.pwr
  let n := s.pip
  let r := s.dev.rst
  let s := s.loseAll
  { s with
    pip := n
    pwr := { dev := .off, vin := p.vin, low := p.low, statInput := p.statInput, statTemp := p.statTemp, cml := p.cml }
    dev := { s.dev with rst := if r = .porst ∨ r = .power then r else .none, thermtrip := s.dev.thermtrip || trip } }

/-- THERMTRIP (R401): a sensor reads 115 °C or more. -/
def execThermtrip (temp : BitVec 12) (s : State) : Out :=
  if 920 ≤ temp.toInt ∧ s.pwr.dev ≠ .unpowered ∧ s.dev.thermtrip = false then ok (s.turnOff true) else ok s

end Sys2Proof.Machine
end

