-- ==== Sys2Proof/Machine/Control.lean ====
section
/-! DEFINITION. The commands that write a register of a cluster block, run control, the debug master (R13, R275, R277,
R387-R390), and a stored bit that changes of itself (R345, R306). -/

namespace Sys2Proof.Machine

/-! ## Registers of a cluster block -/

/-- A write to a register of cluster k's block by a master. -/
def State.writeCl (s : State) (who : Master) (k off : Nat) (v : Word) : Out :=
  if 96 ≤ k then noUnit else s.writeBy who (0x200000 + k * 0x400 + off) v

/-- A read of a register of cluster k's block by a master. -/
def State.readCl (s : State) (who : Master) (k off : Nat) : Out :=
  if 96 ≤ k then noUnit else s.readBy who (0x200000 + k * 0x400 + off)

/-- A write of CL_IPOST (R277). -/
def execClIpost (who : Master) (k : Nat) (v : Word) (s : State) : Out := s.writeCl who k 0x48 v
/-- A write of CL_MFLT (R275). -/
def execClMflt (who : Master) (k : Nat) (v : Word) (s : State) : Out := s.writeCl who k 0x49 v
/-- CL_RC_CMD HALT (R389). -/
def execClRcHalt (who : Master) (k : Nat) (s : State) : Out := s.writeCl who k 0 1
/-- CL_RC_CMD STEP (R389). -/
def execClRcStep (who : Master) (k : Nat) (s : State) : Out := s.writeCl who k 0 2
/-- CL_RC_CMD RESUME (R389). -/
def execClRcResume (who : Master) (k : Nat) (s : State) : Out := s.writeCl who k 0 3

/-- CL_RC_DATA (R388): both words of the selected register read, or written, the low one first. -/
def execClRcData (who : Master) (k : Nat) (w : Option Dbl) (s : State) : Out :=
  match w with
  | none =>
    match s.readCl who k 3 with
    | .next s => s.readCl who k 4
    | .fault f => .fault f
    | .refused r => .refused r
  | some v =>
    match s.writeCl who k 3 (loW v) with
    | .next s => s.writeCl who k 4 (hiW v)
    | .fault f => .fault f
    | .refused r => .refused r

/-- A write of any register at a device address (R13); an address of no register faults at the master (R16). -/
def execRegisterWrite (who : Master) (a : Dbl) (v : Word) (s : State) : Out :=
  match s.locOf a.toNat with
  | .regs off =>
    (match s.writeBy who off v with
      | .next s => ok s.linkFall
      | o => o)
  | .none => ok (if s.up then s.masterFault who a.toNat .unmapped else s)
  | _ => ok s

/-! ## The machine-level assets (R387) -/

/-- A selector names an asset: the M bank of W30, or a control register from 16 up. -/
def selAsset (sel : Word) : Bool :=
  (bits sel 9 7 == 6 && bits sel 6 0 == 2) || (bits sel 9 7 == 4 && decide (16 ≤ bits sel 6 0))

/-- An address whose access the monitor and the debug master refuse in FIELD: the CL_M registers, the scratch area, the
OSK words, and what run control shows of an asset or of a core that executes at M. -/
def State.denied (s : State) (a : Nat) : Bool :=
  s.dev.lc == 2 &&
    (match s.locOf a with
      | .regs off =>
        (match s.blk off with
          | (.cl k, o) =>
            isMachineReg o || ((o == 3 || o == 4) && selAsset (s.core k).rcSel)
              || (decide (3 ≤ o) && decide (o < 8) && (s.core k).cst.pl == .m)
          | (.dev, o) => decide (0x20 ≤ o) && decide (o < 0x2D)
          | _ => false)
      | _ => false)

/-! ## The debug master (R390) -/

/-- The registers whose read has a side effect (R13): PTP_TOD and PIP_NOW word 0, INT_LDG_DATA. -/
def isRs (a : Nat) : Bool := [0x30050000, 0x30010104, 0x30060011].contains a

/-- What an access of the debug master gives: it waits for a wake, fails with a cause, or is performed. -/
inductive DbgRes where
  | hold (s : State)
  | bad (s : State) (cause : BitVec 4)
  | done (s : State) (v : Word)

/-- A word read by the debug master (R390, R387). -/
def State.debugRead (s : State) (a : Nat) : DbgRes :=
  if s.denied a then .bad s 5
  else if isRs a && !s.dbg.allowse then .done { s with dbg := { s.dbg with side := true } } 0
  else
    match s.busRead .debug a with
    | .hold s => .hold s
    | .bad s e => .bad s (dbgCause e)
    | .done s v => .done s v

/-- A word written by the debug master (R390, R387). -/
def State.debugWrite (s : State) (a : Nat) (v : Word) : DbgRes :=
  if s.denied a then .bad s 5
  else
    match s.busWrite .debug a v with
    | .hold s => .hold s
    | .bad s e => .bad s (dbgCause e)
    | .done s _ => .done s v

/-- DBG_DATA read by a master: a debug-master read starts (R390). -/
def execDbgDataRead (who : Master) (s : State) : Out := s.readBy who 0x80002
/-- DBG_DATA written by a master: a debug-master write starts (R390). -/
def execDbgDataWrite (who : Master) (v : Word) (s : State) : Out := s.writeBy who 0x80002 v

/-- The access in flight ends: BUSY is cleared, and ADDR moves on under INC. -/
def State.debugEnd (s : State) : State :=
  let d := s.dbg
  { s with dbg := { d with op := none, addr := if d.inc then d.addr + 1 else d.addr } }

/-- DEBUG_ACCESS_DONE (R390): the access is performed, or waits for a region's wake. -/
def execDebugAccessDone (s : State) : Out :=
  if !s.up then ok s
  else
    match s.dbg.op with
    | none => ok s
    | some .read =>
      (match s.debugRead s.dbg.addr.toNat with
        | .hold s => ok s
        | .bad s c => ok (s.debugFail c).debugEnd
        | .done s v => ok ({ s with dbg := { s.dbg with data := v } }).debugEnd)
    | some (.write v) =>
      match s.debugWrite s.dbg.addr.toNat v with
      | .hold s => ok s
      | .bad s c => ok (s.debugFail c).debugEnd
      | .done s _ => ok s.debugEnd.linkFall

/-! ## Stored bits -/

/-- STORED_BIT_ERROR (R345, R306): bits of one codeword, or one bit of an HBM block, change. -/
def execStoredBitError (e : ErrSite) (s : State) : Out :=
  match e with
  | .sram a mask =>
    let flip : Out := ok { s with mem := SMap.upd 0 s.mem a.toNat (· ^^^ mask) }
    (match s.locOf a.toNat with
      | .region _ _ => flip
      | .ctx _ => flip
      | .coef _ _ => flip
      | _ => noUnit)
  | .hbm a b =>
    match s.locOf a.toNat with
    | .hbm h o => ok { s with hbm := SMap.upd 0 s.hbm (hbmIndex h (o / 24)) (· ^^^ BitVec.ofNat 512 (2 ^ b.toNat)) }
    | _ => noUnit

end Sys2Proof.Machine
end

