-- ==== Sys2Proof/Machine/Fabric.lean ====
section
/-! DEFINITION. The die fabrics: bursts and their pieces, the lanes that they hold, granting a lane, withdrawal, and
stopping a port's clock (R284-R291). -/

namespace Sys2Proof.Machine

/-! ## Ports (R284) -/

/-- The master ports of a die, in the order of R284: 24 stream engines, 24 steward cores, 16 DMA channels, the debug
master and the inbound bridge. -/
def fabricMasters : Nat := 66

/-- The target ports of a die: regions 0 to 11, the HBM controller 12, the DMA register port 13, the outbound bridge 14. -/
def fabricTargets : Nat := 15

/-- The port of a die fabric at which a master stands, after the target ports. -/
def masterPort (m : Nat) : Nat := fabricTargets + m

/-- The lanes of a master port in one direction (R284). -/
def masterLanes (m : Nat) : Nat := if m < 24 then 2 else if m < 65 then 1 else 4

/-- The lanes of a target port, and whether both directions share them (R284). -/
def targetLanes (p : Nat) : Nat × Bool :=
  if p < 12 then (4, true) else if p = 12 then (32, true) else if p = 13 then (1, true) else (4, false)

/-- Die fabric d. -/
def State.fabric (s : State) (d : Nat) : Fabric := SMap.get {} s.fabrics d
/-- Die fabric d replaced. -/
def State.setFabric (s : State) (d : Nat) (f : Fabric) : State := { s with fabrics := SMap.set {} s.fabrics d f }

/-! ## Masters (R287, R291) -/

/-- Whether a burst of die d is marked class 0 (R287): by the context bound to the cluster, the channel's C0, or the mark
with which it enters through the bridge. -/
def State.marked (s : State) (d : Nat) (r : PieceReq) : Bool :=
  if r.master < 24 then s.boundC0 (24 * d + r.master)
  else if r.master < 48 then s.boundC0 (24 * d + r.master - 24)
  else if r.master < 64 then bit (s.chan (16 * d + r.master - 48)).act.ctl 14
  else r.master == 65 && r.c0

/-- The beats of a burst's next piece (R285, R295): up to 16, and one for a channel with PACE. -/
def State.pieceBeats (s : State) (d : Nat) (b : Burst) : Nat :=
  let m := b.req.master
  if 48 ≤ m ∧ m < 64 ∧ bits (s.chan (16 * d + m - 48)).act.ctl 7 4 ≠ 0 then min 1 b.left else min 16 b.left

/-- Whether a master withdraws a burst of which no piece has been granted (R291): a fetch refill after a taken branch, the
read-ahead of a stream engine whose group has stopped, that of a channel that has halted. -/
def State.withdraws (s : State) (d : Nat) (b : Burst) : Bool :=
  let m := b.req.master
  !b.begun && !b.req.wr &&
    (if m < 24 then (s.core (24 * d + m)).groups.isEmpty
     else if m < 48 then (match b.req.line with | some a => !(s.core (24 * d + m - 24)).wantsLine a | none => false)
     else if m < 64 then
       let c := s.chan (16 * d + m - 48)
       c.state != .running || c.fail.isSome || c.killed
     else false)

/-! ## Grants (R286, R288) -/

/-- The pieces in flight in one direction that hold lanes of a target port. -/
def Fabric.held (f : Fabric) (p : Nat) (wr : Bool) : Nat :=
  let l := SMap.get [] f.flight p
  if (targetLanes p).2 then l.length else (l.filter (fun b => b.req.wr == wr)).length

/-- The pieces in flight in one direction that hold lanes of a master port. -/
def Fabric.heldBy (f : Fabric) (m : Nat) (wr : Bool) : Nat :=
  (f.flight.flatMap (fun e => e.2.filter (fun b => b.req.master == m && b.req.wr == wr))).length

/-- The lanes that a burst's next piece needs are free. -/
def Fabric.laneFree (f : Fabric) (p : Nat) (b : Burst) : Bool :=
  decide (f.held p b.req.wr < (targetLanes p).1) && decide (f.heldBy b.req.master b.req.wr < masterLanes b.req.master)

/-- The first waiting burst in rotation order from master r that passes a test; a master's bursts to a port keep their
order (R286, R288). -/
def firstPiece (r : Nat) (w : List Burst) (q : Burst → Bool) : Option Burst :=
  (List.range fabricMasters).findSome? (fun i =>
    match w.find? (fun y => y.req.master == (r + i) % fabricMasters) with
    | some x => if q x then some x else none
    | none => none)

/-- The burst whose next piece a free lane of a target port takes (R286): class 0 first, unless seven class-0 pieces in a
row have passed one that is not. -/
def Fabric.choose (f : Fabric) (p : Nat) (c0 : Burst → Bool) : Option Burst :=
  let w := SMap.get [] f.waiting p
  let r := SMap.get 0 f.rot p
  let other := firstPiece r w (fun x => f.laneFree p x && !c0 x)
  let cls := firstPiece r w (fun x => f.laneFree p x && c0 x)
  if cls.isSome && decide (7 ≤ SMap.get 0 f.c0run p) && other.isSome then other
  else if cls.isSome then cls
  else other

/-- A burst with a piece of some beats granted at a target port (R285, R286): the piece holds its lanes, the rotation moves
past its master, and the count of class-0 grants that passed another piece follows. -/
def Fabric.give (f : Fabric) (p : Nat) (x : Burst) (n : Nat) (c0 : Burst → Bool) : Fabric :=
  let w := SMap.get [] f.waiting p
  let passed := c0 x && w.any (fun y => !c0 y)
  { f with
    rot := SMap.set 0 f.rot p ((x.req.master + 1) % fabricMasters)
    c0run := SMap.set 0 f.c0run p (if passed then min 7 (SMap.get 0 f.c0run p + 1) else 0)
    waiting := SMap.set [] f.waiting p (w.erase x)
    flight := SMap.upd [] f.flight p (· ++ [{ x with left := x.left - n, begun := true }]) }

/-- The oldest piece in flight at a target port crosses: its lanes are free, and the rest of its burst competes again,
before its master's later bursts (R285, R288). -/
def Fabric.land (f : Fabric) (p : Nat) : Fabric :=
  match SMap.get [] f.flight p with
  | [] => f
  | b :: l =>
    { f with
      flight := SMap.set [] f.flight p l
      waiting := if b.left = 0 then f.waiting else SMap.upd [] f.waiting p (fun w => b :: w) }

/-- Every piece in flight crosses, as fabric cycles pass. -/
def Fabric.landAll (f : Fabric) : Fabric :=
  (List.range fabricTargets).foldl (fun f p => (List.range (SMap.get [] f.flight p).length).foldl (fun f _ => f.land p) f) f

/-- A piece of some burst granted at a target port, if one waits. -/
def State.grantAt (s : State) (d p : Nat) (f : Fabric) : Option Fabric :=
  let c0 (b : Burst) : Bool := s.marked d b.req
  (f.choose p c0).map (fun x => f.give p x (s.pieceBeats d x) c0)

/-- A grant at a target port; where every lane that a waiting piece needs is held, pieces cross first (DESIGN CHOICE
log 90). -/
def State.grantPiece (s : State) (d p : Nat) (f : Fabric) : Fabric :=
  match s.grantAt d p f with
  | some g => g
  | none =>
    match s.grantAt d p (f.land p) with
    | some g => g
    | none =>
      let g := f.landAll
      (s.grantAt d p g).getD g

/-! ## Arrival and clocks (R285, R289) -/

/-- New bursts at a target port: a burst has 1 to 256 beats (R285). A request starts the clocks of both ports (R289). -/
def Fabric.arrive (f : Fabric) (p : Nat) (reqs : List PieceReq) : Fabric :=
  let l := reqs.filter (fun x => decide (x.master < fabricMasters) && decide (1 ≤ x.beats) && decide (x.beats ≤ 256))
  if l = [] then f
  else
    { f with
      waiting := SMap.upd [] f.waiting p (· ++ l.map (fun x => { req := x, left := x.beats }))
      stopped := (p :: l.map (fun x => masterPort x.master)).foldl (fun m q => SMap.set false m q false) f.stopped }

/-- The bursts at a port that no master has withdrawn (R291). -/
def State.dropWithdrawn (s : State) (d p : Nat) (f : Fabric) : Fabric :=
  { f with waiting := SMap.upd [] f.waiting p (fun w => w.filter (fun b => !s.withdraws d b)) }

/-- Target port p of die d exists. -/
def State.hasTarget (s : State) (d p : Nat) : Bool :=
  decide (d < 4) && decide (p < fabricTargets) && (decide (12 ≤ p) || s.regionOn (12 * d + p))

/-- FABRIC_PIECE_GRANT (R286): a free lane of target port p of die d, with the bursts newly presented there. A piece for a
region that is not in RUN wakes it and waits (R289); a rolling region refuses its pieces (R27). -/
def execFabricPieceGrant (d p : Nat) (reqs : List PieceReq) (s : State) : Out :=
  if !s.hasTarget d p then noUnit
  else if s.fabricOff d then ok s
  else
    let f := s.dropWithdrawn d p ((s.fabric d).arrive p reqs)
    let st := (s.rgn (12 * d + p)).pstate
    if p < 12 ∧ st = .rolling then ok (s.setFabric d { f with waiting := SMap.set [] f.waiting p [] })
    else if p < 12 ∧ st ≠ .run then
      let s := s.setFabric d f
      ok (if SMap.get [] f.waiting p = [] then s else s.wakeRegion (12 * d + p))
    else ok (s.setFabric d (s.grantPiece d p f))

/-- No piece waits or is in flight at a port of a die fabric. -/
def Fabric.idle (f : Fabric) (p : Nat) : Bool :=
  if p < fabricTargets then (SMap.get [] f.waiting p).isEmpty && (SMap.get [] f.flight p).isEmpty
  else (f.waiting ++ f.flight).all (fun e => e.2.all (fun b => masterPort b.req.master != p))

/-- Port p of die d exists: a target port, or after them a master port. -/
def State.hasPort (s : State) (d p : Nat) : Bool :=
  s.hasTarget d p || (decide (d < 4) && decide (fabricTargets ≤ p) && decide (p < fabricTargets + fabricMasters))

/-- FABRIC_PORT_CLOCK_STOP (R289): a port with no piece waiting or in flight stops its clock. -/
def execFabricPortClockStop (d p : Nat) (s : State) : Out :=
  if !s.hasPort d p then noUnit
  else
    let f := s.fabric d
    if f.idle p then ok (s.setFabric d { f with stopped := SMap.set false f.stopped p true }) else ok s

end Sys2Proof.Machine
end

