-- ==== Sys2Proof/Machine/Hosting.lean ====
section
/-! DEFINITION. The commands of the host: accesses through the BARs, the mailbox and posts, MSI-X, and the events of the
PCI Express link that do not reset the device (R338-R343). -/

namespace Sys2Proof.Machine

/-! ## Accesses through BAR0 and BAR2 (R339) -/

/-- The endpoint takes a request: the link is up, the function is in D0, the device out of reset (PRESUMED log 31). -/
def State.endpointUp (s : State) : Bool := s.up && s.host.lup && !s.host.d3

/-- The bytes that a BAR maps. -/
def barSize (b : Bar) : Nat := match b with | .bar0 => 2 ^ 30 | .bar2 => 2 ^ 26 | .bar4 => 2 ^ 14

/-- The device address of dword i of a request; a BAR2 access at or above 2^40 has none, and BAR4 reaches none. -/
def State.barAddr (s : State) (b : Bar) (off i : Nat) : Nat :=
  match b with
  | .bar0 => 0x30000000 + off / 4 + i
  | .bar2 => s.host.win.toNat + off / 4 + i
  | .bar4 => 2 ^ 40

/-- Registers are reached through BAR0 alone (R23, DEDUCED log 37). -/
def State.barMaps (s : State) (b : Bar) (a : Nat) : Bool :=
  match b, s.locOf a with
  | .bar2, .regs _ => false
  | _, _ => true

/-- A word read through a BAR. -/
def State.barGet (s : State) (b : Bar) (a : Nat) : Bus Word := if s.barMaps b a then s.busRead .host a else .bad s .unmapped

/-- A word written through a BAR. -/
def State.barPut (s : State) (b : Bar) (a : Nat) (v : Word) : Bus Unit :=
  if s.barMaps b a then s.busWrite .host a v else .bad s .unmapped

/-- The bit of HOST_ERR that records a fault of a BAR (R342). -/
def barErrBit (b : Bar) : Nat := match b with | .bar0 => 2 | _ => 1

/-- A completion, or a dword of one. -/
def State.cpl (s : State) (c : Cpl) : State := { s with outs := { s.outs with cpls := s.outs.cpls ++ [c] } }

/-- The dwords of a read performed in ascending order; the first that faults ends it with Completer Abort. -/
def State.barRead (s : State) (b : Bar) (off : Nat) : Nat → Nat → State
  | _, 0 => s
  | i, n + 1 =>
    let a := s.barAddr b off i
    match s.barGet b a with
    | .done s v => State.barRead (s.cpl (.data (v.zeroExtend 32))) b off (i + 1) n
    | .hold s => State.barRead (s.cpl .ep) b off (i + 1) n
    | .bad s e =>
      match e with
      | .uncorr => State.barRead (s.cpl .ep) b off (i + 1) n
      | .poison => State.barRead (s.cpl .ep) b off (i + 1) n
      | .refused => State.barRead (s.cpl .ep) b off (i + 1) n
      | _ => ((s.hostErr (barErrBit b) a).aerSet 15).cpl .abort

/-- The addresses of a request. -/
def State.barAddrs (s : State) (b : Bar) (off n : Nat) : List Nat := (List.range n).map (s.barAddr b off)

/-! ## BAR4 (R339, R340) -/

/-- A dword of BAR4: the MSI-X table, the pending bits at 0x2000, and between them what the manual leaves open (DESIGN
CHOICE log 93). -/
def State.bar4Get (s : State) (off : Nat) : State × BitVec 32 :=
  if off < 0x400 then (s, s.host.table (off / 4))
  else if off = 0x2000 then (s, s.host.pba.extractLsb' 0 32)
  else if off = 0x2004 then (s, s.host.pba.extractLsb' 32 32)
  else let d := s.draw 32; (d.2, d.1)

/-- The dwords of a read of BAR4. -/
def State.bar4Read (s : State) (off : Nat) : Nat → State
  | 0 => s
  | n + 1 =>
    let d := s.bar4Get off
    State.bar4Read (d.1.cpl (.data d.2)) (off + 4) n

/-- A dword of the MSI-X table written: a control dword has its mask bit alone, and unmasking a vector sends a message that
is pending. -/
def State.msixPut (s : State) (k : Nat) (v : BitVec 32) : State :=
  let c := decide (k % 4 = 3)
  let s := { s with host := { s.host with
    msix := SMap.set (if c then 1 else 0) s.host.msix k (if c then v &&& 1 else v) } }
  s.msixRelease (k / 4)

/-- The bytes that byte enables select. -/
def beMask (be : BitVec 4) : BitVec 32 :=
  BitVec.ofNat 32 (b2n (bit be 0) * 0xFF + b2n (bit be 1) * 0xFF00 + b2n (bit be 2) * 0xFF0000 + b2n (bit be 3) * 0xFF000000)

/-- The dwords of a write of BAR4: the pending bits are read-only. -/
def State.bar4Write (s : State) (off : Nat) : List HostDword → State
  | [] => s
  | d :: ds =>
    let m := beMask d.be
    let s := if off < 0x400 then s.msixPut (off / 4) ((s.host.table (off / 4) &&& ~~~ m) ||| (d.v &&& m)) else s
    State.bar4Write s (off + 4) ds

/-- HOST_BAR_READ (R339): it waits while a region that it reads is waking. -/
def execHostBarRead (bar : Bar) (off cnt : Nat) (s : State) : Out :=
  if !s.endpointUp || !decide (off + 4 * cnt ≤ barSize bar) then ok s
  else if bar = .bar4 then ok (s.bar4Read off cnt)
  else
    match s.waits .host (s.barAddrs bar off cnt) with
    | some s => ok s
    | none => ok (s.barRead bar off 0 cnt)

/-- The dwords of a write performed in ascending order. -/
def State.barWrite (s : State) (b : Bar) (off : Nat) : Nat → List HostDword → State
  | _, [] => s
  | i, d :: ds =>
    let a := s.barAddr b off i
    if d.be &&& 7 ≠ 7 then State.barWrite (s.hostErr 3 a) b off (i + 1) ds
    else
      match s.barPut b a (d.v.extractLsb' 0 20) with
      | .done s _ => State.barWrite s b off (i + 1) ds
      | .hold s => State.barWrite s b off (i + 1) ds
      | .bad s e =>
        match e with
        | .uncorr => State.barWrite s b off (i + 1) ds
        | .poison => State.barWrite s b off (i + 1) ds
        | .refused => State.barWrite s b off (i + 1) ds
        | _ => State.barWrite (s.hostErr (barErrBit b) a) b off (i + 1) ds

/-- HOST_BAR_WRITE (R339): a dword with byte 0, 1 or 2 disabled is dropped and sets PART, one that faults is dropped and
recorded; the write waits while a region that it writes is waking. -/
def execHostBarWrite (bar : Bar) (off : Nat) (ds : List HostDword) (s : State) : Out :=
  if !s.endpointUp || !decide (off + 4 * ds.length ≤ barSize bar) then ok s
  else if bar = .bar4 then ok (s.bar4Write off ds)
  else
    match s.waits .host (s.barAddrs bar off ds.length) with
    | some s => ok s
    | none => ok (s.barWrite bar off 0 ds)

/-! ## Posts and the mailbox (R340, R341) -/

/-- A write of HOST_KPOST (R342). -/
def execHostKpost (who : Master) (v : Word) (s : State) : Out := s.writeBy who 0x90008 v

/-- MAILBOX_POST (R341): the host posts to the keeper core, any other writer to the host. -/
def execMailboxPost (who : Master) (len : BitVec 12) (s : State) : Out :=
  s.writeBy who (if who = .host then 0x9000A else 0x9000B) (0x80000 ||| len.zeroExtend 20)

/-- MAILBOX_RELEASE (R341): the reader clears BUSY. -/
def execMailboxRelease (who : Master) (s : State) : Out := s.writeBy who (if who = .host then 0x9000B else 0x9000A) 0

/-! ## Configuration space and MSI-X (R338, R340) -/

/-- Device ID (R338). -/
def State.deviceId (s : State) : BitVec 16 := if s.dev.gx4816 then 0x4816 else 0x4820

/-- The dwords of the configuration header that R338 gives: Device and Vendor ID, Bus Master Enable, and the class code
with the revision (PRESUMED log 31, DESIGN CHOICE log 93). -/
def State.cfgRead (s : State) (i : Nat) : Option (BitVec 32) :=
  match i with
  | 0 => some (s.deviceId ++ Config.vid)
  | 1 => some (if s.host.bme then 4 else 0)
  | 2 => some (0x120000#24 ++ Config.pciRevision)
  | _ => none

/-- PCIE_CONFIGURATION_WRITE (R338): Bus Master Enable, the power state, the MSI-X controls and the error status of the
function; a vector that is masked no more sends what is pending. -/
def execPcieConfigurationWrite (c : CfgWrite) (d3 : Bool) (s : State) : Out :=
  if !s.up || !s.host.lup then ok s
  else
    let s := { s with host := { s.host with
      bme := c.bme, d3 := d3, msixEn := c.msixEn, fmask := c.fmask, aer := s.host.aer &&& ~~~ c.aer } }
    ok ((List.range 64).foldl State.msixRelease s)

/-- MSI_X_TABLE_WRITE (R339, R340): a dword of a vector's entry; unmasking it sends a message that is pending. -/
def execMsiXTableWrite (vec : BitVec 6) (dw : BitVec 2) (v : BitVec 32) (s : State) : Out :=
  if !s.endpointUp then ok s
  else
    ok (s.msixPut (4 * vec.toNat + dw.toNat) v)

/-- FUNCTION_LEVEL_RESET (R343). -/
def execFunctionLevelReset (s : State) : Out := if !s.up || !s.host.lup then ok s else ok s.functionReset

/-- PCIE_LINK_UP (R338): the link trains while LTEN = 1, at a width of 2^width lanes and a rate of the generation. -/
def execPcieLinkUp (width speed : BitVec 3) (s : State) : Out :=
  if s.up && s.host.lten && !s.host.lup && decide (width.toNat ≤ 3) && decide (1 ≤ speed.toNat) && decide (speed.toNat ≤ 5) then
    ok { s with host := { s.host with lup := true, width := width, speed := speed } }
  else ok s

end Sys2Proof.Machine
end

