-- ==== Sys2Proof/Machine/Memory.lean ====
section
/-! DEFINITION. The load and store instructions of the steward core (R216-R222, R233, R236, R246-R248), and the events
that return load data and perform stores. -/

namespace Sys2Proof.Machine

/-! ## Shared forms -/

/-- Where a word loaded into Wn goes (R209). -/
def Core.slotW (c : Core) (n : BitVec 5) : Slot := if n = 0 then .nil else .w (wKey c.cst.pl n)

/-- The next register of a pair or quad. -/
def nextReg (n : BitVec 5) (i : Nat) : BitVec 5 := n + BitVec.ofNat 5 i

/-- Where lane j of Vn lies in the 8-lane view (R211). -/
def laneSlot (n j : Nat) : Slot := if j % 2 = 0 then .flo (4 * n + j / 2) else .fhi (4 * n + j / 2)

/-- The slots of records of m fields loaded into V registers from Vd: field f of record e goes to lane e of Vd+f
(R236). -/
def recordSlots (d m : Nat) : List Slot := (List.range (8 * m)).map (fun i => laneSlot (d + i % m) (i / m))

/-- A load of n consecutive words cut at multiples of m (R219). -/
def State.loadOp (s : State) (k : Nat) (e : MemEa) (legal fv sv : Bool) (n m : Nat) (slots : Core → List Slot) :
    Out :=
  s.instr k (fun c =>
    match c.ea e with
    | none => s.illegal k
    | some (a, ad, u) =>
      if !legal then s.illegal k
      else if fv && !s.profFV c then s.fault k 3
      else s.load k (eaLen e) (splitAt m (addrsFrom ad n)) (slots c) (u.map (fun v => (a, v))) false sv)

/-- A store of consecutive words cut at multiples of m. -/
def State.storeOp (s : State) (k : Nat) (e : MemEa) (legal fv sv : Bool) (m : Nat) (ws : Core → List Word) : Out :=
  s.instr k (fun c =>
    match c.ea e with
    | none => s.illegal k
    | some (a, ad, u) =>
      if !legal then s.illegal k
      else if fv && !s.profFV c then s.fault k 3
      else s.store k (eaLen e) (splitAt m (addrsFrom ad (ws c).length)) (ws c) (u.map (fun v => (a, v))) sv)

/-- The eight lanes of Vn as words. -/
def Core.lanes (c : Core) (n : Nat) : List Word := (List.range 8).map (c.v20 n)

/-! ## Words, doubles and quads of W -/

/-- LW Wd, ea (R246, R247). -/
def execLw (k : Nat) (d : BitVec 5) (e : MemEa) (s : State) : Out :=
  s.loadOp k e true false false 1 1 (fun c => [c.slotW d])
/-- SW Ws, ea (R246, R247). -/
def execSw (k : Nat) (rs : BitVec 5) (e : MemEa) (s : State) : Out :=
  s.storeOp k e true false false 1 (fun c => [c.wr rs])
/-- LD Wd, ea (R246, R247): d even. -/
def execLd (k : Nat) (d : BitVec 5) (e : MemEa) (s : State) : Out :=
  s.loadOp k e (!bit d 0) false false 2 2 (fun c => [c.slotW d, c.slotW (nextReg d 1)])
/-- SD Ws, ea (R246, R247): s even. -/
def execSd (k : Nat) (rs : BitVec 5) (e : MemEa) (s : State) : Out :=
  s.storeOp k e (!bit rs 0) false false 2 (fun c => [c.wr rs, c.wr (nextReg rs 1)])
/-- LQ Wd, ea (R247): d a multiple of 4. -/
def execLq (k : Nat) (d : BitVec 5) (e : Mem2) (s : State) : Out :=
  s.loadOp k (.two e) (d.toNat % 4 == 0) false false 4 4 (fun c => (List.range 4).map (fun i => c.slotW (nextReg d i)))
/-- SQ Ws, ea (R247): s a multiple of 4. -/
def execSq (k : Nat) (rs : BitVec 5) (e : Mem2) (s : State) : Out :=
  s.storeOp k (.two e) (rs.toNat % 4 == 0) false false 4 (fun c => (List.range 4).map (fun i => c.wr (nextReg rs i)))

/-! ## Address and F registers -/

/-- LA Aa, ea (R247): the loaded value stands even where the form post-modifies Aa (R246). -/
def execLa (k : Nat) (d : BitVec 3) (e : Mem2) (s : State) : Out :=
  s.loadOp k (.two e) true false false 2 2 (fun _ => [.alo d.toNat, .ahi d.toNat])
/-- SA Aa, ea (R247). -/
def execSa (k : Nat) (rs : BitVec 3) (e : Mem2) (s : State) : Out :=
  s.storeOp k (.two e) true false false 2 (fun c => [loW (c.ar rs), hiW (c.ar rs)])
/-- LF Fd, ea (R247). -/
def execLf (k : Nat) (d : BitVec 5) (e : Mem2) (s : State) : Out :=
  s.loadOp k (.two e) true true false 2 2 (fun _ => [.flo d.toNat, .fhi d.toNat])
/-- SF Fs, ea (R247). -/
def execSf (k : Nat) (rs : BitVec 5) (e : Mem2) (s : State) : Out :=
  s.storeOp k (.two e) true true false 2 (fun c => [loW (c.fr rs.toNat), hiW (c.fr rs.toNat)])
/-- LFW Fd, ea (R247): Fd[39:20] becomes 0. -/
def execLfw (k : Nat) (d : BitVec 5) (e : Mem2) (s : State) : Out :=
  s.loadOp k (.two e) true true false 1 1 (fun _ => [.flw d.toNat])
/-- SFW Fs, ea (R247). -/
def execSfw (k : Nat) (rs : BitVec 5) (e : Mem2) (s : State) : Out :=
  s.storeOp k (.two e) true true false 1 (fun c => [loW (c.fr rs.toNat)])

/-! ## Reservations and atomic accesses (R233, R248) -/

/-- LWX Wd, (Aa) (R233). -/
def execLwx (k : Nat) (d : BitVec 5) (a : BitVec 3) (s : State) : Out :=
  s.instr k (fun c => s.load k 2 [[(c.ar a).toNat]] [c.slotW d] none true false)

/-- An atomic access at its point of order, once the store buffer has drained and after every older load from its target
and any LWX (R233, R288): what it did to the word, and the result that its load slot receives (R217). -/
def State.atomic (s : State) (k : Nat) (d : BitVec 5) (a : Nat) (needs : List Need) (act : State → Word → State × Word) :
    Out :=
  s.instr k (fun c =>
    match s.checkAll k c needs true true [[a]] with
    | some (e, b) => s.dataFault k e b true
    | none =>
      match s.drainStores k with
      | .hold s => ok s
      | .done s =>
        match s.captureLoads k (fun l => l.lwx || s.sameTarget l.addrs [a]) with
        | .hold s => ok s
        | .done s =>
        match s.readAll (.core k) [a] with
        | .hold s => ok s
        | .got s r =>
          let q : State × LdData :=
            match r with
            | .ok ws => let x := act s (ws.headD 0); (x.1, .ok [x.2])
            | .bad e b => (s, .bad e b)
          let d' := (q.1.core k).retire 2
          let p : PendLoad := { addrs := [a], slots := [c.slotW d], data := some q.2, wr := true }
          q.1.done k { d' with loads := d'.loads ++ [p] })

/-- SWX Wd, Ws, (Aa) (R233): the store happens, and the result is 1, where the reservation still names the word; every
SWX clears the reservation. -/
def execSwx (k : Nat) (d rs : BitVec 5) (a : BitVec 3) (s : State) : Out :=
  let c := s.core k
  let ad := (c.ar a).toNat
  let v := c.wr rs
  let clear (s : State) : State := s.onCore k (fun c => { c with resv := none })
  s.atomic k d ad [.w] (fun s _ =>
    if (s.core k).resv = some ad then (clear (s.putWord (.core k) ad v).1, 1) else (clear s, 0))

/-- XADD Wd, Ws, (Aa) (R248). -/
def execXadd (k : Nat) (d rs : BitVec 5) (a : BitVec 3) (s : State) : Out :=
  let c := s.core k
  let ad := (c.ar a).toNat
  let v := c.wr rs
  s.atomic k d ad [.r, .w] (fun s o => ((s.putWord (.core k) ad (o + v)).1, o))

/-! ## V registers (R236) -/

/-- VLD Vd, ea (R236, R247). -/
def execVld (k : Nat) (d : BitVec 3) (e : Mem2) (s : State) : Out :=
  s.loadOp k (.two e) true true true 8 4 (fun _ => recordSlots d.toNat 1)
/-- VST Vs, ea (R236, R247). -/
def execVst (k : Nat) (rs : BitVec 3) (e : Mem2) (s : State) : Out :=
  s.storeOp k (.two e) true true true 4 (fun c => c.lanes rs.toNat)
/-- VLD2 Vd, ea (R236, R247): d at most 6. -/
def execVld2 (k : Nat) (d : BitVec 3) (e : Mem2) (s : State) : Out :=
  s.loadOp k (.two e) (decide (d.toNat ≤ 6)) true true 16 4 (fun _ => recordSlots d.toNat 2)
/-- VLD3 Vd, ea: d at most 5. -/
def execVld3 (k : Nat) (d : BitVec 3) (e : Mem2) (s : State) : Out :=
  s.loadOp k (.two e) (decide (d.toNat ≤ 5)) true true 24 4 (fun _ => recordSlots d.toNat 3)
/-- VLD4 Vd, ea: d at most 4. -/
def execVld4 (k : Nat) (d : BitVec 3) (e : Mem2) (s : State) : Out :=
  s.loadOp k (.two e) (decide (d.toNat ≤ 4)) true true 32 4 (fun _ => recordSlots d.toNat 4)

/-- The addresses of a gather or scatter, one access each (R236). -/
def Core.laneAddrs (c : Core) (a i : BitVec 3) : List (List Nat) :=
  (c.lanes i.toNat).map (fun w => [(c.ar a + w.signExtend 40).toNat])

/-- VGATH Vd, (Aa), Vi (R247). -/
def execVgath (k : Nat) (d a i : BitVec 3) (s : State) : Out :=
  s.instr k (fun c =>
    if !s.profFV c then s.fault k 3
    else s.load k 2 (c.laneAddrs a i) ((List.range 8).map (laneSlot d.toNat)) none false true)
/-- VSCAT Vs, (Aa), Vi (R247). -/
def execVscat (k : Nat) (rs a i : BitVec 3) (s : State) : Out :=
  s.instr k (fun c =>
    if !s.profFV c then s.fault k 3 else s.store k 2 (c.laneAddrs a i) (c.lanes rs.toNat) none true)

/-! ## Events -/

/-- LOAD_DATA_RETURN (R216-R218): the oldest outstanding load past its delay slot writes its registers, or its DATA
fault is taken at the instruction that is held; while run control holds the core the fault waits (R265). -/
def execLoadDataReturn (k : Nat) (s : State) : Out :=
  if !s.clusterOn k then noUnit
  else
    match (s.core k).loads with
    | [] => ok s
    | l :: ls =>
      if l.age = 0 then ok s
      else
        match s.readLoad k l with
        | .hold s => ok s
        | .got s (.ok ws) => ok (s.onCore k (fun c => { c with loads := ls }.putSlots l.slots ws))
        | .got s (.bad e a) =>
          let s := s.onCore k (fun c => { c with loads := { l with data := some (.bad e a) } :: ls })
          if s.released (s.core k) then
            (match s.drainLoads k with
              | .hold s => ok s
              | .done s none => ok s
              | .done s (some f) => s.loadFault k f)
          else ok s

/-- STORE_PERFORMED (R220): the oldest entry of the store buffer reaches its point of order. -/
def execStorePerformed (k : Nat) (s : State) : Out :=
  if !s.clusterOn k then noUnit
  else
    match s.performStore k with
    | .hold s => ok s
    | .done s => ok s

end Sys2Proof.Machine
end

