-- ==== Sys2Proof/Machine/Monitor.lean ====
section
/-! DEFINITION. The Exkel monitor: its frames, sessions and commands (R380-R387, R360). -/

namespace Sys2Proof.Machine

/-! ## Frames (R383) -/

/-- A device word as a frame carries it. -/
def wordBytes (v : Word) : List Byte := leBytes v.toNat 3

/-- LEN lies in its range and is the frame's, and the CRC passes. -/
def frameOk (l : List Byte) : Bool :=
  let n := l.length
  slice l 0 2 == [0xA5, 0x5A] && leNat (slice l 2 2) == n && decide (12 ≤ n) && decide (n ≤ 2048)
    && leNat (slice l (n - 4) 4) == (crc32 (slice l 2 (n - 6))).toNat

/-- The bytes of a request that its MAC covers: from LEN to the end of the payload. -/
def macInput (r : MonReq) (cmd : Byte) (payload : List Byte) : List Byte :=
  leBytes (28 + payload.length) 2 ++ leBytes r.seq.toNat 2 ++ [cmd, r.flags] ++ payload

/-! ## Channels and responses -/

/-- A channel of the monitor. -/
def State.mon (s : State) (ch : Channel) : MonCh := match ch with | .uart => s.monU | .mailbox => s.monM

/-- A channel of the monitor replaced. -/
def State.setMon (s : State) (ch : Channel) (m : MonCh) : State :=
  match ch with | .uart => { s with monU := m } | .mailbox => { s with monM := m }

/-- A response: STATUS and what follows it, with its MAC where there is one. -/
def State.answer (s : State) (r : MonReq) (cmd st : Byte) (p : List Byte) (mac : Option (BitVec 128)) : State :=
  s.setMon r.ch { s.mon r.ch with resp := some { cmd := cmd + 0x80, seq := r.seq, payload := st :: p, mac := mac } }

/-- A response without a MAC. -/
def State.reply (s : State) (r : MonReq) (cmd st : Byte) (p : List Byte) : State := s.answer r cmd st p none

/-- Whether the monitor is there for a request (R375, R380): nothing answers, or a status refuses it, or it is taken. -/
inductive Serve where
  | silent
  | refuse (st : Byte)
  | take
  deriving DecidableEq, Repr

/-- The monitor of the keeper firmware, the recovery monitor (R375), or the boot ROM's in VOID (R380). -/
def State.serves (s : State) (ch : Channel) (cmd : Byte) : Serve :=
  if !s.up then .silent
  else
    match s.dev.stage with
    | .firmware => .take
    | .recovery => if ch = .mailbox then .silent else if cmd = 1 ∨ cmd = 2 then .take else .refuse 2
    | .stopped =>
      if ch = .mailbox ∨ s.dev.lc ≠ 4 then .silent else if cmd = 1 then .take else .refuse 4
    | .held => .silent
    | .started => .silent
    | .fused => .silent
    | .rom => .silent
    | .rolled => .silent
    | .cleared => .silent

/-- The commands that need no session in a life-cycle state (R380). -/
def openCmd (lc : BitVec 3) (cmd : Byte) : Bool :=
  lc == 0 || [0x01, 0x02, 0x10, 0x11].contains cmd || (lc == 1 && cmd == 0x60)

/-- Sessions (R384, R386): a request with a MAC in a session is checked, its MAC before its number; one without is taken
where it needs no session. -/
def State.vet (s : State) (r : MonReq) (cmd : Byte) (payload : List Byte) : State × Option Byte :=
  let m := s.mon r.ch
  let plain : State × Option Byte := (s, if openCmd s.dev.lc cmd then none else some 3)
  match m.key with
  | none => plain
  | some key =>
    if !bit r.flags 0 then plain
    else if Config.hmac128 key (macInput r cmd payload) ≠ r.mac then (s, some 6)
    else if r.seq ≠ m.next then (s, some 5)
    else (s.setMon r.ch { m with next := m.next + 1, last := s.pip.now.toNat }, none)

/-- A request and what it does once it is taken. -/
def State.monitor (s : State) (r : MonReq) (cmd : Byte) (payload : List Byte) (body : State → Out) : Out :=
  match s.serves r.ch cmd with
  | .silent => ok s
  | .refuse st => ok (s.reply r cmd st [])
  | .take =>
    match s.vet r cmd payload with
    | (s, some e) => ok (s.reply r cmd e [])
    | (s, none) => body s

/-- A response is sent, and then a reset or the OFF state takes the session (R384, R386). -/
def State.lastWord (s : State) (ch : Channel) (f : State → State) : State :=
  let x := (s.mon ch).resp
  let t := f s
  t.setMon ch { t.mon ch with resp := x }

/-! ## Identity (R384) -/

/-- IDENT (R384). -/
def execIdent (r : MonReq) (s : State) : Out :=
  s.monitor r 0x01 [] (fun s => ok (s.reply r 0x01 0
    (leBytes Config.uid.toNat 10 ++ leBytes (if s.dev.gx4816 then 0x4816 else 0x4820) 2 ++ leBytes s.dev.lcWord.toNat 1
      ++ leBytes s.dev.version.toNat 4)))

/-- STATUS (R384). -/
def execStatus (r : MonReq) (s : State) : Out :=
  s.monitor r 0x02 [] (fun s => ok (s.reply r 0x02 0
    (wordBytes s.dev.bootWord ++ wordBytes s.pwrDev ++ wordBytes (BitVec.ofNat 20 (b2n s.int.age)))))

/-! ## Authorisation (R386) -/

/-- The life-cycle accepts a role's key: 1 owner, 2 vendor (R380). -/
def roleAccepted (lc : BitVec 3) (role : Byte) : Bool :=
  (role == 1 && lc == 2) || (role == 2 && (lc == 1 || lc == 3))

/-- AUTH_START (R386): it ends a session and a pending exchange of its channel. -/
def execAuthStart (r : MonReq) (role : BitVec 8) (qh : List (BitVec 8)) (s : State) : Out :=
  s.monitor r 0x10 (role :: qh) (fun s =>
    if !(role == 1 || role == 2) || qh.length != 97 then ok (s.reply r 0x10 2 [])
    else
      let m : MonCh := { s.mon r.ch with exch := none, key := none }
      let s := s.setMon r.ch m
      if m.lockedAt.isSome || !roleAccepted s.dev.lc role then ok (s.reply r 0x10 4 [])
      else
        let n := s.draws
        let s := { s with draws := n + 1 }
        let s := s.setMon r.ch { m with exch := some (role, qh, n) }
        ok (s.reply r 0x10 0 (Config.ephemeralPoint n ++ Config.random n 48)))

/-- The fuse field of a role (R380). -/
def Dev.roleKey (d : Dev) (role : Byte) : BitVec 384 := if role = 1 then d.okh else d.vkdNow

/-- H of R386. -/
def proofDigest (role : Byte) (qh : List Byte) (n : Nat) : BitVec 384 :=
  Config.sha384 (Config.random n 48 ++ qh ++ Config.ephemeralPoint n ++ leBytes Config.uid.toNat 10 ++ [role])

/-- Ks of R386. -/
def sessionKey (role : Byte) (qh : List Byte) (n : Nat) : List Byte :=
  Config.hkdf384 (Config.random n 48) (Config.sharedSecret n qh) (leBytes Config.uid.toNat 10 ++ [role])

/-- A failed AUTH_PROVE: the third on a channel locks AUTH_START there (R386). -/
def State.proofFailed (s : State) (r : MonReq) : State :=
  let m := s.mon r.ch
  let s := s.setMon r.ch { m with
    exch := none, fails := m.fails + 1
    lockedAt := if m.fails + 1 = 3 then some s.pip.now.toNat else m.lockedAt }
  s.reply r 0x11 4 []

/-- AUTH_PROVE (R386). -/
def execAuthProve (r : MonReq) (ph sig : List (BitVec 8)) (s : State) : Out :=
  s.monitor r 0x11 (ph ++ sig) (fun s =>
    if ph.length != 97 || sig.length != 96 then ok (s.reply r 0x11 2 [])
    else
      match (s.mon r.ch).exch with
      | none => ok (s.proofFailed r)
      | some (role, qh, n) =>
        if Config.sha384 ph = s.dev.roleKey role ∧ Config.ecdsaVerify ph (proofDigest role qh n) sig = true then
          let key := sessionKey role qh n
          let s := s.setMon r.ch { s.mon r.ch with
            exch := none, key := some key, role := role, next := r.seq + 1, last := s.pip.now.toNat, fails := 0 }
          let covered := leBytes 29 2 ++ leBytes r.seq.toNat 2 ++ [0x91, 0x01, 0x00]
          ok (s.answer r 0x11 0 [] (some (Config.hmac128 key covered)))
        else ok (s.proofFailed r))

/-- AUTH_END (R386). -/
def execAuthEnd (r : MonReq) (s : State) : Out :=
  s.monitor r 0x12 [] (fun s =>
    ok ((s.setMon r.ch { s.mon r.ch with key := none, exch := none }).reply r 0x12 0 []))

/-- SESSION_TIMEOUT (R386): 64 s without a valid request. -/
def execSessionTimeout (ch : Channel) (s : State) : Out :=
  let m := s.mon ch
  if m.key.isSome && decide (m.last + 64 * 2 ^ 20 ≤ s.pip.now.toNat) then ok (s.setMon ch { m with key := none }) else ok s

/-- AUTH_LOCKOUT_END (R386): 1,048,576 pips after the third failure. -/
def execAuthLockoutEnd (ch : Channel) (s : State) : Out :=
  let m := s.mon ch
  match m.lockedAt with
  | none => ok s
  | some t => if t + 1048576 ≤ s.pip.now.toNat then ok (s.setMon ch { m with lockedAt := none, fails := 0 }) else ok s

/-- MONITOR_FRAME_DISCARD (R383): a frame whose CRC fails or whose LEN is out of range has no effect and no response. -/
def execMonitorFrameDiscard (ch : Channel) (bytes : List (BitVec 8)) (s : State) : Out :=
  if frameOk bytes then ok s else ok (s.setMon ch { s.mon ch with resp := none })

/-! ## Memory through the debug master (R384, R390) -/

/-- A sequence of accesses of the debug master that ended: the words read, or the cause of the one that failed. -/
inductive MonAcc where
  | words (ws : List Word)
  | bad (cause : BitVec 4)

/-- The debug master's registers after one access of the monitor. -/
def State.debugAt (s : State) (a : Nat) (v : Word) : State :=
  { s with dbg := { s.dbg with addr := BitVec.ofNat 40 a, data := v } }

/-- Words read one at a time. -/
def State.monRead (s : State) (a : Nat) : Nat → State × MonAcc
  | 0 => (s, .words [])
  | n + 1 =>
    match s.debugRead a with
    | .hold s => (s, .bad 4)
    | .bad s c => ((s.debugAt a s.dbg.data).debugFail c, .bad c)
    | .done s v =>
      match State.monRead (s.debugAt a v) (a + 1) n with
      | (s, .words ws) => (s, .words (v :: ws))
      | (s, .bad c) => (s, .bad c)

/-- Words written one at a time. -/
def State.monWrite (s : State) (a : Nat) : List Word → State × MonAcc
  | [] => (s, .words [])
  | v :: vs =>
    match s.debugWrite a v with
    | .hold s => (s, .bad 4)
    | .bad s c => ((s.debugAt a v).debugFail c, .bad c)
    | .done s _ => State.monWrite (s.debugAt a v) (a + 1) vs

/-- The response to a sequence of accesses. -/
def State.monDone (s : State) (r : MonReq) (cmd : Byte) (x : MonAcc) : Out :=
  match x with
  | .words ws => ok (s.reply r cmd 0 (ws.flatMap wordBytes))
  | .bad c => if c = 5 then ok (s.reply r cmd 4 []) else ok (s.reply r cmd 8 [c.zeroExtend 8])

/-- MREAD and MWRITE share this: the count's range, the debug master's BUSY, and regions that have to wake, for which the
request waits as it came. -/
def State.monAccess (s : State) (r : MonReq) (cmd : Byte) (payload : List Byte) (a cnt : Nat) (body : State → Out) : Out :=
  s.monitor r cmd payload (fun t =>
    if cnt = 0 ∨ 512 < cnt then ok (t.reply r cmd 2 [])
    else if t.dbg.op.isSome then ok (t.reply r cmd 7 [])
    else
      match t.waits .debug ((List.range cnt).map (fun i => a + i)) with
      | some t => ok (t.setMon r.ch (s.mon r.ch))
      | none => body t)

/-- MREAD (R384, R390). -/
def execMread (r : MonReq) (a : Dbl) (cnt : BitVec 16) (s : State) : Out :=
  s.monAccess r 0x20 (leBytes a.toNat 5 ++ leBytes cnt.toNat 2) a.toNat cnt.toNat (fun s =>
    let s := { s with dbg := { s.dbg with allowse := bit r.flags 1 } }
    let x := s.monRead a.toNat cnt.toNat
    x.1.monDone r 0x20 x.2)

/-- MWRITE (R384, R390). -/
def execMwrite (r : MonReq) (a : Dbl) (cnt : BitVec 16) (ws : List Word) (s : State) : Out :=
  s.monAccess r 0x21 (leBytes a.toNat 5 ++ leBytes cnt.toNat 2 ++ ws.flatMap wordBytes) a.toNat cnt.toNat (fun s =>
    if ws.length ≠ cnt.toNat then ok (s.reply r 0x21 2 [])
    else
      let x := s.monWrite a.toNat ws
      x.1.monDone r 0x21 x.2)

/-! ## Run control (R384, R385, R388) -/

/-- The device address of a register of cluster k's block. -/
def clAddr (k off : Nat) : Nat := 0x30200000 + k * 0x400 + off

/-- A run-control command of the monitor; the response shows CL_RC_STAT. -/
def State.monRc (s : State) (r : MonReq) (cmd : Byte) (k : BitVec 8) (op : Word) : Out :=
  s.monitor r cmd [k] (fun s =>
    match s.debugWrite (clAddr k.toNat 0) op with
    | .hold s => ok s
    | .bad s c => s.monDone r cmd (.bad c)
    | .done s _ => ok (s.reply r cmd 0 (wordBytes (s.core k.toNat).rcStat)))

/-- HALT (R384, R389). -/
def execHalt (r : MonReq) (k : BitVec 8) (s : State) : Out := s.monRc r 0x30 k 1
/-- STEP (R384, R389). -/
def execStep (r : MonReq) (k : BitVec 8) (s : State) : Out := s.monRc r 0x31 k 2
/-- RESUME (R384, R389). -/
def execResume (r : MonReq) (k : BitVec 8) (s : State) : Out := s.monRc r 0x32 k 3

/-- A selector names a register (R385): no reserved bit, an index inside its set. -/
def selOk (sel : Word) : Bool :=
  bits sel 19 10 == 0 &&
    decide (bits sel 6 0 < (match bits sel 9 7 with | 0 => 32 | 1 => 8 | 2 => 8 | 3 => 32 | 4 => 32 | 5 => 128 | 6 => 3 | _ => 1))

/-- The register that a selector names has 40 bits. -/
def selWide (sel : Word) : Bool := [1, 3, 7].contains (bits sel 9 7)

/-- What CREAD and CWRITE check first (R385, R387, R367). -/
def State.selStatus (s : State) (k : Nat) (sel : Word) : Option (Byte × List Byte) :=
  let c := s.core k
  if !s.clusterOn k then some (8, [1])
  else if !selOk sel then some (2, [])
  else if s.dev.lc == 2 && (selAsset sel || (c.isHalted && c.cst.pl == .m)) then some (4, [])
  else if c.rolling then some (8, [4])
  else if !c.isHalted then some (7, [])
  else none

/-- CREAD (R385). -/
def execCread (r : MonReq) (k : BitVec 8) (sel : Word) (s : State) : Out :=
  s.monitor r 0x33 (k :: wordBytes sel) (fun s =>
    match s.selStatus k.toNat sel with
    | some e => ok (s.reply r 0x33 e.1 e.2)
    | none =>
      let pc := bits sel 9 7 == 7
      let s := s.onCore k.toNat (fun c => if pc then c else { c with rcSel := sel })
      let c := s.core k.toNat
      ok (s.reply r 0x33 0 (leBytes (if pc then c.pc else c.rcRead sel).toNat 5)))

/-- CWRITE (R385). -/
def execCwrite (r : MonReq) (k : BitVec 8) (sel : Word) (v : Dbl) (s : State) : Out :=
  s.monitor r 0x34 (k :: (wordBytes sel ++ leBytes v.toNat 5)) (fun s =>
    match s.selStatus k.toNat sel with
    | some e => ok (s.reply r 0x34 e.1 e.2)
    | none =>
      if !selWide sel && hiW v != 0 then ok (s.reply r 0x34 2 [])
      else
        let pc := bits sel 9 7 == 7
        let s := s.onCore k.toNat (fun c => if pc then { c with pc := v } else { c with rcSel := sel }.rcWrite sel v)
        ok (s.reply r 0x34 0 []))

/-! ## Plans, resets, device states, life-cycle (R360, R377, R371, R381) -/

/-- REPLAN (R360): every enabled region. -/
def execReplan (r : MonReq) (s : State) : Out :=
  s.monitor r 0x40 [] (fun s => ok (((List.range 48).foldl State.replan s).reply r 0x40 0 []))

/-- RESET warm (R377): the response is sent before the reset. -/
def execResetWarm (r : MonReq) (s : State) : Out :=
  s.monitor r 0x50 [1] (fun s => ok ((s.reply r 0x50 0 []).lastWord r.ch (fun s => s.warmReset 3 .internalWarm)))

/-- RESET cold (R377). -/
def execResetCold (r : MonReq) (s : State) : Out :=
  s.monitor r 0x50 [2] (fun s => ok ((s.reply r 0x50 0 []).lastWord r.ch (fun s => s.coldReset 4 .internalCold)))

/-- POWER STANDBY (R371): the keeper core writes PWR_DEV.REQ. -/
def execPowerStandby (r : MonReq) (s : State) : Out :=
  s.monitor r 0x51 [1] (fun s => ok ((s.pwrReq 1).reply r 0x51 0 []))

/-- POWER ACTIVE (R371). -/
def execPowerActive (r : MonReq) (s : State) : Out :=
  s.monitor r 0x51 [2] (fun s => ok ((s.pwrReq 2).reply r 0x51 0 []))

/-- POWER OFF (R371). -/
def execPowerOff (r : MonReq) (s : State) : Out :=
  s.monitor r 0x51 [3] (fun s => ok ((s.reply r 0x51 0 []).lastWord r.ch (fun s => s.turnOff false)))

/-- ENROLL (R381): from SEALED only. -/
def execEnroll (r : MonReq) (key : List (BitVec 8)) (s : State) : Out :=
  s.monitor r 0x60 key (fun s =>
    if s.dev.lc ≠ 1 then ok (s.reply r 0x60 4 [])
    else if key.length ≠ 97 then ok (s.reply r 0x60 2 [])
    else if s.dev.fuseOp ≠ .none then ok (s.reply r 0x60 7 [])
    else
      let d := s.draw 256
      let s := { d.2 with dev := { d.2.dev with fuseOp := .enroll (Config.sha384 key) d.1 } }
      ok (s.reply r 0x60 0 []))

/-- The transitions of LCSET (R381). -/
def lcNext (lc : BitVec 3) (target : Byte) : Option FuseOp :=
  if lc = 0 ∧ target = 1 then some .sealing
  else if lc = 2 ∧ target = 3 then some .toReturn
  else if lc ≠ 4 ∧ target = 4 then some .toVoid
  else none

/-- LCSET (R381): the response is sent before programming. -/
def execLcset (r : MonReq) (target : BitVec 8) (s : State) : Out :=
  s.monitor r 0x61 [target] (fun s =>
    match lcNext s.dev.lc target with
    | none => ok (s.reply r 0x61 4 [])
    | some f =>
      if s.dev.fuseOp ≠ .none then ok (s.reply r 0x61 7 [])
      else ok ({ s with dev := { s.dev with fuseOp := f } }.reply r 0x61 0 []))

end Sys2Proof.Machine
end

