-- ==== Sys2Proof/Machine/Ports.lean ====
section
/-! DEFINITION. The commands of the link ports (R312-R331). -/

namespace Sys2Proof.Machine

/-- A command of a port that the device has. -/
def State.onLink (s : State) (p : Nat) (f : State → State) : Out := if 8 ≤ p then noUnit else ok (f s)

/-! ## Control (R313, R317, R325) -/

/-- A write of LNK_Pn_CTL (R312, R313). -/
def execLnkPnCtl (who : Master) (p : Nat) (v : Word) (s : State) : Out :=
  if 8 ≤ p then noUnit else s.writeBy who (0x40000 + p * 0x100) v

/-- A write of LNK_TXSIG, low word and then high word (R325). -/
def State.sendSig (s : State) (who : Master) (g : Dbl) : Out :=
  match s.writeBy who 0x40802 (loW g) with
  | .next s => s.writeBy who 0x40803 (hiW g)
  | o => o

/-- LNK_TXSIG written (R325): a core's stores that precede the write are performed first, as before SIGNAL (R18). -/
def execLnkTxsig (who : Master) (g : Dbl) (s : State) : Out :=
  match who with
  | .core k =>
    (match s.drainStores k with
      | .hold s => ok s
      | .done s => s.sendSig who g)
  | _ => s.sendSig who g

/-- A write of LNK_FT_IDX (R317). -/
def execLnkFtIdx (who : Master) (v : Word) (s : State) : Out := s.writeBy who 0x40804 v

/-- A write of LNK_FT_CMD.WR (R317). -/
def execLnkFtCmdWr (who : Master) (s : State) : Out := s.writeBy who 0x40805 1

/-! ## Ethernet (R314, R315) -/

/-- A sub-port of an enabled Ethernet port that is up. -/
def Port.hears (x : Port) (sub : Nat) : Bool := x.en && !x.bosum && decide (sub < x.links) && bit x.up sub

/-- A unicast destination address other than the port's (R315). -/
def foreignMac (b : List Byte) (mac : BitVec 48) : Bool :=
  !bit (b.headD 0) 0 && beNat (slice b 0 6) != mac.toNat

/-- A frame received on an Ethernet port: the checks of R315, then its classification. -/
def State.ethReceive (s : State) (p sub : Nat) (f : EthFrame) : State :=
  let x := s.port p
  if !x.hears sub then s
  else if !f.fcsOk then s.onPort p (fun y => y.count 2 1)
  else
    let s := s.onPort p (fun y => y.count 0 1)
    if f.bytes.length + 4 < 64 ∨ 9216 < f.bytes.length + 4 ∨ foreignMac f.bytes x.mac = true then
      s.onPort p (fun y => y.count 3 1)
    else s.classify p sub f

/-- ETHERNET_FRAME_RECEIVE (R315). -/
def execEthernetFrameReceive (p sub : Nat) (f : EthFrame) (s : State) : Out := s.onLink p (fun s => s.ethReceive p sub f)

/-! ## Bosum (R319-R325) -/

/-- A MSG or SIG frame received: a frame of another type is none of this command's. -/
def State.dataReceive (s : State) (p type : Nat) (f : BosumFrame) : State :=
  if f.crcOk && f.legal && f.type != type then s else s.bosumData p f

/-- BOSUM_MSG_RECEIVE (R322, R324). -/
def execBosumMsgReceive (p : Nat) (f : BosumFrame) (s : State) : Out := s.onLink p (fun s => s.dataReceive p 0 f)

/-- BOSUM_SIG_RECEIVE (R325). -/
def execBosumSigReceive (p : Nat) (f : BosumFrame) (s : State) : Out := s.onLink p (fun s => s.dataReceive p 1 f)

/-- A CTRL, NAK or INIT frame received: one whose CRC fails, that R320 makes illegal, or that its link is not up for, is
discarded and counted. -/
def State.bareReceive (s : State) (p type : Nat) (up : Bool) (f : BosumFrame) (act : State → State) : State :=
  let x := s.port p
  if !(x.en && x.bosum) then s
  else if up && !x.linkUp then s.onPort p (fun y => y.dropped f)
  else if !f.crcOk then s.onPort p (fun y => y.count 2 1)
  else if !f.legal then s.onPort p (fun y => (y.count 0 1).count 3 1)
  else if f.type ≠ type then s
  else act (s.onPort p (fun y => y.count 0 1))

/-- BOSUM_CTRL_RECEIVE (R321, R322). -/
def execBosumCtrlReceive (p : Nat) (f : BosumFrame) (s : State) : Out :=
  s.onLink p (fun s => s.bareReceive p 2 true f (fun s => s.onPort p (fun y => y.takeAck f)))

/-- BOSUM_NAK_RECEIVE (R322): what its ACK covers leaves the replay buffer, and the rest is replayed. -/
def execBosumNakReceive (p : Nat) (f : BosumFrame) (s : State) : Out :=
  s.onLink p (fun s => s.bareReceive p 3 true f (fun s =>
    let s := s.onPort p (fun y => y.takeAck f)
    if (s.port p).unacked = [] then s else s.replay p))

/-- An INIT of the peer (R323): a link that is up keeps its state. -/
def State.initReceive (s : State) (p : Nat) (f : BosumFrame) : State :=
  if (s.port p).linkUp then s
  else
    (s.onPort p (fun y => { y with
      initGot := true, peer := f.h7.extractLsb' 0 12, tok0 := bits f.h3 9 0, tok1 := bits f.h3 19 10 })).tryLinkUp p

/-- BOSUM_INIT_RECEIVE (R323). -/
def execBosumInitReceive (p : Nat) (f : BosumFrame) (s : State) : Out :=
  s.onLink p (fun s => s.bareReceive p 4 false f (fun s => s.initReceive p f))

/-- REPLAY_TIMEOUT (R322): 8 µs have passed without progress of ACK. -/
def execReplayTimeout (p : Nat) (s : State) : Out :=
  s.onLink p (fun s =>
    let x := s.port p
    if x.en && x.bosum && x.linkUp && x.unacked != [] then s.replay p else s)

/-- CTRL_FRAME_SEND (R321, R322): an accepted frame is acknowledged, or tokens are returned. -/
def execCtrlFrameSend (p : Nat) (s : State) : Out :=
  s.onLink p (fun s =>
    let x := s.port p
    if x.en && x.bosum && x.linkUp && (x.ackDue || decide (0 < x.ret0 + x.ret1)) then
      s.onPort p (fun y => (y.sendBare 2).count 1 1)
    else s)

/-- The INIT frame of a device: its number and the tokens of its whole buffer (R320, R321). -/
def initFrame (dev : BitVec 12) : BosumFrame :=
  { mkFrame 4 false 0 0 0 0 0 dev.toNat [] with h3 := BitVec.ofNat 20 (896 * 2 ^ 10 + 128) }

/-- INIT_FRAME_SEND (R323): a link with block lock that is not up sends INIT. -/
def execInitFrameSend (p : Nat) (s : State) : Out :=
  s.onLink p (fun s =>
    let x := s.port p
    if x.en && x.bosum && !x.linkUp && bit x.lock 0 then
      (s.onPort p (fun y => { (y.put (.msg false (initFrame s.lnk.devnum))).count 1 1 with initSent := true })).tryLinkUp p
    else s)

/-! ## Transmission and the PCS (R321, R323, R329, R332) -/

/-- FRAME_TRANSMIT (R321, R329, R337). -/
def execFrameTransmit (p sub : Nat) (s : State) : Out := s.onLink p (fun s => s.transmit p sub)

/-- A PCS loses block lock (R323): a Bosum link goes down, an Ethernet link's UP falls. -/
def State.lockLoss (s : State) (p sub : Nat) : State :=
  let s := s.setPort p { s.port p with lock := (s.port p).lock &&& ~~~ upBit sub }
  let x := s.port p
  if x.bosum then
    (if sub ≠ 0 then s
     else if x.linkUp then s.bosumDown p
     else s.setPort p { x with initGot := false, initSent := false })
  else if x.en then s.onPort p Port.relink
  else s

/-- PCS_BLOCK_LOCK_LOSS (R323). -/
def execPcsBlockLockLoss (p sub : Nat) (s : State) : Out := if 8 ≤ sub then noUnit else s.onLink p (fun s => s.lockLoss p sub)

/-- PCS_BLOCK_LOCK_GAIN (R332): UP of an Ethernet link rises; a Bosum port may exchange INIT. -/
def execPcsBlockLockGain (p sub : Nat) (s : State) : Out :=
  if 8 ≤ sub then noUnit
  else
    s.onLink p (fun s =>
      let s := s.setPort p { s.port p with lock := (s.port p).lock ||| upBit sub }
      let x := s.port p
      if x.en && !x.bosum then s.onPort p Port.relink else s)

end Sys2Proof.Machine
end

