-- ==== Sys2Proof/Machine/Scalar.lean ====
section
/-! DEFINITION. Scalar floating point (R76-R80, R254, R255). -/

namespace Sys2Proof.Machine

/-! ## Shared forms -/

/-- The format that WD names (R254). -/
def fmtOf (wd : Bool) : Fmt := if wd then f40 else f20

/-- The bits of an F register that an operation of a format reads (R208). -/
def Core.fbits (c : Core) (wd : Bool) (n : BitVec 5) : Nat :=
  if wd then (c.fr n.toNat).toNat else (loW (c.fr n.toNat)).toNat

/-- An F register written with a result; F20 results clear bits [39:20] (R208). -/
def Core.setFp (c : Core) (d : BitVec 5) (v : Nat) : Core := c.setF d.toNat (BitVec.ofNat 40 v)

/-- An operation giving an F register and flags. -/
def State.fpOp (s : State) (k : Nat) (legal : Bool) (d : BitVec 5) (f : Core → Nat × Flags) : Out :=
  s.instr k (fun c =>
    let r := f c
    s.needFV k legal (s.complete k 2 r.2 (fun c => c.setFp d r.1)))

/-- A two-operand arithmetic operation (R76, R79). -/
def State.fpArith (s : State) (k : Nat) (wd : Bool) (o : FOp) (d a b : BitVec 5) : Out :=
  s.fpOp k true d (fun c => (fmtOf wd).op2 o c.fm1 (c.fbits wd a) (c.fbits wd b))

/-- A source operand under FTZ. -/
def Core.fpIn (c : Core) (wd : Bool) (n : BitVec 5) : Fp := (fmtOf wd).operand (ftzF c.fm1) (c.fbits wd n)

/-- A code of R255: signed, width, fraction position; none where it is illegal. -/
def convCode (code : BitVec 3) : Option (Bool × Nat × Nat) :=
  match code.toNat with
  | 0 => some (true, 20, 0)
  | 1 => some (false, 20, 0)
  | 2 => some (true, 20, 19)
  | 3 => some (true, 40, 0)
  | 4 => some (false, 40, 0)
  | 5 => some (true, 40, 38)
  | _ => none

/-! ## The instructions (R255) -/

/-- FADD Fd, Fs, Ft (R255). -/
def execFadd (k : Nat) (wd : Bool) (d rs t : BitVec 5) (s : State) : Out := s.fpArith k wd .add d rs t
/-- FSUB Fd, Fs, Ft (R255). -/
def execFsub (k : Nat) (wd : Bool) (d rs t : BitVec 5) (s : State) : Out := s.fpArith k wd .sub d rs t
/-- FMUL Fd, Fs, Ft (R255). -/
def execFmul (k : Nat) (wd : Bool) (d rs t : BitVec 5) (s : State) : Out := s.fpArith k wd .mul d rs t
/-- FDIV Fd, Fs, Ft (R255). -/
def execFdiv (k : Nat) (wd : Bool) (d rs t : BitVec 5) (s : State) : Out := s.fpArith k wd .div d rs t
/-- FSQRT Fd, Fs (R255). -/
def execFsqrt (k : Nat) (wd : Bool) (d rs : BitVec 5) (s : State) : Out :=
  s.fpOp k true d (fun c => (fmtOf wd).sqrtV (rmF c.fm1) (ftzF c.fm1) (c.fpIn wd rs))
/-- FMIN Fd, Fs, Ft (R255, R79). -/
def execFmin (k : Nat) (wd : Bool) (d rs t : BitVec 5) (s : State) : Out := s.fpArith k wd .min d rs t
/-- FMAX Fd, Fs, Ft (R255, R79). -/
def execFmax (k : Nat) (wd : Bool) (d rs t : BitVec 5) (s : State) : Out := s.fpArith k wd .max d rs t
/-- FABS Fd, Fs (R255, R77). -/
def execFabs (k : Nat) (wd : Bool) (d rs : BitVec 5) (s : State) : Out :=
  s.fpOp k true d (fun c => (fmtOf wd).signOp false (c.fpIn wd rs))
/-- FNEG Fd, Fs (R255, R77). -/
def execFneg (k : Nat) (wd : Bool) (d rs : BitVec 5) (s : State) : Out :=
  s.fpOp k true d (fun c => (fmtOf wd).signOp true (c.fpIn wd rs))
/-- FMOV Fd, Fs (R255): bits copied. -/
def execFmov (k : Nat) (wd : Bool) (d rs : BitVec 5) (s : State) : Out :=
  s.fpOp k true d (fun c => (c.fbits wd rs, {}))
/-- FCMP WX, Fs, Ft, cond (R255, R79). -/
def execFcmp (k : Nat) (wd : Bool) (wx rs t : BitVec 5) (cond : BitVec 3) (s : State) : Out :=
  s.instr k (fun c =>
    let r := Fp.cmp cond.toNat (c.fpIn wd rs) (c.fpIn wd t)
    s.needFV k (decide (cond.toNat < 6)) (s.complete k 2 r.2 (fun c => c.setW wx (if r.1 then 1 else 0))))
/-- FCVT Fd, Fs (R255, R80): to the format that WD names, from the other. -/
def execFcvt (k : Nat) (wd : Bool) (d rs : BitVec 5) (s : State) : Out :=
  s.fpOp k true d (fun c => (fmtOf wd).convert (rmF c.fm1) (ftzF c.fm1) (c.fpIn (!wd) rs))
/-- FTOW WX, Fs, code (R255, R80). -/
def execFtow (k : Nat) (wd : Bool) (wx rs : BitVec 5) (code : BitVec 3) (tz : Bool) (s : State) : Out :=
  s.instr k (fun c =>
    match convCode code with
    | none => s.illegal k
    | some (sgn, n, fp) =>
      let r := (c.fpIn wd rs).toFixed (if tz then 1 else rmF c.fm1) sgn n fp
      s.needFV k (n == 20 || !bit wx 0) (s.complete k 2 r.2 (fun c =>
        if n = 20 then c.setW wx (BitVec.ofInt 20 r.1) else c.setPair wx (BitVec.ofInt 40 r.1))))
/-- FFRW Fd, WX, code (R255, R80): a pair code needs WD = 1. -/
def execFfrw (k : Nat) (wd : Bool) (d wx : BitVec 5) (code : BitVec 3) (s : State) : Out :=
  s.instr k (fun c =>
    match convCode code with
    | none => s.illegal k
    | some (sgn, n, fp) =>
      let x : Int :=
        if n = 20 then (if sgn then (c.wr wx).toInt else (c.wr wx).toNat)
        else if sgn then (c.pair wx).toInt else (c.pair wx).toNat
      let r := (fmtOf wd).ofFixed (rmF c.fm1) (ftzF c.fm1) x fp
      s.needFV k (n == 20 || (wd && !bit wx 0)) (s.complete k 2 r.2 (fun c => c.setFp d r.1)))
/-- FMFW WX, Fs (R255): Fs[19:0], or Fs[39:20] with WD = 1. -/
def execFmfw (k : Nat) (wd : Bool) (wx rs : BitVec 5) (s : State) : Out :=
  s.instr k (fun c =>
    let v := c.fr rs.toNat
    s.needFV k true (s.done k ((c.retire 2).setW wx (if wd then hiW v else loW v))))
/-- FMTW Fd, WX (R255): one half of Fd, the other unchanged. -/
def execFmtw (k : Nat) (wd : Bool) (d wx : BitVec 5) (s : State) : Out :=
  s.instr k (fun c =>
    let v := c.fr d.toNat
    let w := c.wr wx
    s.needFV k true (s.done k ((c.retire 2).setF d.toNat (if wd then putHi v w else putLo v w))))

end Sys2Proof.Machine
end

