-- ==== Sys2Proof/Machine/ShortVec.lean ====
section
/-! DEFINITION. The short-vector instructions (R234-R236, R256, R257). -/

namespace Sys2Proof.Machine

/-! ## Forms and lanes -/

/-- A form of R256 that an operation of these lane forms has. -/
def svForm (f : SvForm) (lfs : List Nat) : Bool :=
  lfs.contains f.lf.toNat && f.ef != 3 && (decide (f.lf.toNat < 2) || f.ef == 0)

/-- A form of an operation that does not use EF (R256, DEDUCED log 34). -/
def svBits (f : SvForm) (lfs : List Nat) : Bool := svForm f lfs && f.ef == 0

/-- The form has 4 lanes of 40 bits. -/
def wide (f : SvForm) : Bool := bit f.lf 0

/-- The form's lanes are floating point. -/
def floats (f : SvForm) : Bool := bit f.lf 1

/-- The width of a lane. -/
def laneWidth (f : SvForm) : Nat := if wide f then 40 else 20

/-- The lanes of Vn as numbers. -/
def Core.laneBits (c : Core) (wd : Bool) (n : Nat) : List Nat :=
  if wd then (List.range 4).map (fun j => (c.v40 n j).toNat) else (List.range 8).map (fun j => (c.v20 n j).toNat)

/-- A number of n bits as the class EF reads it. -/
def asClass (ef : BitVec 2) (n : Nat) (x : Nat) : Int := if ef = 2 then (x : Int) else wrapS (x : Int) n

/-- The lanes of Vn as the class of a form reads them. -/
def Core.laneInts (c : Core) (f : SvForm) (n : Nat) : List Int :=
  (c.laneBits (wide f) n).map (asClass f.ef (laneWidth f))

/-- The lanes of Vn written. -/
def Core.setLanes (c : Core) (wd : Bool) (n : Nat) (l : List Int) : Core :=
  if wd then c.setV40 n (l.map (BitVec.ofInt 40)) else c.setV20 n (l.map (BitVec.ofInt 20))

/-- Lanes 0 to 3 or 4 to 7 of the 8-lane view written, the others unchanged. -/
def Core.setHalf (c : Core) (n : Nat) (hi : Bool) (l : List Int) : Core :=
  let o := (c.laneBits false n).map Int.ofNat
  c.setLanes false n (if hi then o.take 4 ++ l else l ++ o.drop 4)

/-- Lanes 0 to 3 or 4 to 7 of a list of eight. -/
def half {α : Type} (hi : Bool) (l : List α) : List α := if hi then l.drop 4 else l.take 4

/-- Every flag that lanes raise. -/
def allFlags (l : List Flags) : Flags := l.foldl Flags.or {}

/-- Narrowing to a lane of the form (R65); an unsigned class keeps the unsigned range (DEDUCED log 34). -/
def narrowLane (ef : BitVec 2) (x : Int) (sh : Nat) (mode : BitVec 2) (b : Bool) (n : Nat) : Int × Bool :=
  if ef = 2 then narrowU x sh mode b n else narrow x sh mode b n

/-- Values with OV and values with flags, as one list and the flags of all. -/
def ovList (l : List (Int × Bool)) : List Int × Flags := (l.map (fun p => p.1), { ov := l.any (fun p => p.2) })
/-- As ovList, for floating-point results. -/
def fpList (l : List (Nat × Flags)) : List Int × Flags :=
  (l.map (fun p => (p.1 : Int)), allFlags (l.map (fun p => p.2)))

/-- A short-vector operation that writes its results with a function of the core (R256). -/
def State.sv (s : State) (k : Nat) (legal : Bool) (f : Core → List Int × Flags) (put : Core → List Int → Core) : Out :=
  s.instr k (fun c => let r := f c; s.needFV k legal (s.complete k 2 r.2 (fun c => put c r.1)))

/-- An operation on the lanes of one form that writes every lane of Vd. -/
def State.svLanes (s : State) (k : Nat) (f : SvForm) (legal : Bool) (d : BitVec 3) (g : Core → List Int × Flags) : Out :=
  s.sv k legal g (fun c l => c.setLanes (wide f) d.toNat l)

/-- A narrowing operation with a SAT field, whose lanes give their value and OV. -/
def State.svNarrow (s : State) (k : Nat) (f : SvForm) (legal : Bool) (d : BitVec 3) (sat : BitVec 2)
    (g : Core → Bool → List (Int × Bool)) : Out :=
  s.svLanes k f (legal && sat != 3) d (fun c => ovList (g c ((satOf sat c.vm1).getD false)))

/-- A fixed-point operation on two lanes, narrowed to the lane width. -/
def State.svFixed2 (s : State) (k : Nat) (f : SvForm) (d a b : BitVec 3) (sat : BitVec 2) (op : Int → Int → Int) : Out :=
  s.svNarrow k f (svForm f [0, 1]) d sat (fun c z =>
    List.zipWith (fun x y => narrowLane f.ef (op x y) 0 0 z (laneWidth f)) (c.laneInts f a.toNat) (c.laneInts f b.toNat))

/-- A bitwise operation. -/
def State.svLogic (s : State) (k : Nat) (f : SvForm) (d a b : BitVec 3) (op : Nat → Nat → Nat) : Out :=
  s.svLanes k f (svBits f [0, 1]) d (fun c =>
    ((List.zipWith op (c.laneBits (wide f) a.toNat) (c.laneBits (wide f) b.toNat)).map Int.ofNat, {}))

/-- A shift that raises no flag, on the bits of each lane. -/
def State.svShift (s : State) (k : Nat) (f : SvForm) (d a : BitVec 3) (op : (n : Nat) → BitVec n → BitVec n) : Out :=
  s.svLanes k f (svBits f [0, 1]) d (fun c =>
    ((c.laneBits (wide f) a.toNat).map (fun x => ((op (laneWidth f) (BitVec.ofNat (laneWidth f) x)).toNat : Int)), {}))

/-- A floating-point operation on two lanes. -/
def State.svFp2 (s : State) (k : Nat) (f : SvForm) (d a b : BitVec 3) (o : FOp) : Out :=
  s.svLanes k f (svForm f [2, 3]) d (fun c =>
    fpList (List.zipWith ((fmtOf (wide f)).op2 o c.fm1) (c.laneBits (wide f) a.toNat) (c.laneBits (wide f) b.toNat)))

/-- A lane as a floating-point operand. -/
def Core.fpLane (c : Core) (f : SvForm) (x : Nat) : Fp := (fmtOf (wide f)).operand (ftzF c.fm1) x

/-! ## Arithmetic, logic, shifts -/

/-- SADD Vd, Va, Vb (R257). -/
def execSadd (k : Nat) (f : SvForm) (d a b : BitVec 3) (sat : BitVec 2) (s : State) : Out :=
  s.svFixed2 k f d a b sat (· + ·)
/-- SSUB (R257). -/
def execSsub (k : Nat) (f : SvForm) (d a b : BitVec 3) (sat : BitVec 2) (s : State) : Out :=
  s.svFixed2 k f d a b sat (· - ·)
/-- SAND (R257). -/
def execSand (k : Nat) (f : SvForm) (d a b : BitVec 3) (s : State) : Out := s.svLogic k f d a b (· &&& ·)
/-- SOR (R257). -/
def execSor (k : Nat) (f : SvForm) (d a b : BitVec 3) (s : State) : Out := s.svLogic k f d a b (· ||| ·)
/-- SXOR (R257). -/
def execSxor (k : Nat) (f : SvForm) (d a b : BitVec 3) (s : State) : Out := s.svLogic k f d a b (· ^^^ ·)
/-- SSHL Vd, Va, P (R257, R72). -/
def execSshl (k : Nat) (f : SvForm) (d a : BitVec 3) (p : BitVec 8) (s : State) : Out :=
  s.svShift k f d a (fun _ x => shlL x p.toNat)
/-- SSHR (R257, R72). -/
def execSshr (k : Nat) (f : SvForm) (d a : BitVec 3) (p : BitVec 8) (s : State) : Out :=
  s.svShift k f d a (fun _ x => shrL x p.toNat)
/-- SSHA (R257, R72). -/
def execSsha (k : Nat) (f : SvForm) (d a : BitVec 3) (p : BitVec 8) (s : State) : Out :=
  s.svShift k f d a (fun _ x => shrA x p.toNat)
/-- SSHLS (R257, R72). -/
def execSshls (k : Nat) (f : SvForm) (d a : BitVec 3) (p : BitVec 8) (sat : BitVec 2) (s : State) : Out :=
  s.svNarrow k f (svForm f [0, 1]) d sat (fun c z =>
    (c.laneInts f a.toNat).map (fun x =>
      if f.ef = 2 then narrowU (x * (2 : Int) ^ p.toNat) 0 0 z (laneWidth f) else shlS x p.toNat z (laneWidth f)))
/-- SABS Vd, Va (R257, R71, R77). -/
def execSabs (k : Nat) (f : SvForm) (d a : BitVec 3) (sat : BitVec 2) (s : State) : Out :=
  if floats f then
    s.svLanes k f (svForm f [2, 3] && sat == 0) d (fun c =>
      fpList ((c.laneBits (wide f) a.toNat).map (fun x => (fmtOf (wide f)).signOp false (c.fpLane f x))))
  else
    s.svNarrow k f (svForm f [0, 1]) d sat (fun c z => (c.laneInts f a.toNat).map (fun x => absolute x z (laneWidth f)))
/-- SNEG Vd, Va (R257, R71, R77). -/
def execSneg (k : Nat) (f : SvForm) (d a : BitVec 3) (sat : BitVec 2) (s : State) : Out :=
  if floats f then
    s.svLanes k f (svForm f [2, 3] && sat == 0) d (fun c =>
      fpList ((c.laneBits (wide f) a.toNat).map (fun x => (fmtOf (wide f)).signOp true (c.fpLane f x))))
  else
    s.svNarrow k f (svForm f [0, 1]) d sat (fun c z =>
      (c.laneInts f a.toNat).map (fun x =>
        if f.ef = 2 then narrowU (-x) 0 0 z (laneWidth f) else negate x z (laneWidth f)))

/-! ## Comparison, selection, minimum, maximum -/

/-- A fixed-point comparison by a condition of R151. -/
def intCond (cond : Nat) (x y : Int) : Bool :=
  match cond with
  | 0 => decide (x = y)
  | 1 => decide (x ≠ y)
  | 2 => decide (x < y)
  | 3 => decide (x ≤ y)
  | 4 => decide (y < x)
  | _ => decide (y ≤ x)

/-- SCMP Vd, Va, Vb, cond (R257, R79): 1 or 0 in each lane. -/
def execScmp (k : Nat) (f : SvForm) (d a b : BitVec 3) (cond : BitVec 3) (s : State) : Out :=
  s.svLanes k f (svForm f [0, 1, 2, 3] && decide (cond.toNat < 6)) d (fun c =>
    if floats f then
      let l := List.zipWith (fun x y => Fp.cmp cond.toNat (c.fpLane f x) (c.fpLane f y))
        (c.laneBits (wide f) a.toNat) (c.laneBits (wide f) b.toNat)
      (l.map (fun p => (b2n p.1 : Int)), allFlags (l.map (fun p => p.2)))
    else
      (List.zipWith (fun x y => (b2n (intCond cond.toNat x y) : Int)) (c.laneInts f a.toNat) (c.laneInts f b.toNat), {}))
/-- SSEL Vd, Vm, Va, Vb (R257). -/
def execSsel (k : Nat) (f : SvForm) (d m a b : BitVec 3) (s : State) : Out :=
  s.svLanes k f (svBits f [0, 1]) d (fun c =>
    ((List.zip (c.laneBits (wide f) m.toNat) (List.zip (c.laneBits (wide f) a.toNat) (c.laneBits (wide f) b.toNat))).map
      (fun p => (if p.1 ≠ 0 then (p.2.1 : Int) else p.2.2)), {}))
/-- SMIN (R257, R79). -/
def execSmin (k : Nat) (f : SvForm) (d a b : BitVec 3) (s : State) : Out :=
  if floats f then s.svFp2 k f d a b .min
  else s.svLanes k f (svForm f [0, 1]) d (fun c =>
    (List.zipWith (fun x y => if x < y then x else y) (c.laneInts f a.toNat) (c.laneInts f b.toNat), {}))
/-- SMAX (R257, R79). -/
def execSmax (k : Nat) (f : SvForm) (d a b : BitVec 3) (s : State) : Out :=
  if floats f then s.svFp2 k f d a b .max
  else s.svLanes k f (svForm f [0, 1]) d (fun c =>
    (List.zipWith (fun x y => if x < y then y else x) (c.laneInts f a.toNat) (c.laneInts f b.toNat), {}))

/-! ## Narrowing, products -/

/-- SSRS Vd, Va, s (R257): lanes narrowed to 20 bits; the 40-bit form writes one half of Vd. -/
def execSsrs (k : Nat) (f : SvForm) (d a : BitVec 3) (p : BitVec 6) (hi : Bool) (o : Opt) (s : State) : Out :=
  s.sv k (svForm f [0, 1] && decide (p.toNat ≤ 47) && o.sat != 3 && (wide f || !hi))
    (fun c => ovList ((c.laneInts f a.toNat).map (fun x =>
      narrowLane f.ef x p.toNat (rmOf o.rdef o.rm c.vm1) ((satOf o.sat c.vm1).getD false) 20)))
    (fun c l => if wide f then c.setHalf d.toNat hi l else c.setLanes false d.toNat l)

/-- The 48-bit quads of the pair Vn, Vn+1 (R235). -/
def Core.quads (c : Core) (n : Nat) : List Int :=
  (List.range 4).map (fun j =>
    ((c.fr (4 * n + 2 * j + 1)).extractLsb' 0 8 ++ c.fr (4 * n + 2 * j) : BitVec 48).toInt)

/-- Quads written: bits 79 to 48 repeat bit 47 (R235). -/
def Core.setQuads (c : Core) (n : Nat) (l : List Int) : Core :=
  (List.zip (List.range 4) l).foldl (fun c p =>
    (c.setF (4 * n + 2 * p.1) (BitVec.ofInt 40 p.2)).setF (4 * n + 2 * p.1 + 1) (BitVec.ofInt 40 (p.2 / (2 : Int) ^ 40))) c

/-- SSRSP Vd, Va, s (R257): four quads narrowed to a half of Vd. -/
def execSsrsp (k : Nat) (d a : BitVec 3) (p : BitVec 6) (h : SvHalf) (o : Opt) (s : State) : Out :=
  s.sv k (svForm h.f [0] && !bit a 0 && decide (p.toNat ≤ 47) && o.sat != 3)
    (fun c => ovList ((c.quads a.toNat).map (fun x =>
      narrowLane h.f.ef x p.toNat (rmOf o.rdef o.rm c.vm1) ((satOf o.sat c.vm1).getD false) 20)))
    (fun c l => c.setHalf d.toNat h.hi l)

/-- SMULQ Vd, Va, Vb (R257, R68). -/
def execSmulq (k : Nat) (f : SvForm) (d a b : BitVec 3) (o : Opt) (s : State) : Out :=
  s.svNarrow k f (svForm f [0]) d o.sat (fun c z =>
    List.zipWith (fun x y => narrowLane f.ef (x * y) (if f.ef = 0 then 19 else 0) (rmOf o.rdef o.rm c.vm1) z 20)
      (c.laneInts f a.toNat) (c.laneInts f b.toNat))

/-- The exact products of the lanes of one half (R235). -/
def State.mulWide (s : State) (k : Nat) (f : SvForm) (hi : Bool) (d a b : BitVec 3) : Out :=
  s.sv k (svForm f [0])
    (fun c => (half hi (List.zipWith (fun x y => x * y) (c.laneInts f a.toNat) (c.laneInts f b.toNat)), {}))
    (fun c l => c.setLanes true d.toNat l)
/-- SMULW.L (R235, R257). -/
def execSmulwL (k : Nat) (f : SvForm) (d a b : BitVec 3) (s : State) : Out := s.mulWide k f false d a b
/-- SMULW.H (R235, R257). -/
def execSmulwH (k : Nat) (f : SvForm) (d a b : BitVec 3) (s : State) : Out := s.mulWide k f true d a b

/-- Sums of neighbouring pairs. -/
def pairSums : List Int → List Int
  | x :: y :: l => (x + y) :: pairSums l
  | _ => []

/-- The four sums of two products (R235). -/
def Core.dots (c : Core) (f : SvForm) (a b : BitVec 3) : List Int :=
  pairSums (List.zipWith (fun x y => x * y) (c.laneInts f a.toNat) (c.laneInts f b.toNat))

/-- SDOT Vd, Va, Vb (R235, R257). -/
def execSdot (k : Nat) (f : SvForm) (d a b : BitVec 3) (s : State) : Out :=
  s.sv k (svForm f [0] && !bit d 0) (fun c => (c.dots f a b, {})) (fun c l => c.setQuads d.toNat l)
/-- SDOTA Vd, Va, Vb (R235, R70, R257). -/
def execSdota (k : Nat) (f : SvForm) (d a b : BitVec 3) (sat : BitVec 2) (s : State) : Out :=
  s.sv k (svForm f [0] && !bit d 0 && sat != 3)
    (fun c => ovList (List.zipWith (fun x y => narrow (x + y) 0 0 ((satOf sat c.vm1).getD false) 48)
      (c.quads d.toNat) (c.dots f a b)))
    (fun c l => c.setQuads d.toNat l)

/-! ## Floating point and conversion -/

/-- SFADD (R257). -/
def execSfadd (k : Nat) (f : SvForm) (d a b : BitVec 3) (s : State) : Out := s.svFp2 k f d a b .add
/-- SFSUB (R257). -/
def execSfsub (k : Nat) (f : SvForm) (d a b : BitVec 3) (s : State) : Out := s.svFp2 k f d a b .sub
/-- SFMUL (R257). -/
def execSfmul (k : Nat) (f : SvForm) (d a b : BitVec 3) (s : State) : Out := s.svFp2 k f d a b .mul

/-- The fraction position of class EF in a lane: 19 or 38 for Q, else 0. -/
def fracOf (ef : BitVec 2) (wd : Bool) : Nat := if ef = 0 then (if wd then 38 else 19) else 0

/-- The conversions of SCVT that give a list of lanes (R257, R80). -/
def Core.convertLanes (c : Core) (code : Nat) (ef : BitVec 2) (a : Nat) (tz hi : Bool) : List Int × Flags :=
  let rm := rmF c.fm1
  let z := ftzF c.fm1
  let toF (wd : Bool) (fp : Nat) (l : List Int) := fpList (l.map (fun x => (fmtOf wd).ofFixed rm z x fp))
  let toI (wd : Bool) (l : List Nat) : List Int × Flags :=
    let r := l.map (fun x =>
      ((fmtOf wd).operand z x).toFixed (if tz then 1 else rm) (ef != 2) (if wd then 40 else 20) (fracOf ef wd))
    (r.map (fun p => p.1), allFlags (r.map (fun p => p.2)))
  let cvt (src dst : Fmt) (l : List Nat) := fpList (l.map (fun x => dst.convert rm z (src.operand z x)))
  let b20 := c.laneBits false a
  let i20 := b20.map (asClass ef 20)
  let b40 := c.laneBits true a
  match code with
  | 0 => toF false (fracOf ef false) i20
  | 1 => toI false b20
  | 2 => toF true (fracOf ef false) (half hi i20)
  | 3 => toI true b40
  | 4 => toF true (fracOf ef true) (b40.map (asClass ef 40))
  | 5 => cvt f20 f40 (half hi b20)
  | 6 => cvt f40 f20 b40
  | _ => ((half hi i20).map (fun x => if ef = 0 then x * 2 ^ 19 else x), {})

/-- SCVT Vd, Va, code (R257). -/
def execScvt (k : Nat) (f : SvForm) (d a : BitVec 3) (code : BitVec 3) (tz : Bool) (hi : Bool) (s : State) : Out :=
  let n := code.toNat
  s.sv k (svForm f [0] && (!tz || [1, 3].contains n) && (!hi || [2, 5, 6, 7].contains n)
      && (f.ef == 0 || !([5, 6].contains n)))
    (fun c => c.convertLanes n f.ef a.toNat tz hi)
    (fun c l => if n = 6 then c.setHalf d.toNat hi l else c.setLanes (decide (2 ≤ n)) d.toNat l)

/-! ## Moves -/

/-- SSPL Vd, Ws (R257). -/
def execSspl (k : Nat) (f : SvForm) (d : BitVec 3) (rs : BitVec 5) (s : State) : Out :=
  s.sv k (svBits f [0, 1] && (!wide f || !bit rs 0))
    (fun c => (if wide f then List.replicate 4 ((c.pair rs).toNat : Int) else List.replicate 8 ((c.wr rs).toNat : Int), {}))
    (fun c l => c.setLanes (wide f) d.toNat l)
/-- SMTL Vd.j, Ws (R257). -/
def execSmtl (k : Nat) (d j : BitVec 3) (rs : BitVec 5) (s : State) : Out :=
  s.sv k true (fun c => (((c.laneBits false d.toNat).map Int.ofNat).set j.toNat ((c.wr rs).toNat : Int), {}))
    (fun c l => c.setLanes false d.toNat l)
/-- SMFL Wd, Va.j (R257). -/
def execSmfl (k : Nat) (rs : BitVec 5) (a j : BitVec 3) (s : State) : Out :=
  s.sv k true (fun c => ([((c.v20 a.toNat j.toNat).toNat : Int)], {}))
    (fun c l => c.setW rs (BitVec.ofInt 20 (l.headD 0)))
/-- SMOV Vd, Va (R257). -/
def execSmov (k : Nat) (d a : BitVec 3) (s : State) : Out :=
  s.sv k true (fun c => ((c.laneBits false a.toNat).map Int.ofNat, {})) (fun c l => c.setLanes false d.toNat l)

end Sys2Proof.Machine
end

