-- ==== Sys2Proof/Machine/Dispatch.lean ====
section
/-! DEFINITION. Which meaning each command has: one arm per constructor of Instr. -/

namespace Sys2Proof.Machine

/-- The effect of one command on everything but the queue. -/
def exec (i : Instr) (s : State) : Host.Outcome State Fault Refusal :=
  match i with
  -- integer
  | .add k d rs t => Sys2Proof.Machine.execAdd k d rs t s
  | .sub k d rs t => Sys2Proof.Machine.execSub k d rs t s
  | .adc k d rs t => Sys2Proof.Machine.execAdc k d rs t s
  | .sbc k d rs t => Sys2Proof.Machine.execSbc k d rs t s
  | .and k d rs t => Sys2Proof.Machine.execAnd k d rs t s
  | .or k d rs t => Sys2Proof.Machine.execOr k d rs t s
  | .xor k d rs t => Sys2Proof.Machine.execXor k d rs t s
  | .mul k d rs t => Sys2Proof.Machine.execMul k d rs t s
  | .mulw k d rs t => Sys2Proof.Machine.execMulw k d rs t s
  | .shl k d rs t => Sys2Proof.Machine.execShl k d rs t s
  | .shr k d rs t => Sys2Proof.Machine.execShr k d rs t s
  | .sha k d rs t => Sys2Proof.Machine.execSha k d rs t s
  | .lw k d e => Sys2Proof.Machine.execLw k d e s
  | .sw k rs e => Sys2Proof.Machine.execSw k rs e s
  | .ld k d e => Sys2Proof.Machine.execLd k d e s
  | .sd k rs e => Sys2Proof.Machine.execSd k rs e s
  | .addi k d rs imm => Sys2Proof.Machine.execAddi k d rs imm s
  | .subi k d rs imm => Sys2Proof.Machine.execSubi k d rs imm s
  | .andi k d rs imm => Sys2Proof.Machine.execAndi k d rs imm s
  | .ori k d rs imm => Sys2Proof.Machine.execOri k d rs imm s
  | .xori k d rs imm => Sys2Proof.Machine.execXori k d rs imm s
  | .movi k d imm => Sys2Proof.Machine.execMovi k d imm s
  | .adds k d rs t sat => Sys2Proof.Machine.execAdds k d rs t sat s
  | .subs k d rs t sat => Sys2Proof.Machine.execSubs k d rs t sat s
  | .neg k d rs sat => Sys2Proof.Machine.execNeg k d rs sat s
  | .abs k d rs sat => Sys2Proof.Machine.execAbs k d rs sat s
  | .shls k d rs t sat => Sys2Proof.Machine.execShls k d rs t sat s
  | .shli k d rs c => Sys2Proof.Machine.execShli k d rs c s
  | .shri k d rs c => Sys2Proof.Machine.execShri k d rs c s
  | .shai k d rs c => Sys2Proof.Machine.execShai k d rs c s
  | .shlsi k d rs c sat => Sys2Proof.Machine.execShlsi k d rs c sat s
  | .shar k d rs c o => Sys2Proof.Machine.execShar k d rs c o s
  | .mulu k d rs t sat => Sys2Proof.Machine.execMulu k d rs t sat s
  | .mulq k d rs t o => Sys2Proof.Machine.execMulq k d rs t o s
  | .mulwu k d rs t => Sys2Proof.Machine.execMulwu k d rs t s
  | .mstart k rs t => Sys2Proof.Machine.execMstart k rs t s
  | .mstartProductWrite k => Sys2Proof.Machine.execMstartProductWrite k s
  | .div k d rs t sat => Sys2Proof.Machine.execDiv k d rs t sat s
  | .divu k d rs t => Sys2Proof.Machine.execDivu k d rs t s
  | .divq k d rs t sat => Sys2Proof.Machine.execDivq k d rs t sat s
  | .divw k d rs t sat => Sys2Proof.Machine.execDivw k d rs t sat s
  | .divwu k d rs t sat => Sys2Proof.Machine.execDivwu k d rs t sat s
  | .divisionComplete k => Sys2Proof.Machine.execDivisionComplete k s
  | .min k d rs t => Sys2Proof.Machine.execMin k d rs t s
  | .max k d rs t => Sys2Proof.Machine.execMax k d rs t s
  | .minu k d rs t => Sys2Proof.Machine.execMinu k d rs t s
  | .maxu k d rs t => Sys2Proof.Machine.execMaxu k d rs t s
  -- memory
  | .lq k d e => Sys2Proof.Machine.execLq k d e s
  | .sq k rs e => Sys2Proof.Machine.execSq k rs e s
  | .la k d e => Sys2Proof.Machine.execLa k d e s
  | .sa k rs e => Sys2Proof.Machine.execSa k rs e s
  | .lf k d e => Sys2Proof.Machine.execLf k d e s
  | .sf k rs e => Sys2Proof.Machine.execSf k rs e s
  | .lfw k d e => Sys2Proof.Machine.execLfw k d e s
  | .sfw k rs e => Sys2Proof.Machine.execSfw k rs e s
  | .lwx k d a => Sys2Proof.Machine.execLwx k d a s
  | .swx k d rs a => Sys2Proof.Machine.execSwx k d rs a s
  | .vld k d e => Sys2Proof.Machine.execVld k d e s
  | .vst k rs e => Sys2Proof.Machine.execVst k rs e s
  | .vld2 k d e => Sys2Proof.Machine.execVld2 k d e s
  | .vld3 k d e => Sys2Proof.Machine.execVld3 k d e s
  | .vld4 k d e => Sys2Proof.Machine.execVld4 k d e s
  | .vgath k d a vi => Sys2Proof.Machine.execVgath k d a vi s
  | .vscat k rs a vi => Sys2Proof.Machine.execVscat k rs a vi s
  | .xadd k d rs a => Sys2Proof.Machine.execXadd k d rs a s
  -- address registers
  | .adda k a b n => Sys2Proof.Machine.execAdda k a b n s
  | .addai k a b imm => Sys2Proof.Machine.execAddai k a b imm s
  | .lal k a imm => Sys2Proof.Machine.execLal k a imm s
  | .lah k a imm => Sys2Proof.Machine.execLah k a imm s
  | .mtal k a n => Sys2Proof.Machine.execMtal k a n s
  | .mtah k a n => Sys2Proof.Machine.execMtah k a n s
  | .mfal k n a => Sys2Proof.Machine.execMfal k n a s
  | .mfah k n a => Sys2Proof.Machine.execMfah k n a s
  | .mtam k a n => Sys2Proof.Machine.execMtam k a n s
  | .mfam k n a => Sys2Proof.Machine.execMfam k n a s
  | .upda k a imm => Sys2Proof.Machine.execUpda k a imm s
  | .mova k a b => Sys2Proof.Machine.execMova k a b s
  -- branches, jumps, loops
  | .beq k rs t o => Sys2Proof.Machine.execBeq k rs t o s
  | .bne k rs t o => Sys2Proof.Machine.execBne k rs t o s
  | .blt k rs t o => Sys2Proof.Machine.execBlt k rs t o s
  | .bge k rs t o => Sys2Proof.Machine.execBge k rs t o s
  | .bltu k rs t o => Sys2Proof.Machine.execBltu k rs t o s
  | .bgeu k rs t o => Sys2Proof.Machine.execBgeu k rs t o s
  | .bcs k o => Sys2Proof.Machine.execBcs k o s
  | .bcc k o => Sys2Proof.Machine.execBcc k o s
  | .bmi k o => Sys2Proof.Machine.execBmi k o s
  | .bpl k o => Sys2Proof.Machine.execBpl k o s
  | .bzs k o => Sys2Proof.Machine.execBzs k o s
  | .bzc k o => Sys2Proof.Machine.execBzc k o s
  | .b k o => Sys2Proof.Machine.execB k o s
  | .j k o => Sys2Proof.Machine.execJ k o s
  | .jal k o => Sys2Proof.Machine.execJal k o s
  | .dbnz k rs o => Sys2Proof.Machine.execDbnz k rs o s
  | .repi k imm => Sys2Proof.Machine.execRepi k imm s
  | .rep k rs => Sys2Proof.Machine.execRep k rs s
  -- system
  | .nop k => Sys2Proof.Machine.execNop k s
  | .sync k => Sys2Proof.Machine.execSync k s
  | .isync k => Sys2Proof.Machine.execIsync k s
  | .ret k => Sys2Proof.Machine.execRet k s
  | .jr k a => Sys2Proof.Machine.execJr k a s
  | .jalr k a => Sys2Proof.Machine.execJalr k a s
  | .mfc k d n => Sys2Proof.Machine.execMfc k d n s
  | .mtc k n rs => Sys2Proof.Machine.execMtc k n rs s
  | .vfcDiscard k rs => Sys2Proof.Machine.execVfcDiscard k rs s
  | .vprogWrite k rs => Sys2Proof.Machine.execVprogWrite k rs s
  | .signal k c => Sys2Proof.Machine.execSignal k c s
  | .gate k g => Sys2Proof.Machine.execGate k g s
  | .bkpt k code => Sys2Proof.Machine.execBkpt k code s
  | .rfe k => Sys2Proof.Machine.execRfe k s
  | .rfg k => Sys2Proof.Machine.execRfg k s
  | .wait k d rs t => Sys2Proof.Machine.execWait k d rs t s
  -- scalar floating point
  | .fadd k wd d rs t => Sys2Proof.Machine.execFadd k wd d rs t s
  | .fsub k wd d rs t => Sys2Proof.Machine.execFsub k wd d rs t s
  | .fmul k wd d rs t => Sys2Proof.Machine.execFmul k wd d rs t s
  | .fdiv k wd d rs t => Sys2Proof.Machine.execFdiv k wd d rs t s
  | .fsqrt k wd d rs => Sys2Proof.Machine.execFsqrt k wd d rs s
  | .fmin k wd d rs t => Sys2Proof.Machine.execFmin k wd d rs t s
  | .fmax k wd d rs t => Sys2Proof.Machine.execFmax k wd d rs t s
  | .fabs k wd d rs => Sys2Proof.Machine.execFabs k wd d rs s
  | .fneg k wd d rs => Sys2Proof.Machine.execFneg k wd d rs s
  | .fmov k wd d rs => Sys2Proof.Machine.execFmov k wd d rs s
  | .fcmp k wd wx rs t cond => Sys2Proof.Machine.execFcmp k wd wx rs t cond s
  | .fcvt k wd d rs => Sys2Proof.Machine.execFcvt k wd d rs s
  | .ftow k wd wx rs code tz => Sys2Proof.Machine.execFtow k wd wx rs code tz s
  | .ffrw k wd d wx code => Sys2Proof.Machine.execFfrw k wd d wx code s
  | .fmfw k wd wx rs => Sys2Proof.Machine.execFmfw k wd wx rs s
  | .fmtw k wd d wx => Sys2Proof.Machine.execFmtw k wd d wx s
  -- short vector
  | .sadd k f d a b sat => Sys2Proof.Machine.execSadd k f d a b sat s
  | .ssub k f d a b sat => Sys2Proof.Machine.execSsub k f d a b sat s
  | .sand k f d a b => Sys2Proof.Machine.execSand k f d a b s
  | .sor k f d a b => Sys2Proof.Machine.execSor k f d a b s
  | .sxor k f d a b => Sys2Proof.Machine.execSxor k f d a b s
  | .sshl k f d a p => Sys2Proof.Machine.execSshl k f d a p s
  | .sshr k f d a p => Sys2Proof.Machine.execSshr k f d a p s
  | .ssha k f d a p => Sys2Proof.Machine.execSsha k f d a p s
  | .sshls k f d a p sat => Sys2Proof.Machine.execSshls k f d a p sat s
  | .scmp k f d a b cond => Sys2Proof.Machine.execScmp k f d a b cond s
  | .ssel k f d m a b => Sys2Proof.Machine.execSsel k f d m a b s
  | .smin k f d a b => Sys2Proof.Machine.execSmin k f d a b s
  | .smax k f d a b => Sys2Proof.Machine.execSmax k f d a b s
  | .sabs k f d a sat => Sys2Proof.Machine.execSabs k f d a sat s
  | .sneg k f d a sat => Sys2Proof.Machine.execSneg k f d a sat s
  | .ssrs k f d a p hi o => Sys2Proof.Machine.execSsrs k f d a p hi o s
  | .ssrsp k d a p h o => Sys2Proof.Machine.execSsrsp k d a p h o s
  | .smulq k f d a b o => Sys2Proof.Machine.execSmulq k f d a b o s
  | .smulwL k f d a b => Sys2Proof.Machine.execSmulwL k f d a b s
  | .smulwH k f d a b => Sys2Proof.Machine.execSmulwH k f d a b s
  | .sdot k f d a b => Sys2Proof.Machine.execSdot k f d a b s
  | .sdota k f d a b sat => Sys2Proof.Machine.execSdota k f d a b sat s
  | .sfadd k f d a b => Sys2Proof.Machine.execSfadd k f d a b s
  | .sfsub k f d a b => Sys2Proof.Machine.execSfsub k f d a b s
  | .sfmul k f d a b => Sys2Proof.Machine.execSfmul k f d a b s
  | .scvt k f d a code tz hi => Sys2Proof.Machine.execScvt k f d a code tz hi s
  | .sspl k f d rs => Sys2Proof.Machine.execSspl k f d rs s
  | .smtl k d j rs => Sys2Proof.Machine.execSmtl k d j rs s
  | .smfl k rs a j => Sys2Proof.Machine.execSmfl k rs a j s
  | .smov k d a => Sys2Proof.Machine.execSmov k d a s
  -- chain groups
  | .chain k n rsv c => Sys2Proof.Machine.execChain k n rsv c s
  | .vbar k => Sys2Proof.Machine.execVbar k s
  | .vbarCompletion k => Sys2Proof.Machine.execVbarCompletion k s
  | .mtt k t w rs => Sys2Proof.Machine.execMtt k t w rs s
  | .mft k d t w => Sys2Proof.Machine.execMft k d t w s
  | .mtac k m l p rs => Sys2Proof.Machine.execMtac k m l p rs s
  | .mfac k d m l p => Sys2Proof.Machine.execMfac k d m l p s
  | .queuedGroupStart k => Sys2Proof.Machine.execQueuedGroupStart k s
  | .groupStep k => Sys2Proof.Machine.execGroupStep k s
  | .elementCommit k => Sys2Proof.Machine.execElementCommit k s
  | .groupRetire k => Sys2Proof.Machine.execGroupRetire k s
  | .groupFault k => Sys2Proof.Machine.execGroupFault k s
  | .groupPreemptStop k => Sys2Proof.Machine.execGroupPreemptStop k s
  -- core events
  | .loadDataReturn k => Sys2Proof.Machine.execLoadDataReturn k s
  | .storePerformed k => Sys2Proof.Machine.execStorePerformed k s
  | .fetchRefillReturn k a => Sys2Proof.Machine.execFetchRefillReturn k a s
  | .interruptTaken k => Sys2Proof.Machine.execInterruptTaken k s
  | .clIpost who k v => Sys2Proof.Machine.execClIpost who k v s
  | .clMflt who k v => Sys2Proof.Machine.execClMflt who k v s
  | .watchdogWarning k => Sys2Proof.Machine.execWatchdogWarning k s
  | .watchdogExpiry k => Sys2Proof.Machine.execWatchdogExpiry k s
  | .wdogCntWrite k rs => Sys2Proof.Machine.execWdogCntWrite k rs s
  -- contexts and scheduler
  | .alloc who => Sys2Proof.Machine.execAlloc who s
  | .activate who => Sys2Proof.Machine.execActivate who s
  | .suspend who => Sys2Proof.Machine.execSuspend who s
  | .wake who => Sys2Proof.Machine.execWake who s
  | .resumeContext who => Sys2Proof.Machine.execResumeContext who s
  | .release who => Sys2Proof.Machine.execRelease who s
  | .ctxCmdBadop who op => Sys2Proof.Machine.execCtxCmdBadop who op s
  | .ctxCmdCompletion who => Sys2Proof.Machine.execCtxCmdCompletion who s
  | .deadlineReached c => Sys2Proof.Machine.execDeadlineReached c s
  | .bindDecision k => Sys2Proof.Machine.execBindDecision k s
  | .sliceExpiry k => Sys2Proof.Machine.execSliceExpiry k s
  | .victimBoundary k => Sys2Proof.Machine.execVictimBoundary k s
  | .restoreComplete k => Sys2Proof.Machine.execRestoreComplete k s
  | .saveComplete k => Sys2Proof.Machine.execSaveComplete k s
  | .queueRebuild => Sys2Proof.Machine.execQueueRebuild s
  | .inboxDelivery => Sys2Proof.Machine.execInboxDelivery s
  -- region board
  | .boardAccessGrant n reqs => Sys2Proof.Machine.execBoardAccessGrant n reqs s
  | .scrubRowDue n => Sys2Proof.Machine.execScrubRowDue n s
  | .scrubTurn n => Sys2Proof.Machine.execScrubTurn n s
  | .storeScrubWord st => Sys2Proof.Machine.execStoreScrubWord st s
  | .castleGo who n v => Sys2Proof.Machine.execCastleGo who n v s
  | .castleCopyRow n => Sys2Proof.Machine.execCastleCopyRow n s
  | .castleSwitchover n => Sys2Proof.Machine.execCastleSwitchover n s
  | .rgnPreqNap who n v => Sys2Proof.Machine.execRgnPreqNap who n v s
  | .rgnPreqOff who n v => Sys2Proof.Machine.execRgnPreqOff who n v s
  | .rgnPreqAutomatic who n v => Sys2Proof.Machine.execRgnPreqAutomatic who n v s
  | .vacate who n v => Sys2Proof.Machine.execVacate who n v s
  | .hold who n v => Sys2Proof.Machine.execHold who n v s
  | .requestedStateEntry n => Sys2Proof.Machine.execRequestedStateEntry n s
  | .regionIdleEntry n => Sys2Proof.Machine.execRegionIdleEntry n s
  | .regionNapEntry n => Sys2Proof.Machine.execRegionNapEntry n s
  | .regionLogicUp n => Sys2Proof.Machine.execRegionLogicUp n s
  | .zeroFillDone n => Sys2Proof.Machine.execZeroFillDone n s
  | .rgnVf who n v => Sys2Proof.Machine.execRgnVf who n v s
  | .voltageRampStep n => Sys2Proof.Machine.execVoltageRampStep n s
  | .rgnTurns who n v => Sys2Proof.Machine.execRgnTurns who n v s
  | .rgnEccFlip who n v => Sys2Proof.Machine.execRgnEccFlip who n v s
  -- fabric, DMA, HBM
  | .fabricPieceGrant d p reqs => Sys2Proof.Machine.execFabricPieceGrant d p reqs s
  | .fabricPortClockStop d p => Sys2Proof.Machine.execFabricPortClockStop d p s
  | .dmaStart who n => Sys2Proof.Machine.execDmaStart who n s
  | .dmaStop who n => Sys2Proof.Machine.execDmaStop who n s
  | .dmaClear who n => Sys2Proof.Machine.execDmaClear who n s
  | .dmaKill who n => Sys2Proof.Machine.execDmaKill who n s
  | .dmaShadowWrite who n off v => Sys2Proof.Machine.execDmaShadowWrite who n off v s
  | .dmaReadReturn n hds ep => Sys2Proof.Machine.execDmaReadReturn n hds ep s
  | .dmaWriteResponse n => Sys2Proof.Machine.execDmaWriteResponse n s
  | .dmaCompletion n => Sys2Proof.Machine.execDmaCompletion n s
  | .dmaHalt n => Sys2Proof.Machine.execDmaHalt n s
  | .hbmRead who a cnt => Sys2Proof.Machine.execHbmRead who a cnt s
  | .hbmWholeBlockWrite who a ws => Sys2Proof.Machine.execHbmWholeBlockWrite who a ws s
  | .hbmReadModifyWrite who a ws => Sys2Proof.Machine.execHbmReadModifyWrite who a ws s
  | .hbmScrubBlock h => Sys2Proof.Machine.execHbmScrubBlock h s
  -- links
  | .lnkPnCtl who p v => Sys2Proof.Machine.execLnkPnCtl who p v s
  | .ethernetFrameReceive p sub f => Sys2Proof.Machine.execEthernetFrameReceive p sub f s
  | .bosumMsgReceive p f => Sys2Proof.Machine.execBosumMsgReceive p f s
  | .bosumSigReceive p f => Sys2Proof.Machine.execBosumSigReceive p f s
  | .bosumCtrlReceive p f => Sys2Proof.Machine.execBosumCtrlReceive p f s
  | .bosumNakReceive p f => Sys2Proof.Machine.execBosumNakReceive p f s
  | .bosumInitReceive p f => Sys2Proof.Machine.execBosumInitReceive p f s
  | .replayTimeout p => Sys2Proof.Machine.execReplayTimeout p s
  | .ctrlFrameSend p => Sys2Proof.Machine.execCtrlFrameSend p s
  | .initFrameSend p => Sys2Proof.Machine.execInitFrameSend p s
  | .pcsBlockLockLoss p sub => Sys2Proof.Machine.execPcsBlockLockLoss p sub s
  | .frameTransmit p sub => Sys2Proof.Machine.execFrameTransmit p sub s
  | .lnkTxsig who g => Sys2Proof.Machine.execLnkTxsig who g s
  | .lnkFtIdx who v => Sys2Proof.Machine.execLnkFtIdx who v s
  | .lnkFtCmdWr who => Sys2Proof.Machine.execLnkFtCmdWr who s
  -- time
  | .ptpTodRead who => Sys2Proof.Machine.execPtpTodRead who s
  | .ptpSet who v => Sys2Proof.Machine.execPtpSet who v s
  | .ptpAdj who v => Sys2Proof.Machine.execPtpAdj who v s
  | .ptpCtlCap who v => Sys2Proof.Machine.execPtpCtlCap who v s
  | .tmrNextWrite who t v => Sys2Proof.Machine.execTmrNextWrite who t v s
  | .timerEvent t => Sys2Proof.Machine.execTimerEvent t s
  | .ppsInEdge => Sys2Proof.Machine.execPpsInEdge s
  | .ppsOutRise => Sys2Proof.Machine.execPpsOutRise s
  | .ppsOutFall => Sys2Proof.Machine.execPpsOutFall s
  | .syncerrUpdate => Sys2Proof.Machine.execSyncerrUpdate s
  | .pipNowRead who => Sys2Proof.Machine.execPipNowRead who s
  -- host
  | .hostBarRead bar off cnt => Sys2Proof.Machine.execHostBarRead bar off cnt s
  | .hostBarWrite bar off ds => Sys2Proof.Machine.execHostBarWrite bar off ds s
  | .hostKpost who v => Sys2Proof.Machine.execHostKpost who v s
  | .mailboxPost who len => Sys2Proof.Machine.execMailboxPost who len s
  | .mailboxRelease who => Sys2Proof.Machine.execMailboxRelease who s
  | .hostDmaTimeout n => Sys2Proof.Machine.execHostDmaTimeout n s
  | .functionLevelReset => Sys2Proof.Machine.execFunctionLevelReset s
  | .pcieHotReset => Sys2Proof.Machine.execPcieHotReset s
  | .pcieLinkDown => Sys2Proof.Machine.execPcieLinkDown s
  | .pcieLinkUp width speed => Sys2Proof.Machine.execPcieLinkUp width speed s
  -- integrity, ageing
  | .intLdgDataRead who => Sys2Proof.Machine.execIntLdgDataRead who s
  | .intLdgDataWrite who v => Sys2Proof.Machine.execIntLdgDataWrite who v s
  | .intLdgCtlErase who => Sys2Proof.Machine.execIntLdgCtlErase who s
  | .ledgerProgramDone => Sys2Proof.Machine.execLedgerProgramDone s
  | .ledgerEraseDone => Sys2Proof.Machine.execLedgerEraseDone s
  | .marginMeasurement n q m => Sys2Proof.Machine.execMarginMeasurement n q m s
  | .thermalThrottleStep n temp => Sys2Proof.Machine.execThermalThrottleStep n temp s
  -- power input
  | .powerCapLower r => Sys2Proof.Machine.execPowerCapLower r s
  | .powerCapRestore r => Sys2Proof.Machine.execPowerCapRestore r s
  | .inputCurrentClamp vi => Sys2Proof.Machine.execInputCurrentClamp vi s
  | .vinOutOfRange v => Sys2Proof.Machine.execVinOutOfRange v s
  | .vinWarning v => Sys2Proof.Machine.execVinWarning v s
  | .inputPowerArrival v => Sys2Proof.Machine.execInputPowerArrival v s
  | .thermtrip temp => Sys2Proof.Machine.execThermtrip temp s
  -- rolls
  | .rollRegion who tgt => Sys2Proof.Machine.execRollRegion who tgt s
  | .rollCluster who tgt => Sys2Proof.Machine.execRollCluster who tgt s
  | .rollIoDie who => Sys2Proof.Machine.execRollIoDie who s
  | .rollEnd tgt bad => Sys2Proof.Machine.execRollEnd tgt bad s
  -- device power and resets
  | .enterStandby who => Sys2Proof.Machine.execEnterStandby who s
  | .standbyEntry => Sys2Proof.Machine.execStandbyEntry s
  | .returnToActive who => Sys2Proof.Machine.execReturnToActive who s
  | .activeReached => Sys2Proof.Machine.execActiveReached s
  | .porstNAssert => Sys2Proof.Machine.execPorstNAssert s
  | .porstNRelease sadr tmode => Sys2Proof.Machine.execPorstNRelease sadr tmode s
  | .wrstNAssert => Sys2Proof.Machine.execWrstNAssert s
  | .uartWakeByte b => Sys2Proof.Machine.execUartWakeByte b s
  | .fusesSensed => Sys2Proof.Machine.execFusesSensed s
  | .hubPllLock => Sys2Proof.Machine.execHubPllLock s
  | .ioDieRollDone pass => Sys2Proof.Machine.execIoDieRollDone pass s
  | .contextStoreCleared => Sys2Proof.Machine.execContextStoreCleared s
  | .hbmFillDone => Sys2Proof.Machine.execHbmFillDone s
  | .imageVerified a b => Sys2Proof.Machine.execImageVerified a b s
  | .lifeCycleProgramDone => Sys2Proof.Machine.execLifeCycleProgramDone s
  -- monitor
  | .ident r => Sys2Proof.Machine.execIdent r s
  | .status r => Sys2Proof.Machine.execStatus r s
  | .authStart r role qh => Sys2Proof.Machine.execAuthStart r role qh s
  | .authProve r ph sig => Sys2Proof.Machine.execAuthProve r ph sig s
  | .authEnd r => Sys2Proof.Machine.execAuthEnd r s
  | .mread r a cnt => Sys2Proof.Machine.execMread r a cnt s
  | .mwrite r a cnt ws => Sys2Proof.Machine.execMwrite r a cnt ws s
  | .halt r k => Sys2Proof.Machine.execHalt r k s
  | .step r k => Sys2Proof.Machine.execStep r k s
  | .resume r k => Sys2Proof.Machine.execResume r k s
  | .cread r k sel => Sys2Proof.Machine.execCread r k sel s
  | .cwrite r k sel v => Sys2Proof.Machine.execCwrite r k sel v s
  | .replan r => Sys2Proof.Machine.execReplan r s
  | .resetWarm r => Sys2Proof.Machine.execResetWarm r s
  | .resetCold r => Sys2Proof.Machine.execResetCold r s
  | .powerStandby r => Sys2Proof.Machine.execPowerStandby r s
  | .powerActive r => Sys2Proof.Machine.execPowerActive r s
  | .powerOff r => Sys2Proof.Machine.execPowerOff r s
  | .enroll r key => Sys2Proof.Machine.execEnroll r key s
  | .lcset r target => Sys2Proof.Machine.execLcset r target s
  | .monitorFrameDiscard ch bytes => Sys2Proof.Machine.execMonitorFrameDiscard ch bytes s
  | .sessionTimeout ch => Sys2Proof.Machine.execSessionTimeout ch s
  | .authLockoutEnd ch => Sys2Proof.Machine.execAuthLockoutEnd ch s
  -- run control and debug master
  | .clRcHalt who k => Sys2Proof.Machine.execClRcHalt who k s
  | .clRcStep who k => Sys2Proof.Machine.execClRcStep who k s
  | .clRcResume who k => Sys2Proof.Machine.execClRcResume who k s
  | .coreHalted k => Sys2Proof.Machine.execCoreHalted k s
  | .clRcData who k w => Sys2Proof.Machine.execClRcData who k w s
  | .dbgDataRead who => Sys2Proof.Machine.execDbgDataRead who s
  | .dbgDataWrite who v => Sys2Proof.Machine.execDbgDataWrite who v s
  | .debugAccessDone => Sys2Proof.Machine.execDebugAccessDone s
  -- PMBus
  | .clearFaults => Sys2Proof.Machine.execClearFaults s
  | .capability => Sys2Proof.Machine.execCapability s
  | .statusWord => Sys2Proof.Machine.execStatusWord s
  | .statusInput => Sys2Proof.Machine.execStatusInput s
  | .statusTemperature => Sys2Proof.Machine.execStatusTemperature s
  | .readVin => Sys2Proof.Machine.execReadVin s
  | .readIin => Sys2Proof.Machine.execReadIin s
  | .readTemperature1 => Sys2Proof.Machine.execReadTemperature1 s
  | .readTemperature2 temp => Sys2Proof.Machine.execReadTemperature2 temp s
  | .readPin => Sys2Proof.Machine.execReadPin s
  | .pmbusRevision => Sys2Proof.Machine.execPmbusRevision s
  | .mfrId => Sys2Proof.Machine.execMfrId s
  | .mfrModel => Sys2Proof.Machine.execMfrModel s
  | .alertResponseAddress => Sys2Proof.Machine.execAlertResponseAddress s
  | .pmbusUnsupportedCommand code => Sys2Proof.Machine.execPmbusUnsupportedCommand code s
  -- others
  | .registerWrite who a v => Sys2Proof.Machine.execRegisterWrite who a v s
  | .pcsBlockLockGain p sub => Sys2Proof.Machine.execPcsBlockLockGain p sub s
  | .wrstNRelease => Sys2Proof.Machine.execWrstNRelease s
  | .internalResetHoldEnd => Sys2Proof.Machine.execInternalResetHoldEnd s
  | .vinInRange5Ms => Sys2Proof.Machine.execVinInRange5Ms s
  | .currentClampEnd vi => Sys2Proof.Machine.execCurrentClampEnd vi s
  | .pendingMchkTaken k => Sys2Proof.Machine.execPendingMchkTaken k s
  | .pcieConfigurationWrite c d3 => Sys2Proof.Machine.execPcieConfigurationWrite c d3 s
  | .msiXTableWrite vec dw v => Sys2Proof.Machine.execMsiXTableWrite vec dw v s
  | .storedBitError e => Sys2Proof.Machine.execStoredBitError e s
  | .illegalInstruction k => Sys2Proof.Machine.execIllegalInstruction k s
  | .fetchFault k => Sys2Proof.Machine.execFetchFault k s

end Sys2Proof.Machine
end

