-- ==== Sys2Proof/Machine/Tick.lean ====
section
/-! DEFINITION. What one pip brings while no command waits: a reset that a link-down still owes, the pip counter, the
watchdogs, the counts of pips that a context is bound and a region idle, the pieces that cross the fabrics, the PTP clock,
the monitors of ageing, and the keeper firmware's own work (R198, R280, R333, R343, R358, R360, R362, R369, R372). -/

namespace Sys2Proof.Machine

/-- A cluster at a pip edge (R198, R280). -/
def Core.pip (c : Core) : Core :=
  { c with
    wcnt := if c.counts && c.wcnt != 0 then c.wcnt - 1 else c.wcnt
    boundPips := if c.bound.isSome then c.boundPips + 1 else c.boundPips }

/-- Region n at the end of pip p (R358, R369). -/
def Region.pip (n p : Nat) (r : Region) : Region :=
  let r := { r with idlePips := if r.pstate == PState.idle || r.scrubWake.isSome then r.idlePips + 1 else r.idlePips }
  let r := if r.tempOk then r.addEqt p else r
  if monitored r.pstate then r.measure n p else r

/-- The PTP clock's ticks of a pip, and whether SYNC_IN is seen: it stops in device OFF (R333, R334, DESIGN CHOICE log 4). -/
def State.clockPip (s : State) : State :=
  if s.pwr.dev == .off then s
  else
    let n := s.pip.now.toNat
    { s with ptp := { s.ptp.tick (Config.ptpTicks n) with syncok := Config.syncEdges n } }

/-- An enabled port in the n-th pip: forward error correction counts, and a peer may come to answer the verification of frame
preemption (R314, R332, DESIGN CHOICE log 32, DESIGN CHOICE log 81). -/
def Port.pip (n p : Nat) (x : Port) : Port :=
  let y := (x.count 5 (Config.fecCorrected p n)).count 6 (Config.fecUncorrected p n)
  { y with pver := y.mayVerify && (y.pver || Config.preemptVerified p n) }

/-- The enabled ports in a pip. -/
def State.portsPip (s : State) : State :=
  (List.range 8).foldl (fun s p => if (s.port p).en then s.onPort p (Port.pip s.pip.now.toNat p) else s) s

/-- One pip passes (DESIGN CHOICE log 3). -/
def State.tick (s : State) : State :=
  if !s.powered then s
  else
    let s := s.linkFall.clockPip.portsPip
    { s with
      pip := { s.pip with now := s.pip.now + 1 }
      cores := SMap.map {} s.cores (fun _ c => c.pip)
      fabrics := SMap.map {} s.fabrics (fun _ f => f.landAll)
      regions := SMap.map {} s.regions (fun n r => r.pip n s.pip.now.toNat) }.keeperPip

end Sys2Proof.Machine
end

