-- ==== Sys2Proof/Safety.lean ====
section
/-! DEFINITION. What a safe run is, in the terms that claims use: tables in canonical form, commands for units that
exist, steps that do not stop, life-cycle states and transitions that the manual has, when an instruction may run, and
what an instruction leaves alone. -/

namespace Sys2Proof.Safety

open Sys2Proof.Machine

/-! ## The whole state -/

/-- A step stops. -/
def Stops (s : State) : Prop := ∀ t, step s ≠ .next t

/-- The tables of the state are in canonical form: keys strictly rising, no entry that an unlisted key reads as. -/
structure Canonical (s : State) : Prop where
  mem : SMap.wf 0 s.mem = true
  hbm : SMap.wf 0 s.hbm = true
  cores : SMap.wf {} s.cores = true
  regions : SMap.wf {} s.regions = true
  dmas : SMap.wf {} s.dmas = true
  ports : SMap.wf {} s.ports = true
  timers : SMap.wf {} s.timers = true

/-- A transition of the life-cycle (R381): MAKER 0, SEALED 1, FIELD 2, RETURN 3, VOID 4. -/
def LcStep (a b : BitVec 3) : Prop :=
  (a = 0 ∧ b = 1) ∨ (a = 1 ∧ b = 2) ∨ (a = 2 ∧ b = 3) ∨ (a ≠ 4 ∧ b = 4)

/-- The fuse programming under way fits the life-cycle state (R381). -/
def FuseFits (d : Dev) : Prop :=
  match d.fuseOp with
  | .none => True
  | .enroll _ _ => d.lc = 1
  | .sealing => d.lc = 0
  | .toReturn => d.lc = 2
  | .toVoid => d.lc ≠ 4

/-- The device has every region (R1, R3). -/
def AllRegions (s : State) : Prop := s.dev.disabled = []

/-- The parts that the grade gives the device (R1, R2): the GX-4816 has eight regions disabled and keeps nine or more on each
die, the GX-4820 has none disabled. -/
def GradeOk (d : Dev) : Prop :=
  if d.gx4816 then
    d.disabled.Nodup ∧ d.disabled.length = 8 ∧ (∀ n ∈ d.disabled, n < 48)
      ∧ ∀ e, e < 4 → (d.disabled.filter (fun n => dieOf n == e)).length ≤ 3
  else d.disabled = []

/-! ## When an instruction runs -/

/-- Core k may run its next instruction now, and no REP is in force (R199, R217, R226, R265, R389). -/
def Ready (s : State) (k : Nat) : Prop := s.atWork k = true ∧ (s.core k).free = true ∧ (s.core k).rep = none

/-! ## What an instruction leaves alone -/

/-- The special registers, the exception registers, the machine registers, the store buffer and the groups of a core
stand, and MH and ML where no product is on its way (R212, R230, R261-R263, R276, R279). -/
structure SysKept (c e : Core) : Prop where
  cnt : e.cnt = c.cnt
  lk : e.lk = c.lk
  vector : e.vprog = c.vprog ∧ e.vfc = c.vfc ∧ e.vfe = c.vfe ∧ e.vfa = c.vfa
  causes : e.causeS = c.causeS ∧ e.causeM = c.causeM
  bases : e.evb = c.evb ∧ e.ssb = c.ssb ∧ e.gtb = c.gtb ∧ e.gtn = c.gtn
  mstat : e.halt = c.halt ∧ e.sfh = c.sfh
  wdog : e.wctl = c.wctl ∧ e.wcnt = c.wcnt
  irqs : e.ipend = c.ipend ∧ e.imask = c.imask
  machine : e.mevb = c.mevb ∧ e.msb = c.msb ∧ e.mgtb = c.mgtb ∧ e.mgtn = c.mgtn ∧ e.scratch = c.scratch
  resv : e.resv = c.resv
  stores : e.sbuf = c.sbuf ∧ e.mchk = c.mchk
  groups : e.groups = c.groups ∧ e.stopped = c.stopped
  bound : e.bound = c.bound ∧ e.phase = c.phase
  mul : c.mstart = [] → e.mh = c.mh ∧ e.ml = c.ml

/-- Every register of a core stands but the W registers ws of its level, the address registers as and the F registers
fs. -/
structure Frame (c e : Core) (ws : List (BitVec 5)) (as : List (BitVec 3)) (fs : List Nat) : Prop where
  w : ∀ key, (∀ r ∈ ws, key ≠ wKey c.cst.pl r) → SMap.get 0 e.w key = SMap.get 0 c.w key
  a : ∀ n, (∀ r ∈ as, n ≠ r.toNat) → SMap.get 0 e.a n = SMap.get 0 c.a n
  f : ∀ n, n ∉ fs → SMap.get 0 e.f n = SMap.get 0 c.f n
  am : e.am = c.am
  t : e.t = c.t
  ac : e.ac = c.ac
  sys : SysKept c e

/-- The outcome is a next state that differs from s in core k only, which becomes a core e that has passed an
instruction of len words and of which P holds. -/
def Gives (s : State) (k len : Nat) (out : Out) (P : Core → Prop) : Prop :=
  ∃ e, out = .next (s.setCore k e) ∧ e.pc = (s.core k).pc + BitVec.ofNat 40 len ∧ P e

/-- VMODE after an instruction that may raise OV (R66). -/
def withOv (v : Word) (ov : Bool) : Word := if ov then v ||| 0x100 else v

/-- A core c has written v to Wd and nothing else, with these flags, OV raised or not. A write of W0 has no effect
(R208). -/
def Writes (c : Core) (d : BitVec 5) (v : Word) (cst : Cst) (ov : Bool) (e : Core) : Prop :=
  e.wr d = (if d = 0 then 0 else v) ∧ e.cst = cst ∧ e.vmode = withOv c.vmode ov ∧ e.fmode = c.fmode ∧ Frame c e [d] [] []

/-- A sum of two words and a carry with the flags of R241; with chain, Z is chained as R232 states. -/
def Sum (c : Core) (d : BitVec 5) (x y : Word) (cin chain : Bool) (e : Core) : Prop :=
  let n := x.toNat + y.toNat + (if cin then 1 else 0)
  let v : Word := BitVec.ofNat 20 n
  Writes c d v { c.cst with n := v.msb, z := (!chain || c.cst.z) && decide (v = 0), c := decide (2 ^ 20 ≤ n) } false e

/-- A result with N and Z (R241). -/
def Logical (c : Core) (d : BitVec 5) (v : Word) (e : Core) : Prop :=
  Writes c d v { c.cst with n := v.msb, z := decide (v = 0) } false e

/-- An exact integer narrowed to one signed word (R65): clamped with S, else its low bits; OV where it does not fit. -/
def Narrows (c : Core) (d : BitVec 5) (x : Int) (sat : Bool) (e : Core) : Prop :=
  if -(2 ^ 19 : Int) ≤ x ∧ x < 2 ^ 19 then Writes c d (BitVec.ofInt 20 x) c.cst false e
  else Writes c d (if sat then (if x < 0 then 0x80000 else 0x7FFFF) else BitVec.ofInt 20 x) c.cst true e

/-- A double written to an even register pair, low word in the even register (R229). -/
def WritesPair (c : Core) (d : BitVec 5) (v : Dbl) (e : Core) : Prop :=
  e.wr d = (if d = 0 then 0 else v.extractLsb' 0 20) ∧ e.wr (d ||| 1) = v.extractLsb' 20 20
    ∧ e.cst = c.cst ∧ e.vmode = c.vmode ∧ e.fmode = c.fmode ∧ Frame c e [d, d ||| 1] [] []

/-- As Narrows, for the unsigned range (R143). -/
def NarrowsU (c : Core) (d : BitVec 5) (x : Int) (sat : Bool) (e : Core) : Prop :=
  if 0 ≤ x ∧ x < 2 ^ 20 then Writes c d (BitVec.ofInt 20 x) c.cst false e
  else Writes c d (if sat then (if x < 0 then 0 else 0xFFFFF) else BitVec.ofInt 20 x) c.cst true e

/-- An address register written, and nothing else. -/
def WritesA (c : Core) (a : BitVec 3) (v : Dbl) (e : Core) : Prop :=
  e.ar a = v ∧ e.cst = c.cst ∧ e.vmode = c.vmode ∧ e.fmode = c.fmode ∧ Frame c e [] [a] []

/-- An F register written with a result, the flags raised merged into VMODE and FMODE, and nothing else (R83). -/
def WritesF (c : Core) (n : Nat) (v : Dbl) (fl : Flags) (e : Core) : Prop :=
  e.fr n = v ∧ e.cst = c.cst ∧ e.vmode = mergeV c.vmode fl ∧ e.fmode = mergeF c.fmode fl ∧ Frame c e [] [] [n]

/-- The lanes of Vn written, of 40 bits or of 20, the flags raised merged, and nothing else (R211, R256). -/
def WritesV (c : Core) (wd : Bool) (n : Nat) (l : List Int) (fl : Flags) (e : Core) : Prop :=
  e.laneBits wd n = l.map (fun x => (BitVec.ofInt (if wd then 40 else 20) x).toNat)
    ∧ e.cst = c.cst ∧ e.vmode = mergeV c.vmode fl ∧ e.fmode = mergeF c.fmode fl
    ∧ Frame c e [] [] [4 * n, 4 * n + 1, 4 * n + 2, 4 * n + 3]

/-- Registers other than the program counter stand, and nothing else is written. -/
def Nothing (c e : Core) : Prop :=
  e.cst = c.cst ∧ e.vmode = c.vmode ∧ e.fmode = c.fmode ∧ Frame c e [] [] []

/-- A floating-point instruction of core k completes: where none of the flags it raises traps (R84), it writes v to Fn. -/
def FloatGives (s : State) (k : Nat) (out : Out) (n : Nat) (r : Nat × Flags) : Prop :=
  trapFlags r.2 (s.core k).vm1 (s.core k).fm1 = 0 →
    Gives s k 2 out (WritesF (s.core k) n (BitVec.ofNat 40 r.1) r.2)

/-- As FloatGives, for the lanes of Vn. -/
def LanesGive (s : State) (k : Nat) (out : Out) (wd : Bool) (n : Nat) (r : List Int × Flags) : Prop :=
  trapFlags r.2 (s.core k).vm1 (s.core k).fm1 = 0 → Gives s k 2 out (WritesV (s.core k) wd n r.1 r.2)

/-- The outcome is that of a branch that is taken or not: the program counter goes to the target or past two words, and
nothing else is written. -/
def Branches (s : State) (k : Nat) (o : Word) (taken : Bool) (out : Out) : Prop :=
  ∃ e, out = .next (s.setCore k e) ∧ Nothing (s.core k) e ∧ e.rep = none
    ∧ e.pc = (s.core k).pc + (if taken then o.signExtend 40 else 2)

/-- A load of core k whose addresses are l, cut into the accesses ls: where no access fails a check of R264 and the
buffered stores in its way have been performed, it is outstanding, younger than every other load, and its address
register is post-modified. -/
def LoadsTo (s : State) (k len : Nat) (ls : List (List Nat)) (slots : List Slot) (u : Option (BitVec 3 × Dbl)) (lwx sv : Bool)
    (out : Out) : Prop :=
  ∀ s1 data, s.checkAll k (s.core k) [.r] false lwx ls = none → s.beforeLoad k ls.flatten lwx = (.done s1, data) →
    ∃ e, out = .next ((s1.present (.core k) ls.flatten).setCore k e)
      ∧ e.pc = (s1.core k).pc + BitVec.ofNat 40 len
      ∧ (∃ p, e.loads.getLast? = some p ∧ p.addrs = ls.flatten ∧ p.slots = slots ∧ p.age = 0 ∧ p.lwx = lwx
          ∧ p.data = data.map LdData.ok ∧ p.behind = (s1.core k).sbuf.length ∧ p.rep = (s1.core k).rep
          ∧ p.again = if sv then some (s1.core k).pc else none)
      ∧ (match u with | some v => e.ar v.1 = v.2 | none => e.a = (s1.core k).a)
      ∧ e.w = (s1.core k).w ∧ e.f = (s1.core k).f ∧ e.cst = (s1.core k).cst ∧ e.sbuf = (s1.core k).sbuf

/-- A store of core k: where no access fails a check of R264, no lane of a short-vector store is refused (R175) and there is
room in the buffer, its words are in the buffer behind every other store, and its address register is post-modified. -/
def StoresTo (s : State) (k len : Nat) (ls : List (List Nat)) (ws : List Word) (u : Option (BitVec 3 × Dbl)) (sv : Bool)
    (out : Out) : Prop :=
  let vs := (List.zip ls.flatten ws).map (fun p => s.supervisorValue (s.core k).cst.pl p.1 p.2)
  ∀ s1, s.checkAll k (s.core k) [.w] true false ls = none → (sv = true → s.refusedLane k ls.flatten = none) →
    s.room k (carry ls vs).length = .done s1 →
    ∃ n e, out = .next (({ s1.present (.core k) ls.flatten with draws := n } : State).setCore k e)
      ∧ e.pc = ((s1.present (.core k) ls.flatten).core k).pc + BitVec.ofNat 40 len
      ∧ e.sbuf = (s1.core k).sbuf ++ carry ls vs
      ∧ (match u with | some v => e.ar v.1 = v.2 | none => e.a = (s1.core k).a)
      ∧ e.w = (s1.core k).w ∧ e.f = (s1.core k).f ∧ e.cst = (s1.core k).cst

/-! ## Control registers and exceptions -/

/-- The control registers that MFC reads, each with its value (R212, R213, R261, R262). -/
def ctlTable (c : Core) : List (Nat × Word) :=
  [(0, c.cst.word c.resv.isSome), (1, if c.cst.pl = .m then c.causeM else c.causeS), (2, c.vprog), (3, c.vmode), (4, c.fmode),
    (5, c.cnt), (6, c.lk.extractLsb' 0 20), (7, c.lk.extractLsb' 20 20), (8, c.mh), (9, c.ml), (10, c.vfc), (11, c.vfe),
    (12, c.vfa.extractLsb' 0 20), (13, c.vfa.extractLsb' 20 20), (16, c.evb.extractLsb' 0 20), (17, c.evb.extractLsb' 20 20),
    (18, c.ssb.extractLsb' 0 20), (19, c.ssb.extractLsb' 20 20), (20, c.gtb.extractLsb' 0 20), (21, c.gtb.extractLsb' 20 20),
    (22, c.gtn), (23, c.mstat), (24, c.wctl), (25, c.wcnt), (26, c.ipend), (27, c.imask)]

/-- The control registers that MTC writes with a plain value, each with the bits that it may have and those that it keeps:
EVB is aligned to 256 words and GTB to 4 (R212, R261, R262). -/
def ctlPlain : List (Nat × Word × Word) :=
  [(3, 0x003F0, 0x003F0), (4, 0x01FFF, 0x01FFF), (5, 0xFFFFF, 0xFFFFF), (6, 0xFFFFF, 0xFFFFF), (7, 0xFFFFF, 0xFFFFF),
    (8, 0xFFFFF, 0xFFFFF), (9, 0xFFFFF, 0xFFFFF), (16, 0xFFFFF, 0xFFF00), (17, 0xFFFFF, 0xFFFFF), (18, 0xFFFFF, 0xFFFFF),
    (19, 0xFFFFF, 0xFFFFF), (20, 0xFFFFF, 0xFFFFC), (21, 0xFFFFF, 0xFFFFF)]

/-- The general registers, the descriptors, the accumulators, the reservation, the store buffer and the groups of a core
stand, and so do the control registers but n, and MH and ML where no product is on its way. -/
def CtlFrame (c e : Core) (n : Nat) : Prop :=
  e.w = c.w ∧ e.a = c.a ∧ e.am = c.am ∧ e.f = c.f ∧ e.t = c.t ∧ e.ac = c.ac ∧ e.resv = c.resv ∧ e.sbuf = c.sbuf
    ∧ e.groups = c.groups ∧ e.bound = c.bound
    ∧ ∀ m v, (m, v) ∈ ctlTable c → m ≠ n → (m = 8 ∨ m = 9 → c.mstart = []) → e.ctl m = some v

/-- The bottom address of the frame that an exception x pushes (R266). -/
def frameAt (c : Core) (t : Priv) : Dbl := c.base t + (c.w30 t - 8).zeroExtend 40

/-- The push of a frame for level t is allowed (R266 step 2). -/
def PushOk (s : State) (k : Nat) (t : Priv) : Prop :=
  let c := s.core k
  8 ≤ (c.w30 t).toNat ∧ (c.w30 t).toNat % 8 = 0
    ∧ ∀ i, i < 8 → let a := (frameAt c t + BitVec.ofNat 40 i).toNat
        s.isRegion a = true ∧ (t = .m ∨ s.permits c.ctx .w a = true)

/-- The eight words of a frame (R267). -/
def frameWords (x : Exc) (cst : Word) : List Word :=
  [cst, BitVec.ofNat 20 (x.sub * 256 + x.code), x.ret.extractLsb' 0 20, x.ret.extractLsb' 20 20,
    x.info.extractLsb' 0 20, x.info.extractLsb' 20 20, x.w6, 0]

/-- Core k takes exception x from a state in which its loads have returned (R266 steps 3 to 5), its REP saved (R227): the
frame enters the store buffer behind every other store, and W30, CAUSE, CST, the reservation and the program counter are
as the entry leaves them. -/
def Enters (s : State) (k : Nat) (x : Exc) (out : Out) : Prop :=
  let es := carry (splitAt 4 (addrsFrom (frameAt (s.core k) x.lvl) 8))
    (frameWords x (({ (s.core k).cst with rpt := (s.core k).cst.rpt || (s.core k).rep.isSome } : Cst).word (s.core k).resv.isSome))
  ∀ s1, (s.onCore k Core.saveRep).room k es.length = .done s1 →
    let c := s1.core k
    ∃ e, out = .next (s1.setCore k e)
      ∧ e.sbuf = c.sbuf ++ es
      ∧ SMap.get 0 e.w (wKey x.lvl 30) = SMap.get 0 c.w (wKey x.lvl 30) - 8
      ∧ (∀ key, key ≠ wKey x.lvl 30 → SMap.get 0 e.w key = SMap.get 0 c.w key)
      ∧ (if x.lvl = .m then e.causeM = BitVec.ofNat 20 (x.sub * 256 + x.code) ∧ e.causeS = c.causeS
         else e.causeS = BitVec.ofNat 20 (x.sub * 256 + x.code) ∧ e.causeM = c.causeM)
      ∧ e.cst = { c.cst with pl := x.lvl, ie := false, rpt := false } ∧ e.resv = none
      ∧ e.pc = (if x.lvl = .m then c.mevb else c.evb) + BitVec.ofNat 40 (16 * x.code)
      ∧ e.a = c.a ∧ e.am = c.am ∧ e.f = c.f ∧ e.t = c.t ∧ e.ac = c.ac ∧ e.groups = c.groups ∧ e.rep = c.rep

/-- The home level of a core (R264). -/
def homeLevel (c : Core) : Priv := if c.cst.pl = .m then .m else .s

/-- An instruction or an event of core k takes exception x (R266): its loads return, and where none fails and the push is
allowed, the exception is entered. -/
def Takes (s : State) (k : Nat) (x : Exc) (out : Out) : Prop :=
  ∀ s1, s.drainLoads k = .done s1 none → PushOk s1 k x.lvl →
    Enters s1 k x out

/-! ## Registers reached by a command -/

/-- A master may write the register at an offset now: the device runs, the register answers the master at its level, and
the cluster that it may belong to does not roll, and its die's fabric is not off (R22, R23, R27, R259, R367). -/
def MayWrite (s : State) (who : Master) (off : Nat) : Prop :=
  s.up = true ∧ s.mapped who (0x30000000 + off) true = true ∧ s.rcRefused off = false ∧ s.regsOff off = false
    ∧ ∀ k, who = .core k → s.clusterOn k = true ∧ s.levelAllows k (s.core k).cst.pl (.regs off) true = true

/-- A master may read the register at an offset now. -/
def MayRead (s : State) (who : Master) (off : Nat) : Prop :=
  s.up = true ∧ s.mapped who (0x30000000 + off) false = true ∧ s.rcRefused off = false ∧ s.regsOff off = false
    ∧ ∀ k, who = .core k → s.clusterOn k = true ∧ s.levelAllows k (s.core k).cst.pl (.regs off) false = true

/-- Registers that software writes and reads back and whose writing has no other effect: the first one's offset, the
distance to the next, how many, and the bits that are not reserved (R13, R14 and the blocks' maps). -/
def plainRegs : List (Nat × Nat × Nat × Word) :=
  [(0x10101, 1, 1, 0xFFFFF), (0x20003, 1, 1, 0xFFFFF), (0x30022, 0x40, 96, 0xC007F), (0x30023, 0x40, 96, 0xFFFFF),
    (0x40003, 0x100, 8, 0xFFFFF), (0x40004, 0x100, 8, 0xFFFFF), (0x40005, 0x100, 8, 0xFFFFF), (0x40006, 0x100, 8, 0xFF),
    (0x40010, 0x100, 8, 0xFFFFF), (0x4001F, 0x100, 8, 0xFFFFF), (0x4080A, 1, 4, 0xFFFFF), (0x41000, 8, 256, 0xFFFC0),
    (0x41001, 8, 256, 0xFFFFF), (0x41006, 8, 256, 0xFF), (0x42000, 1, 4096, 0x80007), (0x5000A, 1, 2, 0xFFFFF),
    (0x5000D, 1, 1, 0xFFFFF), (0x60000, 2, 2, 1), (0x60001, 4, 2, 0xFFFFF), (0x60010, 1, 1, 0x7FFF), (0x60100, 1, 53, 0xFFFFF),
    (0x60140, 1, 53, 0xFFFFF), (0x90003, 1, 2, 0xFFFFF), (0x90040, 1, 128, 0x8003F), (0x100008, 0x1000, 48, 0xFFFFF),
    (0x100009, 0x1000, 48, 0xFFFFF), (0x100102, 0x1000, 48, 0xFFFFF), (0x100103, 0x1000, 48, 0xFFFFF), (0x200002, 0x400, 96, 0x3FF),
    (0x200300, 0x400, 96, 0xFFFFF), (0x2003FF, 0x400, 96, 0xFFFFF)]

/-- A plain register at an offset, with the bits of it that are not reserved. -/
def Plain (off : Nat) (legal : Word) : Prop :=
  ∃ e ∈ plainRegs, ∃ i < e.2.2.1, off = e.1 + i * e.2.1 ∧ legal = e.2.2.2

/-- Word w of the control block of context c reads v without a correction. -/
def CbIs (s : State) (c w : Nat) (v : Word) : Prop := s.peek (cbAddr c w) (.ctx (32 * c + w)) = .good v 0

/-- A word of a region reads v without a correction, and its region runs. -/
def Holds (s : State) (a : Nat) (v : Word) : Prop :=
  (∃ n off, s.locOf a = .region n off ∧ (s.rgn n).armed = false) ∧ s.peek a (s.locOf a) = .good v 0

/-! ## Links -/

/-- What a frame on the line carries: its channel, its number, its destination, its source and its payload. -/
def sentData (f : TxFrame) : Option (Bool × BitVec 12 × List Word × List Word) :=
  match f with
  | .msg v g => some (v, g.seq, [g.h4, g.h5, g.h6, g.h7], g.payload)
  | _ => none

/-- The same of a frame in the replay buffer. -/
def keptData (u : Unacked) : Option (Bool × BitVec 12 × List Word × List Word) :=
  some (u.f.vc1, u.seq, [u.f.h4, u.f.h5, u.f.h6, u.f.h7], u.f.payload)

/-! ## Resets -/

/-- What a warm reset leaves (R378, R379, R187): the CL_M registers and the scratch area of each cluster and nothing else of
it, the regions asleep with their castling, equivalent time and scrub row, memory but for the contexts that were RUNNING, the link
tables, the PTP clock and PIP_NOW, the quotas and the ledger; everything else that R379 lists at its reset value. -/
structure WarmReset (s t : State) : Prop where
  held : t.up = false ∧ t.dev.stage = .held ∧ t.dev.slot = 3 ∧ t.dev.bootCause = 0
  cores : ∀ k, let c := s.core k
    t.core k = { mevb := c.mevb, msb := c.msb, mgtb := c.mgtb, mgtn := c.mgtn, mset := c.mset, scratch := c.scratch }
  asleep : ∀ n, (t.rgn n).pstate = (if (s.rgn n).pstate = .off then .off else .nap)
  regions : ∀ n, (t.rgn n).moved = (s.rgn n).moved ∧ (t.rgn n).eqt = (s.rgn n).eqt ∧ (t.rgn n).ctl = 0 ∧ (t.rgn n).vf = 0x514
    ∧ (t.rgn n).turns = 0xC0 ∧ (t.rgn n).flip = 0 ∧ (t.rgn n).contend = 0 ∧ (t.rgn n).cstat = .idle
    ∧ (t.rgn n).scrubPtr = (s.rgn n).scrubPtr
  clear : ∀ n, (s.rgn n).pstate = .rolling ∨ (s.rgn n).needsClear = true → (t.rgn n).needsClear = true
  memory : ∀ a, a < 0x20000000 ∨ 0x22000000 ≤ a → SMap.get 0 t.mem a = SMap.get 0 s.mem a
  hbm : t.hbm = s.hbm
  contexts : ∀ c, c < 2 ^ 20 →
    if s.ctxState c = 4 then t.ctxState c = 5 ∧ ∀ v, CbIs s c 4 v → (t.cb c 4).toNat / 2 ^ 5 % 16 = 1
    else t.ctxState c = s.ctxState c
  sched : t.sched.qa = s.sched.qa ∧ t.sched.qt = s.sched.qt ∧ t.sched.slice = s.sched.slice ∧ t.sched.arg = [] ∧ t.sched.stat = []
    ∧ t.sched.rebuilt = false
  dma : t.dmas = []
  host : t.host = {}
  ports : ∀ p, p < 8 → (t.port p).ctl = 0 ∧ ((s.port p).en = true → (t.port p).txq = [] ∧ (t.port p).up = 0)
  links : t.lnk = { s.lnk with deliveries := [] }
  time : t.ptp = { s.ptp with ppsOut := false } ∧ t.pip = s.pip ∧ ∀ k, t.tmr k = { s.tmr k with en := false }
  ledger : t.int.ledger = s.int.ledger
  fuses : t.dev.lc = s.dev.lc ∧ t.dev.okh = s.dev.okh ∧ t.dev.osk = s.dev.osk

/-! ## The monitor -/

/-- A command that needs no session in the life-cycle state (R380). -/
def OpenCommand (s : State) (cmd : Byte) : Bool :=
  decide (s.dev.lc = 0 ∨ cmd = 0x01 ∨ cmd = 0x02 ∨ cmd = 0x10 ∨ cmd = 0x11 ∨ (s.dev.lc = 1 ∧ cmd = 0x60))

/-- The monitor of the keeper firmware takes a request, and t is the state that it leaves before it is carried out: a
request with a MAC in a session has the MAC and the number that it must have, and any other is open (R384, R386). -/
def Taken (s : State) (r : MonReq) (cmd : Byte) (payload : List Byte) (t : State) : Prop :=
  let m := s.mon r.ch
  s.up = true ∧ s.dev.stage = .firmware ∧
    match m.key with
    | none => OpenCommand s cmd = true ∧ t = s
    | some key =>
      if r.flags.getLsbD 0 then
        Config.hmac128 key (macInput r cmd payload) = r.mac ∧ r.seq = m.next
          ∧ t = s.setMon r.ch { m with next := m.next + 1, last := s.pip.now.toNat }
      else OpenCommand s cmd = true ∧ t = s

end Sys2Proof.Safety
end

