-- ==== Sys2Proof/Certificates/Slice0/Obligations.lean ====
section
/-! DEFINITION. The statements for the provers. -/

open Sys2Proof Sys2Proof.Machine Sys2Proof.Safety

/-! ## Integer instructions -/

/-- ADD, SUB, ADDI, SUBI, ADC and SBC: sums modulo 2^20 with N, Z and C, a subtraction being x + NOT y + 1 or + C. -/
def Obligations.SumsAndDifferences : Prop :=
  ∀ (s : State) (k : Nat) (d rs t : BitVec 5) (imm : Word), Ready s k →
    let c := s.core k
    Gives s k 1 (exec (.add k d rs t) s) (Sum c d (c.wr rs) (c.wr t) false false)
    ∧ Gives s k 1 (exec (.sub k d rs t) s) (Sum c d (c.wr rs) (~~~ c.wr t) true false)
    ∧ Gives s k 2 (exec (.addi k d rs imm) s) (Sum c d (c.wr rs) imm false false)
    ∧ Gives s k 2 (exec (.subi k d rs imm) s) (Sum c d (c.wr rs) (~~~ imm) true false)
    ∧ Gives s k 1 (exec (.adc k d rs t) s) (Sum c d (c.wr rs) (c.wr t) c.cst.c true)
    ∧ Gives s k 1 (exec (.sbc k d rs t) s) (Sum c d (c.wr rs) (~~~ c.wr t) c.cst.c true)

/-- The bitwise operations and the shifts that lose bits: the result, N and Z. A count of 20 or more shifts every bit
out. Results that set no flag: MOVI, the minima and maxima, and the moves out of address and AM registers. -/
def Obligations.LogicShiftsAndMoves : Prop :=
  (∀ (s : State) (k : Nat) (d rs t : BitVec 5) (imm : Word) (n : BitVec 9), Ready s k →
    let c := s.core k
    let x := c.wr rs
    let y := c.wr t
    Gives s k 1 (exec (.and k d rs t) s) (Logical c d (x &&& y))
    ∧ Gives s k 1 (exec (.or k d rs t) s) (Logical c d (x ||| y))
    ∧ Gives s k 1 (exec (.xor k d rs t) s) (Logical c d (x ^^^ y))
    ∧ Gives s k 2 (exec (.andi k d rs imm) s) (Logical c d (x &&& imm))
    ∧ Gives s k 2 (exec (.ori k d rs imm) s) (Logical c d (x ||| imm))
    ∧ Gives s k 2 (exec (.xori k d rs imm) s) (Logical c d (x ^^^ imm))
    ∧ Gives s k 1 (exec (.shl k d rs t) s) (Logical c d (BitVec.ofNat 20 (x.toNat * 2 ^ y.toNat)))
    ∧ Gives s k 1 (exec (.shr k d rs t) s) (Logical c d (BitVec.ofNat 20 (x.toNat / 2 ^ y.toNat)))
    ∧ Gives s k 1 (exec (.sha k d rs t) s) (Logical c d (BitVec.ofInt 20 (x.toInt / 2 ^ y.toNat)))
    ∧ Gives s k 2 (exec (.shli k d rs n) s) (Logical c d (BitVec.ofNat 20 (x.toNat * 2 ^ n.toNat)))
    ∧ Gives s k 2 (exec (.shri k d rs n) s) (Logical c d (BitVec.ofNat 20 (x.toNat / 2 ^ n.toNat)))
    ∧ Gives s k 2 (exec (.shai k d rs n) s) (Logical c d (BitVec.ofInt 20 (x.toInt / 2 ^ n.toNat))))
  ∧ (∀ (s : State) (k : Nat) (d rs t : BitVec 5) (a : BitVec 3) (imm : Word), Ready s k →
    let c := s.core k
    let x := c.wr rs
    let y := c.wr t
    let w (v : Word) : Core → Prop := Writes c d v c.cst false
    Gives s k 2 (exec (.movi k d imm) s) (w imm)
    ∧ Gives s k 2 (exec (.min k d rs t) s) (w (BitVec.ofInt 20 (Min.min x.toInt y.toInt)))
    ∧ Gives s k 2 (exec (.max k d rs t) s) (w (BitVec.ofInt 20 (Max.max x.toInt y.toInt)))
    ∧ Gives s k 2 (exec (.minu k d rs t) s) (w (BitVec.ofNat 20 (Min.min x.toNat y.toNat)))
    ∧ Gives s k 2 (exec (.maxu k d rs t) s) (w (BitVec.ofNat 20 (Max.max x.toNat y.toNat)))
    ∧ Gives s k 2 (exec (.mfal k d a) s) (w ((c.ar a).extractLsb' 0 20))
    ∧ Gives s k 2 (exec (.mfah k d a) s) (w ((c.ar a).extractLsb' 20 20))
    ∧ Gives s k 2 (exec (.mfam k d a) s) (w (c.amr a)))

/-- Narrowing arithmetic: the exact result, clamped or wrapped, and OV. A SAT field of 11 is illegal and is no form of
these instructions. Multiplication: MUL and MULQ narrowed, MULU narrowed to the unsigned range, MULW and MULWU exact in
an even pair. MULQ and SHAR take the exact value rounded by RM, or by VMODE.RM with RDEF. -/
def Obligations.NarrowingAndProducts : Prop :=
  (∀ (s : State) (k : Nat) (d rs t : BitVec 5) (n : BitVec 9) (sat : BitVec 2) (z : Bool), Ready s k →
    satOf sat (s.core k).vm1 = some z →
    let c := s.core k
    let x := (c.wr rs).toInt
    let y := (c.wr t).toInt
    Gives s k 2 (exec (.adds k d rs t sat) s) (Narrows c d (x + y) z)
    ∧ Gives s k 2 (exec (.subs k d rs t sat) s) (Narrows c d (x - y) z)
    ∧ Gives s k 2 (exec (.neg k d rs sat) s) (Narrows c d (-x) z)
    ∧ Gives s k 2 (exec (.abs k d rs sat) s) (Narrows c d (x.natAbs : Int) z)
    ∧ Gives s k 2 (exec (.shls k d rs t sat) s) (Narrows c d (x * 2 ^ (c.wr t).toNat) z)
    ∧ Gives s k 2 (exec (.shlsi k d rs n sat) s) (Narrows c d (x * 2 ^ n.toNat) z))
  ∧ (∀ (s : State) (k : Nat) (d rs t : BitVec 5) (n : BitVec 9) (o : Opt) (z : Bool), Ready s k →
    satOf o.sat (s.core k).vm1 = some z →
    let c := s.core k
    let x := (c.wr rs).toInt
    let y := (c.wr t).toInt
    let rm := if o.rdef then c.vm1.extractLsb' 4 2 else o.rm
    Gives s k 1 (exec (.mul k d rs t) s) (Narrows c d (x * y) (c.vm1.getLsbD 6))
    ∧ Gives s k 2 (exec (.mulq k d rs t o) s) (Narrows c d (rnd (x * y) 19 rm) z)
    ∧ Gives s k 2 (exec (.shar k d rs n o) s) (Narrows c d (rnd x n.toNat rm) z)
    ∧ Gives s k 2 (exec (.mulu k d rs t o.sat) s) (NarrowsU c d ((c.wr rs).toNat * (c.wr t).toNat : Nat) z)
    ∧ (bit d 0 = false → Gives s k 1 (exec (.mulw k d rs t) s) (WritesPair c d (BitVec.ofInt 40 (x * y))))
    ∧ (bit d 0 = false →
        Gives s k 2 (exec (.mulwu k d rs t) s) (WritesPair c d (BitVec.ofNat 40 ((c.wr rs).toNat * (c.wr t).toNat)))))

/-- MSTART issues the signed product, which no register shows yet; MSTART_PRODUCT_WRITE puts the oldest one, high word
in MH and low word in ML. A division holds X, with its results of R73 kept; DIVISION_COMPLETE then writes quotient and
remainder to the even and odd register of the pair and merges OV and DZ. A division by zero under DZE takes ARITH with DZ
in word 6 of its frame instead: DZ is merged, and neither register of the pair is written. -/
def Obligations.DelayedProductAndDivision : Prop :=
  ((∀ (s : State) (k : Nat) (rs t : BitVec 5), Ready s k →
    let c := s.core k
    Gives s k 2 (exec (.mstart k rs t) s) (fun e =>
      e.mstart.getLast? = some (0, BitVec.ofInt 40 ((c.wr rs).toInt * (c.wr t).toInt)) ∧ Nothing c e))
  ∧ ∀ (s : State) (k n : Nat) (p : BitVec 40) (l : List (Nat × BitVec 40)), s.clusterOn k = true →
      (s.core k).mstart = (n, p) :: l →
      exec (.mstartProductWrite k) s =
        .next (s.setCore k { s.core k with mstart := l, mh := p.extractLsb' 20 20, ml := p.extractLsb' 0 20 }))
  ∧ ((∀ (s : State) (k : Nat) (d rs t : BitVec 5) (sat : BitVec 2) (z : Bool), Ready s k → bit d 0 = false →
    satOf sat (s.core k).vm1 = some z →
    let c := s.core k
    let b := (c.wr t).toInt
    let holds (out : Out) (r : DivRes) : Prop :=
      ∃ p, out = .next (s.setCore k { c with div := some p }) ∧ p.q = r.q ∧ p.r = r.r ∧ p.ov = r.ov ∧ p.dz = r.dz
        ∧ p.qk = d.toNat ∧ p.rk = d.toNat + 1 ∧ p.trap = (r.dz && c.vm1.getLsbD 7)
    holds (exec (.div k d rs t sat) s) (divS (c.wr rs).toInt b z)
    ∧ holds (exec (.divq k d rs t sat) s) (divS ((c.wr rs).toInt * 2 ^ 19) b z)
    ∧ holds (exec (.divu k d rs t) s) (divU (c.wr rs).toNat (c.wr t).toNat (c.vm1.getLsbD 6))
    ∧ (bit rs 0 = false → holds (exec (.divw k d rs t sat) s) (divS (c.pair rs).toInt b z))
    ∧ (bit rs 0 = false → holds (exec (.divwu k d rs t sat) s) (divU (c.pair rs).toNat (c.wr t).toNat z)))
  ∧ ∀ (s : State) (k : Nat) (p : DivPend), s.clusterOn k = true → (s.core k).div = some p → p.trap = false →
      p.qk < 32 → p.rk = p.qk + 1 → p.qk % 2 = 0 → (s.core k).rep = none →
      Gives s k 2 (exec (.divisionComplete k) s) (fun e =>
        e.wr (BitVec.ofNat 5 p.qk) = (if p.qk = 0 then 0 else p.q) ∧ e.wr (BitVec.ofNat 5 p.rk) = p.r ∧ e.div = none
          ∧ e.cst = (s.core k).cst ∧ e.vmode = mergeV (s.core k).vmode { ov := p.ov, dz := p.dz }
          ∧ Frame (s.core k) e [BitVec.ofNat 5 p.qk, BitVec.ofNat 5 p.rk] [] []))
  ∧ ∀ (s : State) (k : Nat) (p : DivPend), s.clusterOn k = true → (s.core k).div = some p → p.trap = true →
      let c := s.core k
      let d : Core := { c with vmode := mergeV c.vmode { ov := p.ov, dz := p.dz } }
      Takes (s.setCore k d) k { code := 6, lvl := homeLevel c, ret := c.pc, w6 := 8 } (exec (.divisionComplete k) s)

/-! ## Address registers, branches, jumps, loops -/

/-- The instructions that write an address register or its AM register. The address update in linear mode adds, in
modulo mode stays in the block of the buffer and wraps at its length, and in bit-reversed mode reverses the carry. -/
def Obligations.AddressRegisters : Prop :=
  (∀ (s : State) (k : Nat) (a b : BitVec 3) (n : BitVec 5) (imm : Word), Ready s k →
    let c := s.core k
    Gives s k 2 (exec (.adda k a b n) s) (WritesA c a (c.ar b + (c.wr n).signExtend 40))
    ∧ Gives s k 2 (exec (.addai k a b imm) s) (WritesA c a (c.ar b + imm.signExtend 40))
    ∧ Gives s k 2 (exec (.lal k a imm) s) (WritesA c a (imm.zeroExtend 40))
    ∧ Gives s k 2 (exec (.lah k a imm) s) (WritesA c a (imm ++ (c.ar a).extractLsb' 0 20))
    ∧ Gives s k 2 (exec (.mtal k a n) s) (WritesA c a ((c.ar a).extractLsb' 20 20 ++ c.wr n))
    ∧ Gives s k 2 (exec (.mtah k a n) s) (WritesA c a (c.wr n ++ (c.ar a).extractLsb' 0 20))
    ∧ Gives s k 2 (exec (.upda k a imm) s) (WritesA c a (upd (c.ar a) imm.toInt (c.amr a)))
    ∧ Gives s k 2 (exec (.mova k a b) s) (WritesA c a (c.ar b))
    ∧ Gives s k 2 (exec (.mtam k a n) s) (fun e =>
        e.amr a = c.wr n ∧ (∀ j, j ≠ a.toNat → SMap.get 0 e.am j = SMap.get 0 c.am j) ∧ e.a = c.a ∧ e.w = c.w
          ∧ e.f = c.f ∧ e.t = c.t ∧ e.ac = c.ac ∧ e.cst = c.cst ∧ SysKept c e))
  ∧ ((∀ (a : Dbl) (inc : Int) (am : Word), bits am 19 18 ≠ 1 → bits am 19 18 ≠ 2 → upd a inc am = a + BitVec.ofInt 40 inc)
  ∧ (∀ (a : Dbl) (inc : Int) (am : Word) (n b : Nat), bits am 19 18 = 1 → n = bits am 17 0 + 1 → n ≤ 2 ^ b → 2 ^ b < 2 * n →
      ((upd a inc am).toNat : Int) = (a.toNat / 2 ^ b * 2 ^ b : Nat) + ((a.toNat % 2 ^ b : Nat) + inc) % n)
  ∧ (∀ (a : Dbl) (inc : Int) (am : Word) (m : Nat), bits am 19 18 = 2 → bits am 4 0 = m → 1 ≤ m → m ≤ 20 →
      (upd a inc am).toNat / 2 ^ m = a.toNat / 2 ^ m
        ∧ (revBits ((upd a inc am).toNat % 2 ^ m) m : Int) = (revBits (a.toNat % 2 ^ m) m + inc) % 2 ^ m))

/-- The conditional branches and B: the condition, the target counted from the branch, and nothing written. Jumps, calls
and returns by LK: where control goes, and what LK holds after a call. DBNZ decrements Ws and branches while the result
is not 0; W0, which stays 0, gives −1 and branches. REPI and REP set a count for the word that follows; a count of 0 skips it as soon as it has been fetched, and a word that
R226 forbids takes ILLEGAL. Under a count of two or more an instruction stays and the count goes down; the last
repetition moves on. -/
def Obligations.ControlTransfers : Prop :=
  (∀ (s : State) (k : Nat) (rs t : BitVec 5) (o : Word), Ready s k →
    let c := s.core k
    let x := c.wr rs
    let y := c.wr t
    Branches s k o (decide (x = y)) (exec (.beq k rs t o) s)
    ∧ Branches s k o (decide (x ≠ y)) (exec (.bne k rs t o) s)
    ∧ Branches s k o (decide (x.toInt < y.toInt)) (exec (.blt k rs t o) s)
    ∧ Branches s k o (decide (x.toInt ≥ y.toInt)) (exec (.bge k rs t o) s)
    ∧ Branches s k o (decide (x.toNat < y.toNat)) (exec (.bltu k rs t o) s)
    ∧ Branches s k o (decide (x.toNat ≥ y.toNat)) (exec (.bgeu k rs t o) s)
    ∧ Branches s k o c.cst.c (exec (.bcs k o) s)
    ∧ Branches s k o (!c.cst.c) (exec (.bcc k o) s)
    ∧ Branches s k o c.cst.n (exec (.bmi k o) s)
    ∧ Branches s k o (!c.cst.n) (exec (.bpl k o) s)
    ∧ Branches s k o c.cst.z (exec (.bzs k o) s)
    ∧ Branches s k o (!c.cst.z) (exec (.bzc k o) s)
    ∧ Branches s k o true (exec (.b k o) s))
  ∧ (∀ (s : State) (k : Nat) (a : BitVec 3) (o : BitVec 30), Ready s k →
    let c := s.core k
    let goes (out : Out) (target lk : Dbl) : Prop :=
      ∃ e, out = .next (s.setCore k e) ∧ e.pc = target ∧ e.lk = lk ∧ Nothing { c with lk := lk } e ∧ e.rep = none
    goes (exec (.j k o) s) (c.pc + o.signExtend 40) c.lk
    ∧ goes (exec (.jal k o) s) (c.pc + o.signExtend 40) (c.pc + 2)
    ∧ goes (exec (.ret k) s) c.lk c.lk
    ∧ goes (exec (.jr k a) s) (c.ar a) c.lk
    ∧ goes (exec (.jalr k a) s) (c.ar a) (c.pc + 1))
  ∧ (∀ (s : State) (k : Nat) (rs : BitVec 5) (o imm : Word), Ready s k →
    let c := s.core k
    (∃ e, exec (.dbnz k rs o) s = .next (s.setCore k e) ∧ e.wr rs = (if rs = 0 then 0 else c.wr rs - 1)
      ∧ e.pc = c.pc + (if c.wr rs = 1 then 2 else o.signExtend 40) ∧ e.cst = c.cst ∧ e.vmode = c.vmode
      ∧ e.fmode = c.fmode ∧ Frame c e [rs] [] [])
    ∧ (s.repForbidden c (c.pc + 2) = false → imm ≠ 0 → Gives s k 2 (exec (.repi k imm) s) (fun e => e.rep = some imm.toNat ∧ Nothing c e))
    ∧ (s.repForbidden c (c.pc + 1) = false → c.wr rs ≠ 0 →
        Gives s k 1 (exec (.rep k rs) s) (fun e => e.rep = some (c.wr rs).toNat ∧ Nothing c e))
    ∧ (∀ w, s.repForbidden c (c.pc + 2) = false → s.fetchPeek (c.retire 2) (c.pc + 2) = some w →
        Gives s k (2 + wordLen w) (exec (.repi k 0) s) (fun e => e.rep = none ∧ Nothing c e))
    ∧ (∀ w, c.wr rs = 0 → s.repForbidden c (c.pc + 1) = false → s.fetchPeek (c.retire 1) (c.pc + 1) = some w →
        Gives s k (1 + wordLen w) (exec (.rep k rs) s) (fun e => e.rep = none ∧ Nothing c e))
    ∧ (s.repForbidden c (c.pc + 2) = true →
        Takes s k { code := 1, lvl := homeLevel c, ret := c.pc } (exec (.repi k imm) s))
    ∧ (s.repForbidden c (c.pc + 1) = true →
        Takes s k { code := 1, lvl := homeLevel c, ret := c.pc } (exec (.rep k rs) s)))
  ∧ (∀ (s : State) (k : Nat) (d rs t : BitVec 5) (n : Nat), s.atWork k = true → (s.core k).free = true →
    (s.core k).rep = some n → 1 ≤ n → (s.core k).repNew = false →
    let c := s.core k
    ∃ e, exec (.add k d rs t) s = .next (s.setCore k e) ∧ Sum c d (c.wr rs) (c.wr t) false false e
      ∧ (if n = 1 then e.rep = none ∧ e.pc = c.pc + 1 else e.rep = some (n - 1) ∧ e.pc = c.pc))

/-! ## Loads and stores -/

/-- The loads of W, address, F and V registers, in every address form: the words they read, how they are split, and
where each word will go. The word forms take an FV profile for F and V registers. LWX reads one word and will set the
reservation; VGATH reads a word for each lane at Aa plus the signed lane of Vi. -/
def Obligations.Loads : Prop :=
  (∀ (s : State) (k : Nat) (d : BitVec 5) (v : BitVec 3) (e : MemEa) (m : Mem2) (a : BitVec 3) (x : Dbl) (u : Option Dbl),
    Ready s k → (s.core k).ea e = some (a, x, u) → (∀ q, e = .two q → q = m) →
    let c := s.core k
    let post := u.map (fun y => (a, y))
    let words (n : Nat) : List Nat := (List.range n).map (fun i => (x + BitVec.ofNat 40 i).toNat)
    LoadsTo s k (eaLen e) [words 1] [c.slotW d] post false false (exec (.lw k d e) s)
    ∧ (d.toNat % 2 = 0 →
        LoadsTo s k (eaLen e) (splitAt 2 (words 2)) [c.slotW d, c.slotW (d + 1)] post false false (exec (.ld k d e) s))
    ∧ (e = .two m →
        (d.toNat % 4 = 0 →
          LoadsTo s k 2 (splitAt 4 (words 4)) [c.slotW d, c.slotW (d + 1), c.slotW (d + 2), c.slotW (d + 3)] post false false
            (exec (.lq k d m) s))
        ∧ LoadsTo s k 2 (splitAt 2 (words 2)) [.alo v.toNat, .ahi v.toNat] post false false (exec (.la k v m) s)
        ∧ (s.profFV c = true →
            LoadsTo s k 2 (splitAt 2 (words 2)) [.flo d.toNat, .fhi d.toNat] post false false (exec (.lf k d m) s)
            ∧ LoadsTo s k 2 [words 1] [.flw d.toNat] post false false (exec (.lfw k d m) s)
            ∧ LoadsTo s k 2 (splitAt 4 (words 8)) (recordSlots v.toNat 1) post false true (exec (.vld k v m) s)
            ∧ (v.toNat ≤ 6 → LoadsTo s k 2 (splitAt 4 (words 16)) (recordSlots v.toNat 2) post false true (exec (.vld2 k v m) s))
            ∧ (v.toNat ≤ 5 → LoadsTo s k 2 (splitAt 4 (words 24)) (recordSlots v.toNat 3) post false true (exec (.vld3 k v m) s))
            ∧ (v.toNat ≤ 4 → LoadsTo s k 2 (splitAt 4 (words 32)) (recordSlots v.toNat 4) post false true (exec (.vld4 k v m) s)))))
  ∧ (∀ (s : State) (k : Nat) (d : BitVec 5) (v a i : BitVec 3), Ready s k →
    let c := s.core k
    LoadsTo s k 2 [[(c.ar a).toNat]] [c.slotW d] none true false (exec (.lwx k d a) s)
    ∧ (s.profFV c = true →
        LoadsTo s k 2 ((List.range 8).map (fun j => [(c.ar a + (c.v20 i.toNat j).signExtend 40).toNat]))
          ((List.range 8).map (laneSlot v.toNat)) none false true (exec (.vgath k v a i) s)))

/-- The stores of W, address, F and V registers: the words that go to the buffer, and how they are split. -/
def Obligations.Stores : Prop :=
  ∀ (s : State) (k : Nat) (d : BitVec 5) (v : BitVec 3) (e : MemEa) (m : Mem2) (a i : BitVec 3) (x : Dbl) (u : Option Dbl),
    Ready s k → (s.core k).ea e = some (a, x, u) → (∀ q, e = .two q → q = m) →
    let c := s.core k
    let post := u.map (fun y => (a, y))
    let words (n : Nat) : List Nat := (List.range n).map (fun j => (x + BitVec.ofNat 40 j).toNat)
    StoresTo s k (eaLen e) [words 1] [c.wr d] post false (exec (.sw k d e) s)
    ∧ (d.toNat % 2 = 0 → StoresTo s k (eaLen e) (splitAt 2 (words 2)) [c.wr d, c.wr (d + 1)] post false (exec (.sd k d e) s))
    ∧ (e = .two m →
        (d.toNat % 4 = 0 →
          StoresTo s k 2 (splitAt 4 (words 4)) [c.wr d, c.wr (d + 1), c.wr (d + 2), c.wr (d + 3)] post false (exec (.sq k d m) s))
        ∧ StoresTo s k 2 (splitAt 2 (words 2)) [loW (c.ar v), hiW (c.ar v)] post false (exec (.sa k v m) s)
        ∧ (s.profFV c = true →
            StoresTo s k 2 (splitAt 2 (words 2)) [loW (c.fr d.toNat), hiW (c.fr d.toNat)] post false (exec (.sf k d m) s)
            ∧ StoresTo s k 2 [words 1] [loW (c.fr d.toNat)] post false (exec (.sfw k d m) s)
            ∧ StoresTo s k 2 (splitAt 4 (words 8)) ((List.range 8).map (c.v20 v.toNat)) post true (exec (.vst k v m) s)))
    ∧ (s.profFV c = true →
        StoresTo s k 2 ((List.range 8).map (fun j => [(c.ar a + (c.v20 i.toNat j).signExtend 40).toNat]))
          ((List.range 8).map (c.v20 v.toNat)) none true (exec (.vscat k v a i) s))

/-- LOAD_DATA_RETURN: the oldest outstanding load, past its delay slot, writes its words to its registers and is
outstanding no more; a load in its delay slot stands. STORE_PERFORMED on a word of a region that is running: the word
reads as stored, every other word reads as before, and the entry has left the buffer; on a register, the register is
written; and a word whose target refuses it is noted for a machine check. -/
def Obligations.AccessesPerformed : Prop :=
  (∀ (s : State) (k : Nat) (l : PendLoad) (ls : List PendLoad), s.clusterOn k = true → (s.core k).loads = l :: ls →
    (l.age = 0 → exec (.loadDataReturn k) s = .next s)
    ∧ (0 < l.age → ∀ s1 ws, s.readLoad k l = .got s1 (.ok ws) →
        exec (.loadDataReturn k) s = .next (s1.setCore k (({ s1.core k with loads := ls } : Core).putSlots l.slots ws)))
    ∧ (0 < l.age → ∀ v key, l.data = some (.ok [v]) → l.slots = [.w key] →
        exec (.loadDataReturn k) s = .next (s.setCore k { s.core k with loads := ls, w := SMap.set 0 (s.core k).w key v })))
  ∧ (∀ (s : State) (k a n off : Nat) (v : Word) (rest : List SbEntry), Canonical s → s.clusterOn k = true →
    (s.core k).sbuf = { addr := a, ws := [v] } :: rest → (s.core k).loads = [] → a < 2 ^ 40 → s.locOf a = .region n off →
    s.busGate (.core k) a = .go s → (s.rgn n).armed = false →
    ∃ t, exec (.storePerformed k) s = .next t ∧ t.peek a (t.locOf a) = .good v 0
      ∧ (∀ b, b ≠ a → t.peek b (t.locOf b) = s.peek b (s.locOf b)) ∧ (t.core k).sbuf = rest)
  ∧ (∀ (s : State) (k a : Nat) (v : Word) (rest : List SbEntry), Canonical s → s.clusterOn k = true →
    (s.core k).sbuf = { addr := a, ws := [v] } :: rest → (s.core k).loads = [] → a < 2 ^ 40 →
    let left := s.setCore k { s.core k with sbuf := rest }
    (∀ off, s.locOf a = .regs off → s.busGate (.core k) a = .go s →
      exec (.storePerformed k) s = .next (left.regWrite (.core k) off v))
    ∧ (∀ x, s.busGate (.core k) a = .refuse x → (s.core k).mchk = none →
      ∃ t, exec (.storePerformed k) s = .next t ∧ t.core k = { s.core k with sbuf := rest, mchk := some (a, .refused) }
        ∧ t.mem = s.mem))

/-- XADD and SWX at their point of order, after the stores before them and the older loads of their target: XADD gives the old word and stores the sum; SWX stores and gives 1 exactly
while the reservation names the word, and clears the reservation in each case. The result is outstanding as a load's
data is. -/
def Obligations.AtomicAccesses : Prop :=
  ∀ (s : State) (k : Nat) (d rs : BitVec 5) (a : BitVec 3) (s0 s1 s2 : State) (o : Word), Ready s k →
    let c := s.core k
    let ad := (c.ar a).toNat
    s.drainStores k = .done s0 → s0.captureLoads k (fun l => l.lwx || s0.sameTarget l.addrs [ad]) = .done s1 →
    s1.readAll (.core k) [ad] = .got s2 (.ok [o]) →
    let result (t : State) (v : Word) : Prop :=
      ∃ p, (t.core k).loads.getLast? = some p ∧ p.data = some (.ok [v]) ∧ p.slots = [c.slotW d] ∧ p.age = 0
    let lost (x : State) : State := x.onCore k (fun c => { c with resv := none })
    (s.checkAll k c [.r, .w] true true [[ad]] = none →
      ∃ t e, exec (.xadd k d rs a) s = .next t ∧ t = (s2.putWord (.core k) ad (o + c.wr rs)).1.setCore k e ∧ result t o)
    ∧ (s.checkAll k c [.w] true true [[ad]] = none → (s2.core k).resv = some ad →
      ∃ t e, exec (.swx k d rs a) s = .next t ∧ t = (lost (s2.putWord (.core k) ad (c.wr rs)).1).setCore k e
        ∧ e.resv = none ∧ result t 1)
    ∧ (s.checkAll k c [.w] true true [[ad]] = none → (s2.core k).resv ≠ some ad →
      ∃ t e, exec (.swx k d rs a) s = .next t ∧ t = (lost s2).setCore k e ∧ e.resv = none ∧ result t 0)

/-! ## Floating point and short vectors -/

/-- The scalar floating-point instructions that write an F register, with WD = 0 for F20 and WD = 1 for F40: the result
of R76 to R80 and the flags, where none of them traps. The floating-point instructions with a W register: comparison,
conversion to and from words and pairs, and the moves of halves of an F register. -/
def Obligations.ScalarFloatingPoint : Prop :=
  (∀ (s : State) (k : Nat) (wd : Bool) (d rs t : BitVec 5), Ready s k → s.profFV (s.core k) = true →
    let c := s.core k
    let f := if wd then f40 else f20
    let g := if wd then f20 else f40
    let src (w : Bool) (n : BitVec 5) : Nat := if w then (c.fr n.toNat).toNat else (c.fr n.toNat).toNat % 2 ^ 20
    let x := src wd rs
    let y := src wd t
    let z := c.fm1.getLsbD 12
    let rm := (c.fm1 &&& 3).toNat
    FloatGives s k (exec (.fadd k wd d rs t) s) d.toNat (f.op2 .add c.fm1 x y)
    ∧ FloatGives s k (exec (.fsub k wd d rs t) s) d.toNat (f.op2 .sub c.fm1 x y)
    ∧ FloatGives s k (exec (.fmul k wd d rs t) s) d.toNat (f.op2 .mul c.fm1 x y)
    ∧ FloatGives s k (exec (.fdiv k wd d rs t) s) d.toNat (f.op2 .div c.fm1 x y)
    ∧ FloatGives s k (exec (.fmin k wd d rs t) s) d.toNat (f.op2 .min c.fm1 x y)
    ∧ FloatGives s k (exec (.fmax k wd d rs t) s) d.toNat (f.op2 .max c.fm1 x y)
    ∧ FloatGives s k (exec (.fsqrt k wd d rs) s) d.toNat (f.sqrtV rm z (f.operand z x))
    ∧ FloatGives s k (exec (.fabs k wd d rs) s) d.toNat (f.signOp false (f.operand z x))
    ∧ FloatGives s k (exec (.fneg k wd d rs) s) d.toNat (f.signOp true (f.operand z x))
    ∧ FloatGives s k (exec (.fcvt k wd d rs) s) d.toNat (f.convert rm z (g.operand z (src (!wd) rs)))
    ∧ FloatGives s k (exec (.fmov k wd d rs) s) d.toNat (x, {}))
  ∧ (∀ (s : State) (k : Nat) (wd tz sgn : Bool) (d wx rs t : BitVec 5) (cond code : BitVec 3) (n fp : Nat), Ready s k →
    s.profFV (s.core k) = true →
    let c := s.core k
    let merged (fl : Flags) (e : Core) : Prop := e.cst = c.cst ∧ e.vmode = mergeV c.vmode fl ∧ e.fmode = mergeF c.fmode fl
    let quiet (fl : Flags) : Prop := trapFlags fl c.vm1 c.fm1 = 0
    let r := Fp.cmp cond.toNat (c.fpIn wd rs) (c.fpIn wd t)
    let q := (c.fpIn wd rs).toFixed (if tz then 1 else rmF c.fm1) sgn n fp
    let w := (if wd then f40 else f20).ofFixed (rmF c.fm1) (ftzF c.fm1)
      (if sgn then (if n = 20 then (c.wr wx).toInt else (c.pair wx).toInt) else if n = 20 then (c.wr wx).toNat else (c.pair wx).toNat) fp
    (cond.toNat < 6 → quiet r.2 →
      Gives s k 2 (exec (.fcmp k wd wx rs t cond) s) (fun e =>
        e.wr wx = (if wx = 0 then 0 else if r.1 then 1 else 0) ∧ merged r.2 e ∧ Frame c e [wx] [] []))
    ∧ (convCode code = some (sgn, n, fp) → quiet q.2 → n = 20 →
      Gives s k 2 (exec (.ftow k wd wx rs code tz) s) (fun e =>
        e.wr wx = (if wx = 0 then 0 else BitVec.ofInt 20 q.1) ∧ merged q.2 e ∧ Frame c e [wx] [] []))
    ∧ (convCode code = some (sgn, n, fp) → quiet q.2 → n = 40 → bit wx 0 = false →
      Gives s k 2 (exec (.ftow k wd wx rs code tz) s) (fun e =>
        e.wr (wx ||| 1) = (BitVec.ofInt 40 q.1).extractLsb' 20 20
          ∧ e.wr wx = (if wx = 0 then 0 else (BitVec.ofInt 40 q.1).extractLsb' 0 20) ∧ merged q.2 e ∧ Frame c e [wx, wx ||| 1] [] []))
    ∧ (convCode code = some (sgn, n, fp) → quiet w.2 → (n = 40 → wd = true ∧ bit wx 0 = false) →
      Gives s k 2 (exec (.ffrw k wd d wx code) s) (WritesF c d.toNat (BitVec.ofNat 40 w.1) w.2))
    ∧ Gives s k 2 (exec (.fmfw k wd wx rs) s)
        (Writes c wx ((c.fr rs.toNat).extractLsb' (if wd then 20 else 0) 20) c.cst false)
    ∧ Gives s k 2 (exec (.fmtw k wd d wx) s) (WritesF c d.toNat
        (if wd then c.wr wx ++ (c.fr d.toNat).extractLsb' 0 20 else (c.fr d.toNat).extractLsb' 20 20 ++ c.wr wx) {}))

/-- The short-vector instructions on fixed-point and integer lanes: every lane of the result from the same lanes of the
operands, read and narrowed as the class EF is. The bitwise operations, the shifts that lose bits and SSEL take EF = 00.
The short-vector instructions on floating-point lanes, F20 with LF = 10 and F40 with LF = 11: the operation of R76 to
R79 in each lane, with the flags of every lane. -/
def Obligations.ShortVectorLanes : Prop :=
  (∀ (s : State) (k : Nat) (f : SvForm) (d m a b : BitVec 3) (p : BitVec 8) (sat : BitVec 2) (z : Bool) (cond : BitVec 3),
    Ready s k → s.profFV (s.core k) = true → f.lf.toNat < 2 → f.ef ≠ 3 → satOf sat (s.core k).vm1 = some z →
    let c := s.core k
    let wd := f.lf == 1
    let n := if wd then 40 else 20
    let read (v : BitVec 3) : List Int :=
      (c.laneBits wd v.toNat).map (fun (q : Nat) => if f.ef = 2 then (q : Int) else (BitVec.ofNat n q).toInt)
    let x := read a
    let y := read b
    let zip (g : Int → Int → Int) : List Int × Flags := (List.zipWith g x y, {})
    let nar (l : List Int) : List Int × Flags :=
      let r := l.map (fun v => if f.ef = 2 then narrowU v 0 0 z n else narrow v 0 0 z n)
      (r.map (fun q => q.1), { ov := r.any (fun q => q.2) })
    let gives (i : Instr) (r : List Int × Flags) : Prop := LanesGive s k (exec i s) wd d.toNat r
    gives (.sadd k f d a b sat) (nar (zip (· + ·)).1)
    ∧ gives (.ssub k f d a b sat) (nar (zip (· - ·)).1)
    ∧ gives (.sabs k f d a sat) (nar (x.map (fun v => (v.natAbs : Int))))
    ∧ gives (.sneg k f d a sat) (nar (x.map (fun v => -v)))
    ∧ gives (.sshls k f d a p sat) (nar (x.map (fun v => v * 2 ^ p.toNat)))
    ∧ gives (.smin k f d a b) (zip Min.min)
    ∧ gives (.smax k f d a b) (zip Max.max)
    ∧ (cond.toNat < 6 → gives (.scmp k f d a b cond) (zip (fun u v => if intCond cond.toNat u v then 1 else 0)))
    ∧ (f.ef = 0 →
        gives (.sand k f d a b) (zip (fun u v => (BitVec.ofInt n u &&& BitVec.ofInt n v).toInt))
        ∧ gives (.sor k f d a b) (zip (fun u v => (BitVec.ofInt n u ||| BitVec.ofInt n v).toInt))
        ∧ gives (.sxor k f d a b) (zip (fun u v => (BitVec.ofInt n u ^^^ BitVec.ofInt n v).toInt))
        ∧ gives (.sshl k f d a p) (x.map (fun v => v * 2 ^ p.toNat), {})
        ∧ gives (.sshr k f d a p) (x.map (fun v => ((BitVec.ofInt n v).toNat / 2 ^ p.toNat : Nat)), {})
        ∧ gives (.ssha k f d a p) (x.map (fun v => v / 2 ^ p.toNat), {})
        ∧ gives (.ssel k f d m a b)
            (List.zipWith (fun q uv => if q ≠ 0 then uv.1 else uv.2) (c.laneBits wd m.toNat) (List.zip x y), {})))
  ∧ (∀ (s : State) (k : Nat) (f : SvForm) (d a b : BitVec 3) (cond : BitVec 3), Ready s k → s.profFV (s.core k) = true →
    2 ≤ f.lf.toNat → f.ef = 0 →
    let c := s.core k
    let wd := f.lf == 3
    let fm := if wd then f40 else f20
    let z := c.fm1.getLsbD 12
    let flags (l : List Flags) : Flags := l.foldl Flags.or {}
    let two (o : FOp) : List Int × Flags :=
      let r := List.zipWith (fun u v => fm.op2 o c.fm1 u v) (c.laneBits wd a.toNat) (c.laneBits wd b.toNat)
      (r.map (fun q => (q.1 : Int)), flags (r.map (fun q => q.2)))
    let sgn (neg : Bool) : List Int × Flags :=
      let r := (c.laneBits wd a.toNat).map (fun u => fm.signOp neg (fm.operand z u))
      (r.map (fun q => (q.1 : Int)), flags (r.map (fun q => q.2)))
    let cmp : List Int × Flags :=
      let r := List.zipWith (fun u v => Fp.cmp cond.toNat (fm.operand z u) (fm.operand z v)) (c.laneBits wd a.toNat) (c.laneBits wd b.toNat)
      (r.map (fun q => if q.1 then 1 else 0), flags (r.map (fun q => q.2)))
    let gives (i : Instr) (r : List Int × Flags) : Prop := LanesGive s k (exec i s) wd d.toNat r
    gives (.sfadd k f d a b) (two .add)
    ∧ gives (.sfsub k f d a b) (two .sub)
    ∧ gives (.sfmul k f d a b) (two .mul)
    ∧ gives (.smin k f d a b) (two .min)
    ∧ gives (.smax k f d a b) (two .max)
    ∧ gives (.sabs k f d a 0) (sgn false)
    ∧ gives (.sneg k f d a 0) (sgn true)
    ∧ (cond.toNat < 6 → gives (.scmp k f d a b cond) cmp))

/-- Products, sums of products, narrowings, conversions, splats and moves of lanes. SMULW.L and .H take lanes 0 to 3 or
4 to 7; SSRS of 40-bit lanes, SSRSP and SCVT to F20 of F40 lanes write the half of Vd that HI names; SDOT and SDOTA
write the 48-bit quads of an even pair, bits 79 to 48 repeating bit 47. -/
def Obligations.ShortVectorProductsAndMoves : Prop :=
  ∀ (s : State) (k : Nat) (f : SvForm) (d a b j : BitVec 3) (rs : BitVec 5) (p : BitVec 6) (code : BitVec 3) (tz hi : Bool)
    (o : Opt) (z : Bool),
    Ready s k → s.profFV (s.core k) = true → satOf o.sat (s.core k).vm1 = some z →
    let c := s.core k
    let rm := rmOf o.rdef o.rm c.vm1
    let read (v : BitVec 3) : List Int :=
      (List.range 8).map (fun i => if f.ef = 2 then ((c.v20 v.toNat i).toNat : Int) else (c.v20 v.toNat i).toInt)
    let word (v : BitVec 3) : List Int := (List.range 8).map (fun i => (c.v20 v.toNat i).toInt)
    let prod := List.zipWith (fun u v => u * v) (read a) (read b)
    let sums : List Int := [prod.getD 0 0 + prod.getD 1 0, prod.getD 2 0 + prod.getD 3 0, prod.getD 4 0 + prod.getD 5 0,
      prod.getD 6 0 + prod.getD 7 0]
    let nar (l : List Int) (sh : Nat) : List Int × Flags :=
      let r := l.map (fun v => if f.ef = 2 then narrowU v sh rm z 20 else narrow v sh rm z 20)
      (r.map (fun q => q.1), { ov := r.any (fun q => q.2) })
    let intoHalf (r : List Int × Flags) : List Int × Flags :=
      (if hi then (word d).take 4 ++ r.1 else r.1 ++ (word d).drop 4, r.2)
    let quads (l : List Int) (fl : Flags) (e : Core) : Prop :=
      (∀ i, i < 4 → e.fr (4 * d.toNat + 2 * i) = BitVec.ofInt 40 (l.getD i 0)
        ∧ e.fr (4 * d.toNat + 2 * i + 1) = BitVec.ofInt 40 (l.getD i 0 / 2 ^ 40))
        ∧ e.cst = c.cst ∧ e.vmode = mergeV c.vmode fl ∧ e.fmode = mergeF c.fmode fl
        ∧ Frame c e [] [] ((List.range 8).map (fun i => 4 * d.toNat + i))
    let acc := List.zipWith (fun u v => narrow (u + v) 0 0 z 48) (c.quads d.toNat) sums
    (f.lf = 0 → f.ef ≠ 3 →
      LanesGive s k (exec (.smulq k f d a b o) s) false d.toNat (nar prod (if f.ef = 0 then 19 else 0))
      ∧ LanesGive s k (exec (.smulwL k f d a b) s) true d.toNat (prod.take 4, {})
      ∧ LanesGive s k (exec (.smulwH k f d a b) s) true d.toNat (prod.drop 4, {})
      ∧ (p.toNat ≤ 47 → LanesGive s k (exec (.ssrs k f d a p false o) s) false d.toNat (nar (read a) p.toNat))
      ∧ (bit d 0 = false → Gives s k 2 (exec (.sdot k f d a b) s) (quads sums {}))
      ∧ (bit d 0 = false →
          Gives s k 2 (exec (.sdota k f d a b o.sat) s) (quads (acc.map (fun q => q.1)) { ov := acc.any (fun q => q.2) }))
      ∧ (code ≠ 6 → (tz = true → code = 1 ∨ code = 3) → (hi = true → code = 2 ∨ code = 5 ∨ code = 7) → (f.ef ≠ 0 → code ≠ 5) →
          LanesGive s k (exec (.scvt k f d a code tz hi) s) (decide (2 ≤ code.toNat)) d.toNat (c.convertLanes code.toNat f.ef a.toNat tz hi))
      ∧ (f.ef = 0 → LanesGive s k (exec (.scvt k f d a 6 false hi) s) false d.toNat (intoHalf (c.convertLanes 6 0 a.toNat false hi)))
      ∧ (f.ef = 0 → LanesGive s k (exec (.sspl k f d rs) s) false d.toNat (List.replicate 8 (c.wr rs).toInt, {})))
    ∧ (f.lf = 1 → f.ef = 0 → bit rs 0 = false →
        LanesGive s k (exec (.sspl k f d rs) s) true d.toNat (List.replicate 4 (c.pair rs).toInt, {}))
    ∧ (f.lf = 1 → f.ef ≠ 3 → p.toNat ≤ 47 →
        LanesGive s k (exec (.ssrs k f d a p hi o) s) false d.toNat (intoHalf (nar (c.laneInts f a.toNat) p.toNat)))
    ∧ (f.lf = 0 → f.ef ≠ 3 → bit a 0 = false → p.toNat ≤ 47 →
        LanesGive s k (exec (.ssrsp k d a p { f := f, hi := hi } o) s) false d.toNat (intoHalf (nar (c.quads a.toNat) p.toNat)))
    ∧ LanesGive s k (exec (.smov k d a) s) false d.toNat (word a, {})
    ∧ LanesGive s k (exec (.smtl k d j rs) s) false d.toNat ((word d).set j.toNat (c.wr rs).toInt, {})
    ∧ Gives s k 2 (exec (.smfl k rs a j) s) (Writes c rs (c.v20 a.toNat j.toNat) c.cst false)

/-! ## System instructions -/

/-- NOP, SYNC and ISYNC: SYNC and ISYNC complete with the store buffer empty, and ISYNC leaves no line in the fetch
buffer. VBAR completes with no group in flight and no fault to deliver, and waits while one is; VBAR_COMPLETION ends the
wait. -/
def Obligations.Barriers : Prop :=
  (∀ (s s1 : State) (k : Nat), Ready s k →
    Gives s k 1 (exec (.nop k) s) (Nothing (s.core k))
    ∧ (s.drainStores k = .done s1 → (s1.core k).rep = none →
        (∃ e, exec (.sync k) s = .next (s1.setCore k e) ∧ e.pc = (s1.core k).pc + 1 ∧ e.sbuf = [] ∧ Nothing (s1.core k) e)
        ∧ ∃ e, exec (.isync k) s = .next (s1.setCore k e) ∧ e.pc = (s1.core k).pc + 1 ∧ e.sbuf = [] ∧ e.fbuf = []
          ∧ Nothing (s1.core k) e))
  ∧ (∀ (s : State) (k : Nat),
    let c := s.core k
    (Ready s k → c.victim = false → c.groups = [] → c.vfc.getLsbD 18 = false → Gives s k 1 (exec (.vbar k) s) (Nothing c))
    ∧ (Ready s k → c.victim = false → c.groups ≠ [] → exec (.vbar k) s = .next (s.setCore k { c with vbar := true }))
    ∧ (s.atWork k = true → c.vbar = true → c.rep = none → c.groups = [] → c.vfc.getLsbD 18 = false →
        Gives s k 1 (exec (.vbarCompletion k) s) (fun e => Nothing c e ∧ e.vbar = false)))

/-- MFC gives the value of a control register that is not reserved, at U one of 0 to 15 without CAUSE. MTC sets the
registers that hold a plain value, and changes no other register; of a value with a reserved bit set, such a register takes
a value of its legal bits that the model leaves open (log 16). Writes of control registers that act: VPROG and VFC on stopped groups, the watchdog's registers, IPEND and IMASK. -/
def Obligations.ControlRegisters : Prop :=
  (∀ (s : State) (k : Nat) (d n rs : BitVec 5), Ready s k → (s.core k).victim = false →
    ((s.core k).cst.pl = .u → n ≠ 1 ∧ n.toNat < 16) →
    let c := s.core k
    (∀ v, (n.toNat, v) ∈ ctlTable c → Gives s k 1 (exec (.mfc k d n) s) (Writes c d v c.cst false))
    ∧ (∀ legal kept, (n.toNat, legal, kept) ∈ ctlPlain → c.wr rs &&& ~~~ legal = 0 →
        Gives s k 1 (exec (.mtc k n rs) s) (fun e => e.ctl n.toNat = some (c.wr rs &&& kept) ∧ e.cst = c.cst ∧ CtlFrame c e n.toNat))
    ∧ (∀ legal kept, (n.toNat, legal, kept) ∈ ctlPlain → c.wr rs &&& ~~~ legal ≠ 0 →
        ∃ e y, exec (.mtc k n rs) s = .next (({ s with draws := s.draws + 1 } : State).setCore k e) ∧ e.pc = c.pc + 1
          ∧ e.ctl n.toNat = some (y &&& legal &&& kept) ∧ e.cst = c.cst ∧ CtlFrame c e n.toNat)
    ∧ (n = 0 → c.wr rs &&& ~~~ 0x00F87 = 0 →
        Gives s k 1 (exec (.mtc k n rs) s) (fun e =>
          e.cst.pl = c.cst.pl ∧ e.cst.ie = (if c.cst.pl = .u then c.cst.ie else (c.wr rs).getLsbD 9)
          ∧ e.cst.rpt = (c.wr rs).getLsbD 8 ∧ e.cst.n = (c.wr rs).getLsbD 2 ∧ e.cst.z = (c.wr rs).getLsbD 1
          ∧ e.cst.c = (c.wr rs).getLsbD 0 ∧ CtlFrame c e 0))
    ∧ (n = 22 → c.wr rs &&& ~~~ 0x003FF = 0 →
        Gives s k 1 (exec (.mtc k n rs) s) (fun e => e.gtn.toNat = min 512 (c.wr rs).toNat ∧ e.cst = c.cst ∧ CtlFrame c e 22)))
  ∧ (∀ (s : State) (k : Nat) (rs : BitVec 5), Ready s k → (s.core k).victim = false →
    let c := s.core k
    let v := c.wr rs
    let m := c.cst.pl = .m
    let period := max 1 (c.wctl.toNat % 2 ^ 16)
    (∀ i, i = .vprogWrite k rs ∨ i = .mtc k 2 rs →
      (c.stopped = [] ∨ c.vfc.getLsbD 18 = true →
        Gives s k 1 (exec i s) (fun e => e.vprog = c.vprog ∧ e.stopped = c.stopped ∧ e.cst = c.cst ∧ CtlFrame c e 2))
      ∧ ∀ g l, c.stopped = g :: l → c.vfc.getLsbD 18 = false →
          Gives s k 1 (exec i s) (fun e =>
            e.vprog = (if c.groups = [] then BitVec.ofNat 20 (Min.min v.toNat g.len / g.unit * g.unit) else c.vprog)
            ∧ (∃ h, e.stopped = h :: l ∧ h.vprog = Min.min v.toNat g.len / g.unit * g.unit ∧ h.chain = g.chain ∧ h.descs = g.descs)
            ∧ e.cst = c.cst ∧ CtlFrame c e 2))
    ∧ (v &&& 0x00018 = 0 → ∀ i, i = .vfcDiscard k rs ∨ i = .mtc k 10 rs →
        Gives s k 1 (exec i s) (fun e =>
          (if v.getLsbD 19 then e.stopped = [] ∧ e.vfc = 0 ∧ e.vfe = 0 ∧ e.vfa = 0
           else e.stopped = c.stopped ∧ e.vfc = c.vfc ∧ e.vfe = c.vfe ∧ e.vfa = c.vfa)
          ∧ e.ac = c.ac ∧ e.vprog = c.vprog ∧ e.w = c.w))
    ∧ (c.cst.pl ≠ .u →
        (∀ i, i = .wdogCntWrite k rs ∨ i = .mtc k 25 rs →
          Gives s k 1 (exec i s) (fun e => e.wcnt.toNat = 16 * period ∧ e.cst = c.cst ∧ CtlFrame c e 25))
        ∧ (v &&& 0x30000 = 0 → Gives s k 1 (exec (.mtc k 24 rs) s) (fun e =>
            if ¬ m ∧ c.wctl.getLsbD 18 = true then e.wctl = c.wctl ∧ e.wcnt = c.wcnt
            else e.wctl = (if m then v else v &&& 0xBFFFF)
              ∧ (if v.getLsbD 19 then e.wcnt.toNat = 16 * max 1 (v.toNat % 2 ^ 16) else e.wcnt = c.wcnt)))
        ∧ (v &&& 0xFFEFC = 0 → Gives s k 1 (exec (.mtc k 26 rs) s) (fun e =>
            e.ipend = c.ipend &&& ~~~ (if m then v else v &&& 3) ∧ e.cst = c.cst ∧ CtlFrame c e 26))
        ∧ (v &&& 0xFFEFC = 0 → Gives s k 1 (exec (.mtc k 27 rs) s) (fun e =>
            e.imask = (if m then v else (v &&& 3) ||| (c.imask &&& 0x100)) ∧ e.cst = c.cst ∧ CtlFrame c e 27))))

/-- What takes an exception: BKPT, a word that is no instruction, a fetch that fails, as the first word of a vector entry
too, an interrupt, and the machine check of a refused store, each with its code, subcause, level, return point and frame. An M interrupt comes before one
of S; of two sources of S, either may be taken. An exception whose push fails: at S the frame goes to scratch words
0x3F8 to 0x3FF and the core enters M at CL_MEVB + 224 with no W30 changed; at M, or while SFH is 1, the core halts and
the keeper core is interrupted. -/
def Obligations.ExceptionEntry : Prop :=
  (∀ (s : State) (k : Nat) (code : BitVec 10),
    let c := s.core k
    let exc (n sub : Nat) (l : Priv) (ret info : Dbl) (w6 : Word) : Exc := { code := n, sub := sub, lvl := l, ret := ret, info := info, w6 := w6 }
    let home := homeLevel c
    let mOn := c.ipend.getLsbD 8 && c.imask.getLsbD 8 && (c.cst.pl != .m || c.cst.ie)
    let sOn (i : Nat) : Bool := c.ipend.getLsbD i && c.imask.getLsbD i && (c.cst.pl == .u || (c.cst.pl == .s && c.cst.ie))
    (Ready s k → Takes s k (exc 8 0 home (c.pc + 1) 0 0) (exec (.bkpt k code) s))
    ∧ (Ready s k → s.decoded k c = some none → Takes s k (exc 1 0 home c.pc 0 0) (exec (.illegalInstruction k) s))
    ∧ (s.atWork k = true → c.free = true → c.inVec = false →
        (s.isRegion c.pc.toNat = false → Takes s k (exc 5 1 home c.pc c.pc 0) (exec (.fetchFault k) s))
        ∧ (s.isRegion c.pc.toNat = true → c.cst.pl ≠ .m → s.permits c.ctx .x c.pc.toNat = false →
            Takes s k (exc 5 3 home c.pc c.pc 0) (exec (.fetchFault k) s))
        ∧ (s.isRegion c.pc.toNat = true → c.cst.pl = .m ∨ s.permits c.ctx .x c.pc.toNat = true → ∀ x,
            c.fetched c.pc = some (.bad x) →
            Takes s k (exc 13 (if x = .uncorr then 1 else if x = .poison then 2 else 3) .m c.pc c.pc 0) (exec (.fetchFault k) s)))
    ∧ (s.atWork k = true → c.free = true → c.inVec = true → s.isRegion c.pc.toNat = false →
        (c.cst.pl ≠ .m → Takes s k (exc 13 6 .m c.pc c.pc 0) (exec (.fetchFault k) s))
        ∧ (c.cst.pl = .m → ∃ t, exec (.fetchFault k) s = .next t ∧ (t.core k).rc = .haltedErr ∧ (t.core k).halt = 1))
    ∧ (s.atWork k = true → c.div = none → c.mchk = none →
        (mOn = true → Takes s k (exc 12 8 .m c.pc 0 0) (exec (.interruptTaken k) s))
        ∧ (mOn = false → sOn 0 = true ∨ sOn 1 = true →
            ∃ i x, i < 2 ∧ sOn i = true ∧ (x = s ∨ x = { s with draws := s.draws + 1 })
              ∧ Takes x k (exc 12 i .s c.pc 0 0) (exec (.interruptTaken k) s)))
    ∧ (s.atWork k = true → c.div = none → ∀ a e s1 s2, c.mchk = some (a, e) → s.drainLoads k = .done s1 none →
        s1.room k 3 = .done s2 → PushOk s2 k .m →
        Enters (s2.onCore k (fun d => { d with mchk := none })) k (exc 13 4 .m c.pc (BitVec.ofNat 40 a) 0xC0000)
          (exec (.pendingMchkTaken k) s)))
  ∧ (∀ (s s1 : State) (k : Nat), Ready s k → s.drainLoads k = .done s1 none → (s1.core k).rep = none →
    s1.core k = s.core k → ¬ PushOk s1 k (homeLevel (s.core k)) → s.decoded k (s.core k) = some none →
    let c := s.core k
    let f := frameAt c .s
    (homeLevel c = .s → c.sfh = false →
      ∃ e, exec (.illegalInstruction k) s = .next (s1.setCore k e)
        ∧ (List.range 8).map (fun i => SMap.get 0 e.scratch (0xF8 + i))
            = [c.cst.word c.resv.isSome, 0x10E, c.pc.extractLsb' 0 20, c.pc.extractLsb' 20 20, f.extractLsb' 0 20,
               f.extractLsb' 20 20, 1, c.w30 .s]
        ∧ (∀ i, i < 0xF8 → SMap.get 0 e.scratch i = SMap.get 0 c.scratch i)
        ∧ e.causeM = 0x10E ∧ e.causeS = c.causeS ∧ e.sfh = true ∧ e.cst = { c.cst with pl := .m, ie := false }
        ∧ e.pc = c.mevb + 224 ∧ e.w = c.w ∧ e.resv = none ∧ e.sbuf = c.sbuf)
    ∧ (homeLevel c = .m ∨ c.sfh = true →
        ∃ t, exec (.illegalInstruction k) s = .next t ∧ (t.core k).rc = .haltedErr ∧ (t.core k).halt = 1
          ∧ (t.core k).w = c.w ∧ (t.core k).cst = c.cst ∧ t.outs.keeper = s1.outs.keeper ++ [.coreHalt k]))

/-- GATE whose entry, in its table or still in the store buffer, is valid, callable and finds its argument words in one
window: the frame is pushed
at the table's level, and the core continues at TGT with IE, N, Z and C unchanged. -/
def Obligations.GateCall : Prop :=
  ∀ (s s1 s2 s3 s4 : State) (k : Nat) (g : BitVec 10) (w0 w1 w2 w3 : Word) (fwd : Option (List Word)), Ready s k → s.drainLoads k = .done s1 none →
    let c := s.core k
    let t : Priv := if g.toNat < 512 then .s else .m
    let i := g.toNat % 512
    let l := addrsFrom ((if t = .s then c.gtb else c.mgtb) + BitVec.ofNat 40 (4 * i)) 4
    let base := (c.ar 0).toNat
    i < (if t = .s then c.gtn else c.mgtn).toNat →
    s1.checkAccess k (s1.core k) [] false false l = none → s1.beforeLoad k l false = (.done s2, fwd) →
    (match fwd with
      | some ws => s3 = s2 ∧ ws = [w0, w1, w2, w3]
      | none => s2.readMixed (.core k) l = .got s3 (.ok [w0, w1, w2, w3])) →
    w2.getLsbD 19 = true → w2.toNat % 2 ^ 16 = 0 → w3 = 0 →
    (c.cst.pl = .u → w2.getLsbD 18 = true) → (c.cst.pl = .m → t = .m) →
    (w2.extractLsb' 16 2 = 0#2 ∨ c.cst.pl = .m ∨ c.wr 1 = 0
      ∨ ∃ w, w < 4 ∧ (w2.getLsbD 16 = true → s3.windowGrants c.ctx w .r base (base + (c.wr 1).toNat - 1) = true)
          ∧ (w2.getLsbD 17 = true → s3.windowGrants c.ctx w .w base (base + (c.wr 1).toNat - 1) = true)) →
    PushOk s3 k t →
    let x : Exc := { code := 9, lvl := t, ret := (s3.core k).pc + 1, info := BitVec.ofNat 40 g.toNat }
    let es := carry (splitAt 4 (addrsFrom (frameAt (s3.core k) t) 8)) (frameWords x (s3.core k).cstWord)
    s3.room k es.length = .done s4 →
    let d := s4.core k
    ∃ e, exec (.gate k g) s = .next (s4.setCore k e) ∧ e.sbuf = d.sbuf ++ es
      ∧ SMap.get 0 e.w (wKey t 30) = SMap.get 0 d.w (wKey t 30) - 8
      ∧ (∀ key, key ≠ wKey t 30 → SMap.get 0 e.w key = SMap.get 0 d.w key)
      ∧ (if t = .m then e.causeM = 9 ∧ e.causeS = d.causeS else e.causeS = 9 ∧ e.causeM = d.causeM)
      ∧ e.cst = { d.cst with pl := t, rpt := false } ∧ e.resv = none ∧ e.pc = w1 ++ w0

/-- RFE and RFG whose frame is read and not refused, on a core that CL_MFLT has not armed: W30 of the level is popped,
and SFH cleared where RFE reads the scratch area; CST is restored, with RFG keeping N, Z and C; stopped groups are issued
again; and the core continues at the return point, repeating its instruction where RPT was set and discarding it at a count
of 0. An armed return makes the context leave, and at U a return takes PRIV. -/
def Obligations.Returns : Prop :=
  (∀ (s s1 s2 s3 : State) (k : Nat) (rfg : Bool) (f : Dbl) (ws : List Word), Ready s k → s.drainLoads k = .done s1 none →
    s1.drainStores k = .done s2 → (s.core k).cst.pl ≠ .u → (s3.core k).cst.pl ≠ .u →
    let i : Instr := if rfg then .rfg k else .rfe k
    let c := s3.core k
    let pl := c.cst.pl
    let w0 := ws.getD 0 0
    let fpl := w0.extractLsb' 10 2
    let scratch := pl = .m ∧ c.sfh = true ∧ rfg = false
    let level : Priv := if fpl = 0 then .u else if fpl = 1 then .s else .m
    let popped (e : Core) : Prop := e.resv = none ∧ (if scratch then e.sfh = false else e.sfh = c.sfh)
      ∧ SMap.get 0 e.w (wKey pl 30) = SMap.get 0 c.w (wKey pl 30) + 8
      ∧ ∀ key, key ≠ wKey pl 30 → SMap.get 0 e.w key = SMap.get 0 c.w key
    let ret : Dbl := ws.getD 3 0 ++ ws.getD 2 0
    let cst : Cst :=
      if rfg then { c.cst with pl := level, ie := w0.getLsbD 9, rpt := false }
      else { pl := level, ie := w0.getLsbD 9, rpt := false, n := w0.getLsbD 2, z := w0.getLsbD 1, c := w0.getLsbD 0 }
    s2.readFrame k rfg = .got s3 f ws → fpl ≠ 2 → (pl = .s → fpl ≠ 3) → w0 &&& 0xFF078 = 0 →
    (rfg = true → (ws.getD 1 0).toNat % 32 = 9) →
    (c.mflt = false → ∀ s4, (c.victim = false ∧ c.stopped = [] ∧ s4 = s3)
        ∨ (s3.reissue k { c with cst := { cst with rpt := w0.getLsbD 8 } } = .done s4
            ∧ (s4.core k).w = c.w ∧ (s4.core k).sfh = c.sfh ∧ (s4.core k).cst = c.cst ∧ (s4.core k).cnt = c.cnt) →
      ∃ e, exec i s = .next (s4.setCore k e) ∧ popped e ∧ e.cst = cst
        ∧ (if w0.getLsbD 8 = false then e.rep = none ∧ e.pc = ret
           else if c.cnt ≠ 0 then e.rep = some c.cnt.toNat ∧ e.pc = ret
           else (e.rep = some 0 ∧ e.pc = ret) ∨ (e.rep = none ∧ ∃ w, e.pc = ret + BitVec.ofNat 40 (wordLen w))))
    ∧ (c.mflt = true →
        ∃ e, exec i s = .next (s3.setCore k e) ∧ popped e ∧ e.mflt = false ∧ e.pc = ws.getD 3 0 ++ ws.getD 2 0
          ∧ e.cst.pl = level ∧ e.phase = .leaving ∧ e.preempt = some .machine))
  ∧ ∀ (s : State) (k : Nat), Ready s k → (s.core k).cst.pl = .u →
    Takes s k { code := 2, lvl := .s, ret := (s.core k).pc } (exec (.rfe k) s)
    ∧ Takes s k { code := 2, lvl := .s, ret := (s.core k).pc } (exec (.rfg k) s)

/-- WAIT: with a cause that the new mask or SUPER holds it clears that cause and returns it; else the context becomes
WAITING and leaves its cluster. Both write the mask and the deadline. SIGNAL: once the store buffer is empty, SIGNAL is
set in the target's causes, and a target that waits for it becomes READY. A FREE target is not changed; from U the
target's GROUP is the context's own, else the privilege fault is taken. -/
def Obligations.WaitsAndSignals : Prop :=
  (∀ (s s1 s2 : State) (k : Nat) (d rs t : BitVec 5), Ready s k → s.drainLoads k = .done s1 none →
    let x := (s.core k).ctx
    let ws := (s.core k).wr rs
    let mask := ws.toNat % 64
    let dm := ws.toNat / 64 % 4
    s1.cbReads (1, k) x [0, 1, 9, 10, 11] = (s2, true) → (s.core k).cst.pl ≠ .m → dm ≠ 3 → (s2.core k).rep = none →
    let now := s2.pip.now
    let wt := ((s.core k).wr t).zeroExtend 60
    let dl : BitVec 60 := if dm = 1 then now + wt else if dm = 2 then s2.deadline x + wt else s2.deadline x
    let cause := (s2.cb x 1).toNat / 2 ^ 10 % 64 ||| (if mask / 2 % 2 = 1 ∧ dl.toNat ≤ now.toNat then 2 else 0)
    let m := cause &&& (mask ||| 32)
    ∃ u, exec (.wait k d rs t) s = .next u ∧ (u.core k).pc = (s2.core k).pc + 1 ∧ u.deadline x = dl
      ∧ u.cb x 1 = BitVec.ofNat 20 ((cause - m) * 1024 + mask)
      ∧ (if m ≠ 0 then (u.core k).wr d = (if d = 0 then 0 else BitVec.ofNat 20 m) ∧ u.ctxState x = s2.ctxState x
          ∧ (u.core k).phase = (s2.core k).phase
         else u.ctxState x = 2 ∧ (u.core k).phase = .leaving ∧ (u.core k).preempt = some .waiting))
  ∧ (∀ (s s1 : State) (k : Nat) (c : BitVec 5), Ready s k →
    let x := ((s.core k).wr c).toNat
    let group (y : Nat) : Nat := (s.ctl y).toNat % 256
    let mine := (s.core k).cst.pl ≠ .u ∨ s.ctxState x = 0 ∨ group x = group (s.core k).ctx
    (mine → s.drainStores k = .done s1 → (s1.core k).rep = none →
      ∀ v, s1.peek (cbAddr x 0) (.ctx (32 * x)) = .good v 0 →
      (s1.ctxState x = 0 → ∃ e, exec (.signal k c) s = .next (s1.setCore k e) ∧ e.pc = (s1.core k).pc + 1 ∧ Nothing (s1.core k) e)
      ∧ ∀ w, s1.ctxState x ≠ 0 → s1.peek (cbAddr x 1) (.ctx (32 * x + 1)) = .good w 0 →
          ∃ u, exec (.signal k c) s = .next u ∧ (u.core k).pc = (s1.core k).pc + 1 ∧ u.cb x 1 = w ||| 0x4000
            ∧ u.ctxState x = (if s1.ctxState x = 2 ∧ w.getLsbD 4 = true then 3 else s1.ctxState x))
    ∧ (¬ mine → Takes s k { code := 2, lvl := .s, ret := (s.core k).pc } (exec (.signal k c) s)))

/-! ## Chain groups -/

/-- CHAIN: the group that it issues has the body that follows it, the descriptors that the body names and the count of
R116. One whose checks pass is in flight, unless its count is 0; one whose checks fail, the window check of VDOTS among
them, is stopped, and VFC holds its cause with PEND; the core goes on behind the body, with the modes in force at once. -/
def Obligations.ChainIssue : Prop :=
  ∀ (s s1 s2 s3 : State) (k : Nat) (n : BitVec 3) (wc : BitVec 5) (ws : List Word), Ready s k →
    let c := s.core k
    let m := n.toNat
    c.victim = false → s.profT c = true → c.vfc.getLsbD 18 = false → c.stopped = [] → c.groups.length < 2 → n ≠ 0 →
    s.drainStores k = .done s1 → s1.fetchWords k (s1.core k) (c.pc + 1) 0 (2 * m) = .ok s2 ws → s2.drainLoads k = .done s3 none →
    let e := s3.core k
    let body := pairsOf ws
    let ds : Descs := fun t => descOf (e.descWords t)
    let len := elementCount ds (bodyOf body) wc (c.wr wc)
    e.rep = none → e.groups.length < 2 → e.stopped = [] →
    ∃ t, exec (.chain k n 0 wc) s = .next t ∧
      let d := t.core k
      d.pc = e.pc + BitVec.ofNat 40 (1 + 2 * m) ∧ d.vm1 = e.vmode ∧ d.vm2 = e.vmode ∧ d.fm1 = e.fmode ∧ d.fm2 = e.fmode
      ∧ d.w = e.w ∧ d.a = e.a ∧ d.f = e.f ∧ d.t = e.t ∧ d.ac = e.ac
      ∧ ∃ g : Group, g.chain = c.pc ∧ g.body = body ∧ g.len = len ∧ g.vprog = 0 ∧ g.atM = (c.cst.pl == .m)
          ∧ g.descs = (bodyNames ds (bodyOf body)).map (fun i => (i, e.descWords i))
          ∧ (match planOf g.ds body len with
            | .error r => d.groups = e.groups ∧ d.stopped = [g] ∧ d.vfe = 0
                ∧ d.vfc = BitVec.ofNat 20 (r.instr * 2 ^ 9 + r.stream * 32 + r.cause) ||| 0x40000
            | .ok p =>
              if p.dots.isSome = true ∧ t.dotsWindow k g = false then
                d.groups = e.groups ∧ d.stopped = [g] ∧ d.vfe = 0 ∧ d.vfa = BitVec.ofNat 40 (coefBase k)
                  ∧ d.vfc = BitVec.ofNat 20 (dotsPos p * 2 ^ 9 + 4) ||| 0x40000
              else d.stopped = [] ∧ d.groups = (if len = 0 then e.groups else e.groups ++ [g]) ∧ g.running = e.groups.isEmpty)

/-- The moves of descriptor words and of accumulator words: MTT and MFT, which do not wait for groups; MTAC and MFAC,
with no group in flight and no fault to deliver, on the three words of a 48-bit lane. The other part p = 11 is illegal.
-/
def Obligations.VectorStateMoves : Prop :=
  ∀ (s : State) (k : Nat) (d rs : BitVec 5) (t : BitVec 4) (w l : BitVec 3) (m p : BitVec 2), Ready s k →
    s.profT (s.core k) = true →
    let c := s.core k
    let v := SMap.get 0 c.t (8 * t.toNat + w.toNat)
    let key := 8 * m.toNat + l.toNat
    let lane := SMap.get 0 c.ac key
    let x := c.wr rs
    let others (e : Core) : Prop := e.w = c.w ∧ e.a = c.a ∧ e.f = c.f ∧ e.cst = c.cst ∧ e.vmode = c.vmode ∧ e.groups = c.groups
    Gives s k 1 (exec (.mtt k t w rs) s) (fun e =>
      SMap.get 0 e.t (8 * t.toNat + w.toNat) = x ∧ e.ac = c.ac ∧ others e
        ∧ ∀ i, i ≠ 8 * t.toNat + w.toNat → SMap.get 0 e.t i = SMap.get 0 c.t i)
    ∧ (w.toNat < 4 ∨ w = 5 ∨ w = 6 → Gives s k 1 (exec (.mft k d t w) s) (Writes c d v c.cst false))
    ∧ Gives s k 1 (exec (.mft k d t 4) s) (Writes c d (SMap.get 0 c.t (8 * t.toNat + 4) &&& 0x3FFFF) c.cst false)
    ∧ Gives s k 1 (exec (.mft k d t 7) s) (Writes c d 0 c.cst false)
    ∧ (c.victim = false → c.groups = [] → c.vfc.getLsbD 18 = false → p ≠ 3 →
        Gives s k 1 (exec (.mtac k m l p rs) s) (fun e =>
          SMap.get 0 e.ac key
            = (if p = 0 then lane.extractLsb' 20 28 ++ x
               else if p = 1 then lane.extractLsb' 40 8 ++ x ++ lane.extractLsb' 0 20
               else x.extractLsb' 0 8 ++ lane.extractLsb' 0 40)
          ∧ e.t = c.t ∧ others e ∧ ∀ i, i ≠ key → SMap.get 0 e.ac i = SMap.get 0 c.ac i)
        ∧ Gives s k 1 (exec (.mfac k d m l p) s) (Writes c d
            (if p = 0 then lane.extractLsb' 0 20 else if p = 1 then lane.extractLsb' 20 20 else (lane.extractLsb' 40 8).signExtend 20)
            c.cst false))
    ∧ Takes s k { code := 1, lvl := homeLevel c, ret := c.pc } (exec (.mtac k m l 3 rs) s)
    ∧ Takes s k { code := 1, lvl := homeLevel c, ret := c.pc } (exec (.mfac k d m l 3) s)

/-- The steps of groups: the queued group starts beside or after the older one, with the accumulators as they stand; a
step moves a group's position on by at most eight elements, commits nothing and, while the group's result is
predictable, writes nothing. -/
def Obligations.GroupSteps : Prop :=
  ∀ (s : State) (k : Nat) (g o y : Group) (l : List Group), Canonical s → s.clusterOn k = true →
    let c := s.core k
    (c.groups = [g] → g.running = false →
      exec (.queuedGroupStart k) s = .next (s.setCore k { c with groups := [{ g with running := true, acs := c.ac }] }))
    ∧ (c.groups = [o, y] → y.running = false → c.victim = false → mayStart o y = true →
        exec (.queuedGroupStart k) s = .next (s.setCore k { c with groups := [o, { y with running := true, acs := c.ac }] }))
    ∧ (c.groups = g :: l → g.canStep = true →
        ∃ t h m, exec (.groupStep k) s = .next t ∧ (t.core k).groups = h :: m ∧ h.vprog = g.vprog ∧ h.len = g.len
          ∧ h.chain = g.chain ∧ h.descs = g.descs ∧ g.pos ≤ h.pos ∧ h.pos ≤ g.pos + 8 ∧ (∃ q, h.outq = g.outq ++ q)
          ∧ (t.core k).ac = c.ac ∧ (t.core k).vprog = c.vprog ∧ (t.core k).w = c.w
          ∧ (h.unpred = g.unpred → m = l ∧ t.mem = s.mem))
    ∧ (c.groups = o :: y :: l → o.canStep = false → y.canStep = true → c.victim = false →
        ∃ t p h m, exec (.groupStep k) s = .next t ∧ (t.core k).groups = p :: h :: m ∧ h.vprog = y.vprog ∧ y.pos ≤ h.pos
          ∧ h.pos ≤ y.pos + 8 ∧ (t.core k).ac = c.ac ∧ (h.unpred = y.unpred → p = o ∧ m = l ∧ t.mem = s.mem))

/-- Committing the next element of the oldest group, each of whose writes goes to a different word of a region that runs:
its words and coefficients are written, its accumulator updates made in order, VPROG counts it, its flags are merged, and
the words that it does not write keep their values, the checkpoint in CB.VPROG apart. Retirement and stopping: a group
that has committed its L elements retires, and the next becomes the oldest in VPROG, CB.VGRP and CB.VPROG; a fault of
the next element stops every group, the oldest at its count and the younger at its starting count, and VFC, VFE and VFA
hold the record with PEND; at its stop point a preempted group stops too. -/
def Obligations.ElementCommitsAndGroupEnds : Prop :=
  (∀ (s : State) (k : Nat) (g : Group) (rest : List Group) (e : ElemOut) (q : List ElemOut),
    Canonical s → s.clusterOn k = true →
    let c := s.core k
    c.groups = g :: rest → g.outq = e :: q → e.fault = none → g.vprog < g.stopAt.getD g.len → g.unpred = false →
    g.unpredAcc = false → c.groupCtx < 2 ^ 20 →
    (∀ w ∈ e.writes, (∃ n off, s.locOf w.1 = .region n off ∧ (s.rgn n).armed = false) ∧ s.gate (0, k) w.1 (s.locOf w.1) = .go s) →
    e.writes.Pairwise (fun x y => x.1 ≠ y.1) → (∀ w ∈ e.coefs, w.1 < 0x4000) → e.coefs.Pairwise (fun x y => x.1 ≠ y.1) →
      let cb := cbAddr c.groupCtx 8
      let cleared := e.zset.foldl (fun m z => SMap.set 0 m z.1 z.2) c.ac
      let made := e.accs.foldl (fun (q : SMap (BitVec 48) × Bool) o =>
        let x := o.2.apply (SMap.get 0 q.1 o.1)
        (SMap.set 0 q.1 o.1 x.1, q.2 || x.2)) (cleared, false)
      let fl := e.flags.or { ov := made.2 }
      ∃ u h, exec (.elementCommit k) s = .next u ∧ (u.core k).groups = h :: rest ∧ h.outq = q ∧ h.vprog = g.vprog + e.cnt
        ∧ (u.core k).vprog = BitVec.ofNat 20 (g.vprog + e.cnt) ∧ (u.core k).ac = made.1
        ∧ (∀ w ∈ e.writes, u.peek w.1 (u.locOf w.1) = .good w.2.1 0)
        ∧ (∀ w ∈ e.coefs, u.peek (coefBase k + w.1) (.coef k w.1) = .good w.2.1 0)
        ∧ (∀ b, (∀ w ∈ e.writes, b ≠ w.1) → (∀ w ∈ e.coefs, b ≠ coefBase k + w.1) → b ≠ cb →
            u.peek b (u.locOf b) = s.peek b (s.locOf b))
        ∧ (c.out = none → (u.core k).vmode = mergeV c.vmode fl ∧ (u.core k).fmode = mergeF c.fmode fl)
        ∧ (if (g.vprog + e.cnt) / 64 = g.vprog / 64 then u.cb c.groupCtx 8 = s.cb c.groupCtx 8
           else u.cb c.groupCtx 8 = BitVec.ofNat 20 (g.vprog + e.cnt)))
  ∧ (∀ (s : State) (k : Nat) (g : Group) (rest : List Group) (e : ElemOut) (q : List ElemOut) (f : VFault), s.clusterOn k = true →
    let c := s.core k
    let x := c.groupCtx
    let stops (h y : Group) (v : Nat) : Prop := h.chain = y.chain ∧ h.len = y.len ∧ h.descs = y.descs ∧ h.vprog = v ∧ h.stopped = true
    c.groups = g :: rest →
    (g.len ≤ g.vprog → c.victim = false →
      ∃ t, exec (.groupRetire k) s = .next t ∧ (t.core k).stopped = c.stopped
        ∧ (if c.preempt = none ∨ c.preempt = some .waiting then (t.core k).groups = rest
           else (t.core k).groups.map (fun y => (y.chain, y.vprog, y.len)) = rest.map (fun y => (y.chain, y.vprog, y.len))
            ∧ ∀ y l, (t.core k).groups = y :: l → y.stopAt.isSome = true)
        ∧ (t.core k).ac = c.ac
        ∧ (match rest ++ c.stopped with
          | [] => (t.core k).vprog = BitVec.ofNat 20 g.len ∧ t.cb x 8 = BitVec.ofNat 20 g.len
          | y :: _ => (t.core k).vprog = BitVec.ofNat 20 y.vprog ∧ t.cb x 8 = BitVec.ofNat 20 y.vprog
              ∧ t.cb x 7 ++ t.cb x 6 = y.chain))
    ∧ (g.outq = e :: q → e.fault = some f → (∀ v, g.stopAt = some v → g.vprog < v) →
      ∃ t h l, exec (.groupFault k) s = .next t ∧ (t.core k).groups = [] ∧ (t.core k).stopped = h :: (l ++ c.stopped)
        ∧ stops h g g.vprog
        ∧ l.map (fun h => (h.chain, h.len, h.descs, h.vprog, h.stopped)) = rest.map (fun y => (y.chain, y.len, y.descs, y.start, true))
        ∧ (t.core k).vfc = BitVec.ofNat 20 (b2n f.wr * 2 ^ 17 + f.flg * 2 ^ 12 + f.instr * 2 ^ 9 + f.stream * 32 + f.cause) ||| 0x40000
        ∧ (t.core k).vfe = BitVec.ofNat 20 f.vfe ∧ (t.core k).vfa = BitVec.ofNat 40 f.va ∧ (t.core k).ac = c.ac
        ∧ t.cb x 8 = c.vprog)
    ∧ (∀ o, c.out = some o → o.live = true → c.vecIn = none → g.stopAt = some g.vprog → g.vprog < g.len →
      ∃ t p, exec (.groupPreemptStop k) s = .next t ∧ (t.core k).groups = [] ∧ (t.core k).stopped = []
        ∧ (t.core k).out = some p ∧ p.ctx = o.ctx ∧ p.live = false ∧ t.cb o.ctx 8 = c.vprog
        ∧ (o.profT = true → ∃ l, p.words = o.words ++ (wordsFrom 0xF0 (acWords c.ac) ++ l))))

/-! ## Clusters: posts, events, run control, the debug master -/

/-- CL_IPOST: a steward core at S or M, the keeper core, the debug master and the host set POST, and all of them but a
core at S and the host set MPOST, where the fabric of the cluster's die is on. It reads 0. -/
def Obligations.InterruptPosts : Prop :=
  ∀ (s : State) (who : Master) (k : Nat) (v : Word), s.up = true → s.clusterOn k = true → s.fabricOff (dieOf (k / 2)) = false →
    v &&& 0xFFEFE = 0 →
    let c := s.core k
    let may : Bool := match who with
      | .core j => s.clusterOn j && (s.core j).cst.pl != .u
      | .keeper | .debug | .host => true
      | _ => false
    let high : Bool := match who with
      | .core j => (s.core j).cst.pl == .m
      | .keeper | .debug => true
      | _ => false
    (may = true → exec (.clIpost who k v) s
        = .next (s.setCore k { c with ipend := c.ipend ||| (if high then v else v &&& 1) }))
    ∧ (may = false → exec (.clIpost who k v) s = .next s)
    ∧ s.regRead who (0x200048 + k * 0x400) = some (s, 0)

/-- What happens at a cluster without an instruction: CL_MFLT arms the next return, a line that the core has asked for
fills the fetch buffer in the place of the one used longest ago, the watchdog warns at 2 × PERIOD, and at 0 it preempts
a core at U or S, whose oldest group gets a stop point at a multiple of 64 or its end, and halts one at M. -/
def Obligations.ClusterEvents : Prop :=
  ∀ (s : State) (who : Master) (k : Nat) (a : Dbl) (ws : List Word), s.clusterOn k = true →
    let c := s.core k
    let b := a.toNat / 8 * 8
    let first := c.pc.toNat / 8 * 8
    let period := max 1 (c.wctl.toNat % 2 ^ 16)
    let counting := c.wctl.getLsbD 19 = true ∧ c.bound.isSome = true ∧ c.rc ≠ .halted ∧ c.rc ≠ .haltedErr
    (s.up = true → s.fabricOff (dieOf (k / 2)) = false → who = .keeper ∨ who = .debug ∨ (who = .core k ∧ c.cst.pl = .m) →
      exec (.clMflt who k 1) s = .next (s.setCore k { c with mflt := true })
      ∧ exec (.clMflt who k 0) s = .next (s.setCore k c))
    ∧ (c.bound.isSome = true → c.phase = .running → c.rep ≠ some 0 → first ≤ b → b ≤ first + 32 →
        (∀ f ∈ c.fbuf, ¬ (f.base ≤ b ∧ b < f.base + f.ws.length)) → s.isRegion b = true →
        (∀ e ∈ c.sbuf, ∀ i, i < 8 → b + i ∉ e.addrs) → s.gate (1, k) b (s.locOf b) = .go s → ws.length = 8 →
        (∀ i, i < 8 → s.peek (b + i) (s.locOf (b + i)) = .good (ws.getD i 0) 0) →
        ∃ e, exec (.fetchRefillReturn k a) s = .next (s.setCore k e) ∧ Nothing c e ∧ e.pc = c.pc
          ∧ e.fbuf = c.fbuf.drop (c.fbuf.length - 7) ++ [{ base := b, ws := ws.map FWord.ok }])
    ∧ (counting → c.wcnt.toNat = 2 * period →
        exec (.watchdogWarning k) s = .next (s.setCore k { c with ipend := c.ipend ||| 2 }))
    ∧ (counting → c.wcnt = 0 → c.phase = .running → c.cst.pl ≠ .m →
        ∃ gs, exec (.watchdogExpiry k) s = .next (s.setCore k { c with preempt := some .wdog, groups := gs })
          ∧ (c.groups = [] → gs = [])
          ∧ ∀ g l, c.groups = g :: l → ∃ n, gs = { g with stopAt := some n } :: l
            ∧ (g.stopAt = none → g.unit = 1 → n ≤ g.len ∧ (n = g.len ∨ n % 64 = 0) ∧ Min.min g.vprog g.len ≤ n))
    ∧ (counting → c.wcnt = 0 → c.phase = .running → c.cst.pl = .m →
        ∃ e, exec (.watchdogExpiry k) s = .next ((s.setCore k e).keeperIrq (.coreHalt k)) ∧ e.rc = .haltedErr ∧ e.halt = 3
          ∧ e.resv = none ∧ Nothing { c with resv := none, halt := 3 } e)

/-- Run control: HALT, STEP and RESUME by the keeper core or the debug master, with COUNT at least 1,024 after a
release or a step; the halt at a boundary, which drops the reservation; and the register that CL_RC_SEL names, read and written
through CL_RC_DATA while the core is halted. -/
def Obligations.RunControl : Prop :=
  ∀ (s s1 : State) (who : Master) (k : Nat) (v : Dbl), s.up = true → s.clusterOn k = true →
    s.fabricOff (dieOf (k / 2)) = false → who = .keeper ∨ who = .debug →
    let c := s.core k
    let set := c.rcSel.toNat / 2 ^ 7 % 8
    let i := c.rcSel.toNat % 2 ^ 7
    let held := c.rc = .halted ∨ c.rc = .haltedErr
    (c.rolling = false →
      (c.rc = .running ∨ c.rc = .stepping → exec (.clRcHalt who k) s = .next (s.setCore k { c with rc := .halting }))
      ∧ (held → exec (.clRcStep who k) s
          = .next (s.setCore k { c with rc := .stepping, wcnt := BitVec.ofNat 20 (max c.wcnt.toNat 1024) }))
      ∧ (held → exec (.clRcResume who k) s
          = .next (s.setCore k { c with rc := .running, wcnt := BitVec.ofNat 20 (max c.wcnt.toNat 1024) }))
      ∧ exec (.clRcData who k none) s = .next s
      ∧ (held → s.regRead who (0x200003 + k * 0x400) = some (s, (c.rcRead c.rcSel).extractLsb' 0 20)
          ∧ s.regRead who (0x200004 + k * 0x400) = some (s, (c.rcRead c.rcSel).extractLsb' 20 20))
      ∧ (held → ∃ t, exec (.clRcData who k (some v)) s = .next t ∧
          (set = 0 → i < 32 → (t.core k).wr (BitVec.ofNat 5 i) = (if i = 0 then 0 else v.extractLsb' 0 20))
          ∧ (set = 1 → i < 8 → (t.core k).ar (BitVec.ofNat 3 i) = v)
          ∧ (set = 2 → i < 8 → (t.core k).amr (BitVec.ofNat 3 i) = v.extractLsb' 0 20)
          ∧ (set = 3 → i < 32 → (t.core k).fr i = v)
          ∧ (set = 4 → ∀ legal kept, (i, legal, kept) ∈ ctlPlain → (t.core k).ctl i = some (v.extractLsb' 0 20 &&& legal &&& kept))
          ∧ (set = 5 → SMap.get 0 (t.core k).t i = v.extractLsb' 0 20)
          ∧ (set = 6 → i < 3 → SMap.get 0 (t.core k).w (32 + i) = v.extractLsb' 0 20)
          ∧ (t.core k).pc = c.pc ∧ (t.core k).rc = c.rc))
    ∧ (c.rc = .halting → c.rolling = false → c.phase = .running ∨ c.phase = .free → c.div = none →
        (s.dev.lc = 2 → c.bound.isSome = true → c.cst.pl ≠ .m) → s.drainLoads k = .done s1 none →
        ∃ e, exec (.coreHalted k) s = .next (s1.setCore k e) ∧ e.rc = .halted ∧ e.rcPl = c.cst.pl ∧ e.resv = none
          ∧ e.w = (s1.core k).w ∧ e.pc = (s1.core k).pc ∧ e.cst = (s1.core k).cst ∧ e.groups = (s1.core k).groups)

/-- The debug master: a read or a write of DBG_DATA by the keeper core starts an access at DBG_ADDR, one at a time; the
access is performed, leaves its word in DBG_DATA, and moves DBG_ADDR on with INC. -/
def Obligations.DebugMaster : Prop :=
  ∀ (s : State) (v d : Word) (n off : Nat), s.up = true →
    let g := s.dbg
    let a := g.addr.toNat
    let next : Dbl := if g.inc then g.addr + 1 else g.addr
    (g.op = none →
      exec (.dbgDataRead .keeper) s = .next { s with dbg := { g with op := some .read } }
      ∧ exec (.dbgDataWrite .keeper v) s = .next { s with dbg := { g with op := some (.write v) } })
    ∧ (g.op.isSome = true → exec (.dbgDataRead .keeper) s = .next s ∧ exec (.dbgDataWrite .keeper v) s = .next s)
    ∧ (s.locOf a = .region n off → s.busGate .debug a = .go s →
        (g.op = some .read → s.peek a (s.locOf a) = .good d 0 →
          exec .debugAccessDone s = .next { s with dbg := { g with op := none, data := d, addr := next } })
        ∧ (g.op = some .read → s.peek a (s.locOf a) = .uncorr →
          ∃ t, exec .debugAccessDone s = .next t ∧ t.dbg = { g with op := none, err := true, cause := 2, addr := next }
            ∧ t.mem = s.mem)
        ∧ (g.op = some (.write v) → (s.rgn n).armed = false → s.host.fell = false →
          ∃ t, exec .debugAccessDone s = .next t ∧ t.dbg = { g with op := none, addr := next }
            ∧ t.peek a (t.locOf a) = .good v 0
            ∧ ∀ b, b ≠ a → t.peek b (t.locOf b) = s.peek b (s.locOf b)))

/-! ## Contexts and the scheduler -/

/-- CTX_CMD on a context that is neither being bound nor switched out, of which no command is held: what each command
does in each state, with RESULT and FOUND in CTX_STAT; a refused command leaves memory as it is. SUSPEND of a RUNNING
context stays BUSY and preempts it. A held command completes when its context is switching no more and it is the first
one held on it: a SUSPEND that has begun reports DONE, a context that has become FAULTED meanwhile, its save not
failed, being DORMANT then, and any other acts on the state that it then finds. -/
def Obligations.ContextCommands : Prop :=
  (∀ (s : State) (who : Master) (v w : Word) (op : BitVec 4), MayWrite s who 0x20000 →
    let b := bankOf who
    let c := (SMap.get 0 s.sched.arg b).toNat
    let st := v.toNat / 2 ^ 17
    let cls := v.toNat / 2 ^ 14 % 8
    let grp := v.toNat % 2 ^ 8
    s.result b ≠ 1 → s.switching c = false → (∀ h ∈ s.sched.held, h.ctx ≠ c) → CbIs s c 0 v → CbIs s c 1 w →
    let queue (x : State) : List Nat := SMap.get [] x.sched.ready (queueOf v)
    let ends (i : Instr) (r : Nat) (P : State → Prop) : Prop :=
      ∃ t, exec i s = .next t ∧ SMap.get 0 t.sched.stat b = BitVec.ofNat 20 (st * 16 + r) ∧ P t
    let stays (i : Instr) (r : Nat) : Prop := ends i r (fun t => t.mem = s.mem ∧ t.sched.ready = s.sched.ready ∧ t.sched.ua = s.sched.ua)
    let becomes (n : Nat) (t : State) : Prop := t.ctxState c = n
    (if st = 0 then ends (.alloc who) 0 (fun t => becomes 1 t ∧ ∀ i, 1 ≤ i → i < 32 → t.cb c i = 0) else stays (.alloc who) 2)
    ∧ (if st ≠ 1 then stays (.activate who) 2
       else if (SMap.get 0xFFFFF s.sched.qa grp).toNat ≤ SMap.get 0 s.sched.ua grp then stays (.activate who) 3
       else if cls = 0 ∧ 4096 ≤ s.sched.c0act then stays (.activate who) 4
       else ends (.activate who) 0 (fun t => becomes 3 t ∧ queue t = queue s ++ [c]
        ∧ SMap.get 0 t.sched.ua grp = SMap.get 0 s.sched.ua grp + 1
        ∧ t.sched.c0act = s.sched.c0act + (if cls = 0 then 1 else 0)))
    ∧ (if st = 2 ∨ st = 3 ∨ st = 5 then ends (.suspend who) 0 (fun t => becomes 1 t ∧ c ∉ (if st = 3 then queue t else [])
        ∧ SMap.get 0 t.sched.ua grp = SMap.get 0 s.sched.ua grp - 1)
       else if st = 4 then
        ∀ k, s.clusterOf c = some k → ends (.suspend who) 1 (fun t => (t.core k).preempt = some .suspend
          ∧ t.sched.held = s.sched.held ++ [{ who := b, op := 3, ctx := c, begun := true }])
       else stays (.suspend who) 2)
    ∧ (if st = 0 then stays (.wake who) 2
       else ends (.wake who) 0 (fun t => t.cb c 1 = w ||| 0x08000 ∧ becomes (if st = 2 then 3 else st) t))
    ∧ (if st = 5 then ends (.resumeContext who) 0 (fun t => becomes 3 t ∧ queue t = queue s ++ [c] ∧ (t.cb c 4).toNat / 2 ^ 5 % 16 = 0)
       else stays (.resumeContext who) 2)
    ∧ (if st = 1 then ends (.release who) 0 (fun t => becomes 0 t ∧ t.sched.ua = s.sched.ua)
       else if st = 5 then ends (.release who) 0 (fun t => becomes 0 t ∧ SMap.get 0 t.sched.ua grp = SMap.get 0 s.sched.ua grp - 1)
       else stays (.release who) 2)
    ∧ (op = 0 ∨ 7 ≤ op.toNat → stays (.ctxCmdBadop who op) 5))
  ∧ (∀ (s : State) (who : Master) (h : HeldCmd) (l m : List HeldCmd), s.sched.held = l ++ h :: m → h.who = bankOf who →
    (∀ x ∈ l ++ m, x.who ≠ h.who) → (∀ x ∈ l, x.ctx ≠ h.ctx) → s.switching h.ctx = false →
    let u := { s with sched := { s.sched with held := l ++ m } }
    let found := (SMap.get 0 s.sched.stat h.who).toNat / 16 % 8
    (h.begun = true → ∃ t, exec (.ctxCmdCompletion who) s = .next t ∧ t.sched.held = l ++ m
      ∧ SMap.get 0 t.sched.stat h.who = BitVec.ofNat 20 (found * 16)
      ∧ (if s.ctxState h.ctx = 5 ∧ (s.cb h.ctx 4).toNat / 2 ^ 5 % 16 ≠ 3 then t.ctxState h.ctx = 1 else t.mem = s.mem))
    ∧ (h.begun = false → exec (.ctxCmdCompletion who) s = .next (u.doCmd h.who h.op h.ctx)))

/-- What wakes, preempts and binds contexts: a deadline at the pip that it names, a slice that has run out while a
context of the same class and region waits, the rebuild of the queues, and the bind of the first eligible context of the
highest class. -/
def Obligations.SchedulerEvents : Prop :=
  ∀ (s : State) (k : Nat) (x : BitVec 20) (v w : Word),
    let c := x.toNat
    let n := k / 2
    (CbIs s c 0 v → CbIs s c 1 w → s.cbReadable c [9, 10, 11] = true → w.getLsbD 1 = true → s.deadline c = s.pip.now →
        v.toNat / 2 ^ 17 ≠ 0 →
      ∃ t, exec (.deadlineReached x) s = .next t ∧ t.cb c 1 = w ||| 0x00800
        ∧ t.ctxState c = (if v.toNat / 2 ^ 17 = 2 then 3 else v.toNat / 2 ^ 17))
    ∧ (∀ y z cls, s.clusterOn k = true → (s.core k).bound = some y → cls = (s.ctl y).toNat / 2 ^ 14 % 8 → cls ≠ 0 →
        (s.core k).phase = .running → (s.core k).preempt = none → (s.core k).rc ≠ .halted → (s.core k).rc ≠ .haltedErr →
        s.sched.slice ≠ 0 → s.sched.slice.toNat ≤ (s.core k).boundPips →
        z ∈ SMap.get [] s.sched.ready (8 * (n / 12) + cls) → (s.ctl z).toNat / 2 ^ 8 % 64 = n →
        ∃ gs, exec (.sliceExpiry k) s = .next (s.setCore k { s.core k with preempt := some .slice, groups := gs })
          ∧ gs.map (fun g => (g.chain, g.vprog, g.len)) = (s.core k).groups.map (fun g => (g.chain, g.vprog, g.len))
          ∧ ∀ g l, gs = g :: l → g.stopAt.isSome = true)
    ∧ (s.sched.rebuilt = false → s.up = true →
        (∀ d i, d < 2 ^ 20 → i < 2 → ∃ u, CbIs s d i u) →
        ∃ t, exec .queueRebuild s = .next t ∧ t.sched.rebuilt = true ∧ t.sched.ut = []
          ∧ (v.toNat / 2 ^ 17 = 3 ∨ (v.toNat / 2 ^ 17 = 2 ∧ (w.toNat / 2 ^ 10 % 64) &&& (w.toNat % 64 ||| 32) ≠ 0) → CbIs s c 0 v → CbIs s c 1 w →
              t.ctxState c = 3 ∧ c ∈ SMap.get [] t.sched.ready (queueOf v)))
    ∧ (∀ y cls l m, s.clusterOn k = true → (s.core k).bound = none → (s.core k).rolling = false →
        (s.rgn n).ctl.getLsbD 1 = false → (s.rgn n).pstate ≠ .rolling → (s.rgn n).rollNext = false → (s.core k).mset = 0x7F →
        (s.core k).phase = .free → s.sched.rebuilt = true → s.fabricOff (n / 12) = false → cls < 8 →
        SMap.get [] s.sched.ready (8 * (n / 12) + cls) = l ++ y :: m → (∀ z ∈ l, s.eligible n z = false) →
        (∀ j, j < cls → ∀ z ∈ SMap.get [] s.sched.ready (8 * (n / 12) + j), s.eligible n z = false) →
        s.eligible n y = true →
        ∃ t, exec (.bindDecision k) s = .next t ∧ (t.core k).bound = some y ∧ (t.core k).phase = .restoring
          ∧ (t.core k).wcnt.toNat = 16 * max 1 ((s.core k).wctl.toNat % 2 ^ 16) ∧ t.mem = s.mem
          ∧ y ∉ SMap.get [] t.sched.ready (queueOf (s.ctl y)))

/-- A switch: at the boundary the victim's registers go to the switch buffer, CB.PC names its next instruction and the
cluster is free; when they have been written to the save area, the context takes the state that its leaving gives it;
and a bound context starts with the registers of its save area. -/
def Obligations.ContextSwitch : Prop :=
  ∀ (s s1 : State) (k x : Nat), s.clusterOn k = true →
    (∀ why, (s.core k).bound = some x → (s.core k).preempt = some why → s.mayLeave k why = true →
        s.drainLoads k = .done s1 none →
        let c := s1.core k
        ∃ t o, exec (.victimBoundary k) s = .next t ∧ (t.core k).out = some o ∧ o.ctx = x ∧ o.why = why
          ∧ (t.core k).bound = none ∧ (t.core k).phase = .free ∧ (t.core k).resv = none
          ∧ t.cb x 3 ++ t.cb x 2 = c.pc
          ∧ (∀ i, 1 ≤ i → i < 32 → i ≠ 30 → (i, SMap.get 0 c.w i) ∈ o.words)
          ∧ ∀ i, i < 8 → (0x20 + 2 * i, (SMap.get 0 c.a i).extractLsb' 0 20) ∈ o.words
              ∧ (0x21 + 2 * i, (SMap.get 0 c.a i).extractLsb' 20 20) ∈ o.words
              ∧ (0x30 + i, SMap.get 0 c.am i) ∈ o.words)
    ∧ (∀ o n, Canonical s → (s.core k).out = some o → o.live = false → o.faulted = false → (s.core k).sbuf = [] →
        let a := s.saveArea o.ctx
        let st := (s.ctl o.ctx).toNat / 2 ^ 17
        s.cbReadable o.ctx [0, 4] = true →
        (∃ off, s.locOf a = .region n off) → (s.rgn n).armed = false → o.words.Pairwise (fun p q => p.1 < q.1) →
        (∀ p ∈ o.words, (∃ off, s.locOf (a + p.1) = .region n off) ∧ s.busGate (.core k) (a + p.1) = .go s) →
        ∃ t, exec (.saveComplete k) s = .next t ∧ (t.core k).out = none
          ∧ (∀ p ∈ o.words, t.peek (a + p.1) (t.locOf (a + p.1)) = .good p.2 0)
          ∧ (match o.why with
            | .suspend => t.ctxState o.ctx = 1
            | .wdog => t.ctxState o.ctx = 5 ∧ (t.cb o.ctx 4).toNat / 2 ^ 5 % 16 = 4
            | .machine => t.ctxState o.ctx = 5 ∧ (t.cb o.ctx 4).toNat / 2 ^ 5 % 16 = 5
            | .higher => t.ctxState o.ctx = 3 ∧ (SMap.get [] t.sched.ready (queueOf (s.ctl o.ctx))).head? = some o.ctx
            | .slice => t.ctxState o.ctx = 3 ∧ (SMap.get [] t.sched.ready (queueOf (s.ctl o.ctx))).getLast? = some o.ctx
            | .waiting => t.ctxState o.ctx = st))
    ∧ (∀ ws, (s.core k).bound = some x → (s.core k).phase = .restoring → (s.rgn (k / 2)).pstate = .run →
        s.cbReadable x [0, 1, 2, 3, 4, 5] = true → s.areaOk (s.saveArea x) = true → (s.cb x 4).getLsbD 1 = false →
        let save := s.cb x 4
        s.readAll (.core k) ((restoreOffsets save).map (fun o => s.saveArea x + o)) = .got s1 (.ok ws) →
        ws.length = (restoreOffsets save).length → (s1.core k).sbuf = [] → (s1.core k).out = none →
        s1.cbReadable x [0] = true → SMap.get 0 s1.sched.waitRegs x = 0 → (ws.getD 0x38 0).getLsbD 8 = false →
        let lvl := (ws.getD 0x38 0).toNat / 2 ^ 10 % 4
        ∃ t, exec (.restoreComplete k) s = .next t ∧
          let c := t.core k
          c.phase = .running ∧ c.bound = (s1.core k).bound ∧ t.ctxState x = 4 ∧ c.pc = s1.cb x 3 ++ s1.cb x 2
          ∧ (∀ i, 1 ≤ i → i < 32 → i ≠ 30 → SMap.get 0 c.w i = ws.getD i 0)
          ∧ (∀ i, i < 8 → SMap.get 0 c.a i = ws.getD (0x21 + 2 * i) 0 ++ ws.getD (0x20 + 2 * i) 0
              ∧ SMap.get 0 c.am i = ws.getD (0x30 + i) 0)
          ∧ c.cst.pl = (if lvl = 0 then .u else if lvl = 1 then .s else if save.getLsbD 2 then .s else .u)
          ∧ c.cnt = ws.getD 0x3B 0 ∧ c.lk = ws.getD 0x3D 0 ++ ws.getD 0x3C 0 ∧ c.mh = ws.getD 0x3E 0 ∧ c.ml = ws.getD 0x3F 0)

/-- A delivery to an inbox: an entry that fits is written into the ring, WR counts it, and INBOX is set, by a flow only
where its count, which the delivery raises by one, is then a multiple of 2^WK; one that does not fit is dropped whole and
counted in DROPS, with no cause set and no count of the flow. A delivery to a FREE context is lost and counted in
LNK_NOBOX. -/
def Obligations.InboxDeliveries : Prop :=
  ∀ (s : State) (d : Delivery) (ds : List Delivery) (v w hl hh z wr rd dr : Word) (n : Nat), Canonical s →
    s.lnk.deliveries = d :: ds → d.buf = none → CbIs s d.ctx 0 v → d.ctx < 2 ^ 20 →
    (v.toNat / 2 ^ 17 = 0 →
      ∃ t, exec .inboxDelivery s = .next t ∧ t.lnk.deliveries = ds ∧ t.lnk.nobox = s.lnk.nobox + 1 ∧ t.mem = s.mem)
    ∧ (CbIs s d.ctx 1 w → CbIs s d.ctx 12 hl → CbIs s d.ctx 13 hh → v.toNat / 2 ^ 17 ≠ 0 → d.old = none →
    let h := (hh ++ hl).toNat
    let lg := z.toNat % 32
    let free := 2 ^ lg - (wr - rd).toNat
    let at_ (i : Nat) : Nat := h + 8 + (wr.toNat + i) % 2 ^ lg
    let count (u : State) (i : Nat) : BitVec 16 := (u.flowWord i 2).setWidth 16
    let sets : Prop := match d.flow with | none => True | some i => (count s i + 1).toNat % 2 ^ d.wk = 0
    h ≠ 0 → h % 8 = 0 → 6 ≤ lg → lg ≤ 18 → (∀ a, h ≤ a → a < h + 8 + 2 ^ lg → ∃ off, s.locOf a = .region n off) →
    (s.rgn n).armed = false → s.gate (3, 0) h (s.locOf h) = .go s → (wr - rd).toNat ≤ 2 ^ lg → d.words.length ≤ 2 ^ lg →
    Holds s h z → Holds s (h + 1) wr → Holds s (h + 2) rd → Holds s (h + 3) dr →
    ∃ t, exec .inboxDelivery s = .next t ∧ t.lnk.deliveries = ds
      ∧ (if d.words.length ≤ free then
          (∀ i, i < d.words.length → Holds t (at_ i) (d.words.getD i 0)) ∧ Holds t (h + 1) (wr + BitVec.ofNat 20 d.words.length)
            ∧ (∀ i, d.flow = some i → count t i = count s i + 1)
            ∧ (sets → t.cb d.ctx 1 = w ||| 0x00400
                ∧ t.ctxState d.ctx = (if v.toNat / 2 ^ 17 = 2 ∧ w.getLsbD 0 = true then 3 else v.toNat / 2 ^ 17))
            ∧ (¬sets → t.cb d.ctx 1 = w ∧ t.ctxState d.ctx = v.toNat / 2 ^ 17)
         else Holds t (h + 3) (dr + 1) ∧ t.lnk.flow = s.lnk.flow ∧ t.cb d.ctx 1 = w ∧ t.ctxState d.ctx = v.toNat / 2 ^ 17))

/-! ## Regions -/

/-- One turn of a board that runs, with one access presented and none waiting, in a turn that the scrubber does not
take: the access is granted and performed, a read giving the word, a write storing it, an atomic addition giving the old
word and storing the sum. Two accesses of different slots to one square: the first in the rotation order of the slots is
granted, or in a reserved turn the one that is class 0 where the other is not; the other one waits, and RGN_CONTEND counts
the turn. A rotation turn moves the pointer on, and a reserved turn leaves it. -/
def Obligations.BoardTurns : Prop :=
  ∀ (s : State) (n : Nat) (q p : BoardReq) (d : Word), s.regionOn n = true →
    let r := s.rgn n
    let a := 0x800000 * n + q.off
    let g := r.turnsNow
    let res := g.toNat % 2 ^ 6
    let reserved := (r.turn % 128 + 1) * res / 128 ≠ r.turn % 128 * res / 128
    let place (x : BoardReq) : Nat := (x.slot + 17 - r.ptr % 17) % 17
    r.pstate = .run → r.waiting = [] → q.slot < 16 → q.off < 0x7F0000 →
    (r.turn % (128 * 2 ^ (g.toNat / 2 ^ 6 % 8)) ≠ 0 ∨ (r.scrubDue = false ∧ s.int.ivl ≠ 0)) →
    (p.slot < 16 → p.off < 0x7F0000 → p.off % 127 = q.off % 127 → p.slot ≠ q.slot →
      let first : BoardReq := if reserved ∧ s.reqC0 n p ≠ s.reqC0 n q then (if s.reqC0 n q then q else p)
        else if place q < place p then q else p
      let last : BoardReq := if first = q then p else q
      ∃ t, exec (.boardAccessGrant n [q, p]) s = .next t ∧ (t.rgn n).turn = r.turn + 1
        ∧ (t.rgn n).ptr = (if reserved then r.ptr else (r.ptr + 1) % 17)
        ∧ (t.rgn n).grants.map (fun x => (x.slot, x.off)) = [(first.slot, first.off)]
        ∧ (t.rgn n).waiting = [{ req := last, age := 1 }] ∧ (t.rgn n).contend = r.contend + 1)
    ∧ (r.armed = false → s.peek a (s.locOf a) = .good d 0 →
    ∃ t, exec (.boardAccessGrant n [q]) s = .next t ∧ (t.rgn n).turn = r.turn + 1 ∧ (t.rgn n).waiting = []
      ∧ (t.rgn n).ptr = (if reserved then r.ptr else (r.ptr + 1) % 17) ∧ (t.rgn n).contend = r.contend
      ∧ (t.rgn n).pstate = .run
      ∧ (match q.kind with
        | .read => (t.rgn n).grants = [{ slot := q.slot, off := q.off, result := .ok [d] }] ∧ t.mem = s.mem
        | .write w => (t.rgn n).grants = [{ slot := q.slot, off := q.off, result := .ok [] }] ∧ t.peek a (t.locOf a) = .good w 0
        | .add w => (t.rgn n).grants = [{ slot := q.slot, off := q.off, result := .ok [d] }] ∧ t.peek a (t.locOf a) = .good (d + w) 0)
      ∧ ∀ b, b ≠ a → t.peek b (t.locOf b) = s.peek b (s.locOf b))

/-- Scrubbing: a row falls due after its interval, at most one at a time, and wakes a region in IDLE or NAP; the scrub turn writes back what the
scrubber holds, reads the row, holds the corrected form of a word with an error for its next turn, and moves on; the
context store's walker does the same word by word. -/
def Obligations.Scrubbing : Prop :=
  ∀ (s : State) (n : Nat), s.regionOn n = true →
    let r := s.rgn n
    let c := SMap.get 0 s.walkers 96 % 0x2000000
    let p := 0x20000000 + c
    (r.scrubDue = false → s.int.ivl.toNat + r.scrubLast ≤ s.pip.now.toNat → r.pstate ≠ .off →
      exec (.scrubRowDue n) s = .next (s.setRgn n { r with
        scrubDue := true
        scrubLast := s.pip.now.toNat
        pstate := match r.pstate with | .idle => .run | .nap => .waking | x => x
        scrubWake := match r.pstate with | .idle => some .idle | .nap => some .nap | _ => r.scrubWake
        fromNap := if r.pstate = .nap then true else r.fromNap
        filling := if r.pstate = .nap then false else r.filling }))
    ∧ (r.scrubDue = true → s.int.ivl.toNat + r.scrubLast ≤ s.pip.now.toNat → r.pstate ≠ .off →
        exec (.scrubRowDue n) s = .next (s.setRgn n { r with scrubLast := s.pip.now.toNat }))
    ∧ (r.pstate = .run → r.scrubDue = true → r.waiting = [] → r.scrubWb = [] →
        ∃ t, exec (.scrubTurn n) s = .next t ∧ (t.rgn n).scrubDue = false ∧ (t.rgn n).scrubPtr = (r.scrubPtr + 1) % 65536
          ∧ (t.rgn n).turn % 128 = 1 ∧ t.mem = s.mem
          ∧ ∀ off d k, off < 0x7F0000 → off / 127 = r.scrubPtr → k ≠ 0 →
              s.peek (0x800000 * n + off) (s.locOf (0x800000 * n + off)) = .good d k →
              ({ addr := 0x800000 * n + off, cell := encode d (off / 127) } : WriteBack) ∈ (t.rgn n).scrubWb)
    ∧ (∀ a off d, r.pstate = .run → r.scrubDue = true → r.waiting = [] → s.locOf a = .region n off →
        r.scrubWb = [{ addr := a, cell := encode d (off / 127) }] →
        ∃ t, exec (.scrubTurn n) s = .next t ∧ t.peek a (t.locOf a) = .good d 0)
    ∧ (s.walkWb = [] →
        ∃ t, exec (.storeScrubWord .context) s = .next t ∧ SMap.get 0 t.walkers 96 = (c + 1) % 0x2000000 ∧ t.mem = s.mem
          ∧ (∀ d, s.peek p (.ctx c) = .good d 0 → t.walkWb = [])
          ∧ ∀ d k, k ≠ 0 → s.peek p (.ctx c) = .good d k → t.walkWb = [{ addr := p, cell := encode d (c / 512) }])
    ∧ ∀ e, s.walkWb = [e] → 0x20000000 ≤ e.addr → e.addr < 0x22000000 →
        ∃ t, exec (.storeScrubWord .context) s = .next t ∧ t.stored e.addr (s.locOf e.addr).row = e.cell

/-- Castling: a start is decided by the first matching row of R41, and one that woke the region begins its copy when the
region runs; the copier moves row by row; and after the last row
the board switches over: MOVED names the square, its words are those of the spare square, every other word stands, and
the keeper core is interrupted. -/
def Obligations.Castling : Prop :=
  ∀ (s : State) (who : Master) (n : Nat) (v : Word), s.regionOn n = true →
    let r := s.rgn n
    let j : BitVec 7 := v.extractLsb' 7 7
    let a (row : Nat) : Nat := 0x800000 * n + row * 127 + r.copySq.toNat
    (MayWrite s who (0x100005 + n * 0x1000) → v &&& 0xE0000 = 0 →
      ∃ t, exec (.castleGo who n v) s = .next t ∧ t.mem = s.mem ∧
        let q := t.rgn n
        (if r.cstat = .copying then t = s
         else if r.moved ≠ 0x7F ∨ j = 0x7F ∨ r.pstate = .rolling then q = { r with cstat := .refused }
         else if r.pstate = .off then q.moved = j ∧ q.target = j ∧ q.cstat = .done ∧ q.row = 0 ∧ q.pstate = .off
          ∧ SMap.get 0 q.sq j.toNat = 0
         else if r.pstate = .run ∨ r.pstate = .idle then
          q.cstat = .copying ∧ q.row = 0 ∧ q.copySq = j ∧ q.pstate = .run ∧ q.moved = r.moved
         else q.pstate = .waking ∧ q.castleWait = true ∧ q.copySq = j ∧ q.moved = r.moved))
    ∧ (r.castleWait = true → r.pstate = .waking → r.filling = false → r.fromNap = true → r.needsClear = false → r.rollNext = false →
        ∃ t, exec (.regionLogicUp n) s = .next t ∧
          let q := t.rgn n
          q.pstate = .run ∧ q.cstat = .copying ∧ q.row = 0 ∧ q.copySq = r.copySq)
    ∧ (r.cstat = .copying → r.row < 65536 → r.pstate = .run → ∀ d, s.peek (a r.row) (.region n (r.row * 127 + r.copySq.toNat)) = .good d 0 →
        r.copySq.toNat < 127 →
        ∃ t, exec (.castleCopyRow n) s = .next t ∧ (t.rgn n).row = r.row + 1 ∧ (t.rgn n).copyWr = some r.row ∧ t.mem = s.mem
          ∧ (t.rgn n).copyCell = encode d r.row
          ∧ ∀ p, r.copyWr = some p → SMap.get 0 (t.rgn n).spare p = r.copyCell ^^^ encode 0 p)
    ∧ (r.cstat = .copying → r.row = 65536 → r.copyWr = none → SMap.wf 0 r.spare = true → (∀ e ∈ r.spare, e.1 < 65536) →
        r.copySq.toNat < 127 →
        ∃ t, exec (.castleSwitchover n) s = .next t ∧ (t.rgn n).moved = r.copySq ∧ (t.rgn n).cstat = .done
          ∧ t.outs.keeper.getLast? = some (.castle n) ∧ SMap.get 0 (t.rgn n).sq r.copySq.toNat = 0
          ∧ (∀ row, row < 65536 → SMap.get 0 t.mem (a row) = SMap.get 0 r.spare row)
          ∧ ∀ b, inWindow n b = false ∨ b % 0x800000 % 127 ≠ r.copySq.toNat → SMap.get 0 t.mem b = SMap.get 0 s.mem b)

/-- Power states of a region: the fields of RGN_CTL that each request writes, with HOLD waking the region (after a reserved
code of PREQ, which VACATE and HOLD may carry, the rule says nothing of PREQ); the entry to the state that PREQ names, once
vacated and drained; the automatic entries, with the return to NAP after a wake for a scrub row; and the end of a wake,
through the zero-fill where the contents were lost. -/
def Obligations.RegionPower : Prop :=
  ∀ (s : State) (who : Master) (n : Nat) (v : Word), s.regionOn n = true →
    let r := s.rgn n
    let put (i : Instr) (x : Word) : Prop := ∃ t, exec i s = .next t ∧ t.mem = s.mem
      ∧ (t.rgn n).ctl = x ∧ (x.getLsbD 0 = false → t.rgn n = { r with ctl := x })
      ∧ (x.getLsbD 0 = true → r.pstate = .idle → (t.rgn n).pstate = .run)
      ∧ (x.getLsbD 0 = true → r.pstate = .nap ∨ r.pstate = .off → (t.rgn n).pstate = .waking)
    (MayWrite s who (0x100000 + n * 0x1000) → v &&& 0xFFFE0 = 0 →
      put (.rgnPreqNap who n v) ((v &&& 3) ||| 4) ∧ put (.rgnPreqOff who n v) ((v &&& 3) ||| 8)
      ∧ put (.rgnPreqAutomatic who n v) (v &&& 3)
      ∧ (v.toNat / 2 ^ 2 ≤ 2 → put (.vacate who n v) (v ||| 2) ∧ put (.hold who n v) (v ||| 1))
      ∧ (2 < v.toNat / 2 ^ 2 → ∃ t u, exec (.vacate who n v) s = .next t ∧ (t.rgn n).ctl &&& 3 = (v &&& 3) ||| 2
          ∧ exec (.hold who n v) s = .next u ∧ (u.rgn n).ctl &&& 3 = (v &&& 3) ||| 1))
    ∧ (r.hold = false → s.vacated n = true → s.drained n = true → r.rollNext = false →
        (r.preq = 1 → r.pstate = .run ∨ r.pstate = .idle →
          exec (.requestedStateEntry n) s = .next (s.setRgn n { r with pstate := .nap, scrubWake := none, idlePips := 0 }))
        ∧ (r.preq = 2 → r.pstate = .run ∨ r.pstate = .idle ∨ r.pstate = .nap →
          ∃ t, exec (.requestedStateEntry n) s = .next t ∧ (t.rgn n).pstate = .off ∧ (t.rgn n).moved = r.moved
            ∧ (∀ off, off < 0x7F0000 → SMap.get 0 t.mem (0x800000 * n + off) = 0)
            ∧ ∀ b, inWindow n b = false → inCoef n b = false → SMap.get 0 t.mem b = SMap.get 0 s.mem b))
    ∧ (r.pstate = .run → s.unbound n = true → r.scrubDue = false → s.int.ivl ≠ 0 → s.drained n = true → r.preq = 0 →
        r.hold = false → r.scrubWake = none →
        exec (.regionIdleEntry n) s = .next (s.setRgn n { r with
          pstate := .idle
          know := if r.pend && !r.ramp then bits r.vf 4 0 else r.know
          pend := r.pend && r.ramp }))
    ∧ (r.pstate = .idle → s.pwr.napidle ≠ 0 → s.pwr.napidle.toNat ≤ r.idlePips → s.unbound n = true → s.drained n = true →
        r.preq = 0 → r.hold = false →
        exec (.regionNapEntry n) s = .next (s.setRgn n { r with pstate := .nap, scrubWake := none, idlePips := 0 }))
    ∧ (r.pstate = .run → r.scrubWake = some .nap → r.scrubDue = false → s.unbound n = true → s.drained n = true →
        r.preq = 0 → r.hold = false →
        exec (.regionNapEntry n) s = .next (s.setRgn n { r with pstate := .nap, scrubWake := none, idlePips := 0 }))
    ∧ (r.pstate = .waking → r.filling = false → r.rollNext = false →
        ∃ t, exec (.regionLogicUp n) s = .next t ∧ t.mem = s.mem ∧ (t.rgn n).turn = 0
          ∧ (if r.fromNap = true ∧ r.needsClear = false then (t.rgn n).pstate = .run
             else (t.rgn n).pstate = .waking ∧ (t.rgn n).filling = true))
    ∧ (r.pstate = .waking → r.filling = true → r.rollNext = false →
        ∃ t, exec (.zeroFillDone n) s = .next t ∧ (t.rgn n).pstate = .run ∧ (t.rgn n).needsClear = false ∧ (t.rgn n).scrubPtr = 0
          ∧ (∀ off, off < 0x7F0000 → t.peek (0x800000 * n + off) (t.locOf (0x800000 * n + off)) = .good 0 0)
          ∧ (∀ i, i < 0x8000 → t.peek (0x40000000 + 0x8000 * n + i) (t.locOf (0x40000000 + 0x8000 * n + i)) = .good 0 0)
          ∧ ∀ b, inWindow n b = false → inCoef n b = false → SMap.get 0 t.mem b = SMap.get 0 s.mem b)

/-- Planned voltage and frequency, turns, margins and throttling: a lower frequency is in force at once and a higher one
waits; the voltage ramps by at most 4 codes a step to the planned code; RES above 32 is 32; a margin below the threshold
sets LOW; at 100 °C and above the divider in force rises by one step, and below 97 °C it falls by one. -/
def Obligations.RegionPlans : Prop :=
  ∀ (s : State) (who : Master) (n : Nat) (v : Word) (q : BitVec 7) (m : BitVec 10) (temp : BitVec 12), s.regionOn n = true →
    let r := s.rgn n
    let vc := min 120 (v.toNat / 2 ^ 5 % 2 ^ 8)
    let k := min 20 (v.toNat % 2 ^ 5)
    let plan := r.vf.toNat / 2 ^ 5 % 2 ^ 8
    (MayWrite s who (0x100002 + n * 0x1000) → v &&& 0xFC000 = 0 →
      exec (.rgnVf who n v) s = .next (s.setRgn n { r with
        vf := BitVec.ofNat 20 (vc * 32 + k), know := max r.know k, pend := decide (k < r.know), ramp := decide (r.vnow ≠ vc) }))
    ∧ (r.ramp = true → ∃ x, exec (.voltageRampStep n) s = .next (s.setRgn n { r with vnow := x, ramp := decide (x ≠ plan) })
        ∧ (r.vnow < plan → x = min plan (r.vnow + 4)) ∧ (plan ≤ r.vnow → x = max plan (r.vnow - 4)))
    ∧ (MayWrite s who (0x100004 + n * 0x1000) → v &&& 0xFFE00 = 0 →
        exec (.rgnTurns who n v) s = .next (s.setRgn n { r with
          turns := BitVec.ofNat 20 (v.toNat / 2 ^ 6 % 8 * 64 + min 32 (v.toNat % 2 ^ 6)) }))
    ∧ (r.pstate = .run ∨ r.pstate = .idle ∨ r.pstate = .rolling → r.moved = 0x7F → q ≠ 127 → r.low = false → m.toNat < r.rmth.toNat →
        (∀ p, p < 128 → p ≠ q.toNat → (SMap.get 0 r.sq p).getLsbD 19 = false) →
        ∃ t, exec (.marginMeasurement n q m) s = .next t ∧ (t.rgn n).low = true ∧ (t.rgn n).lowsq = q
          ∧ SMap.get 0 (t.rgn n).sq q.toNat = 0x80000 ||| m.zeroExtend 20 ∧ t.keeper.low = s.keeper.low ++ [n] ∧ t.int.wr = s.int.wr + (if (s.int.wr - s.int.rd).toNat = 256 then 0 else 1))
    ∧ (r.moved ≠ 0x7F → exec (.marginMeasurement n r.moved m) s = .next s)
    ∧ (r.pstate ≠ .off → ∃ t, exec (.thermalThrottleStep n temp) s = .next t ∧ (t.rgn n).temp = temp ∧ (t.rgn n).tempOk = true
        ∧ (800 ≤ temp.toInt → r.kNow < 20 → (t.rgn n).kNow = r.kNow + 1)
        ∧ (800 ≤ temp.toInt → r.kNow = 20 → (t.rgn n).kNow = 20)
        ∧ (776 ≤ temp.toInt → temp.toInt < 800 → (t.rgn n).kNow = r.kNow)
        ∧ (temp.toInt < 776 → (t.rgn n).thermal = r.thermal - 1)
        ∧ (800 ≤ temp.toInt → t.pwr.statTemp = s.pwr.statTemp ||| 0x40))

/-- RGN_ECC_FLIP: writing its high word arms the mask with the low word written before; the next word written through
the board takes the mask, which disarms it, and INT_FLIP_ADDR names the word. -/
def Obligations.FlipMask : Prop :=
  ∀ (s : State) (who : Master) (n : Nat) (v w : Word) (q : BoardReq), s.regionOn n = true →
    let r := s.rgn n
    let a := 0x800000 * n + q.off
    (MayWrite s who (0x100201 + n * 0x1000) → v &&& 0x7F800 = 0 →
      exec (.rgnEccFlip who n v) s = .next (s.setRgn n { r with flip := v ++ r.flipLow }))
    ∧ (r.pstate = .run → r.waiting = [] → q.slot < 16 → q.off < 0x7F0000 → r.armed = true → q.kind = .write w →
        r.scrubDue = false → s.int.ivl ≠ 0 →
        ∃ t, exec (.boardAccessGrant n [q]) s = .next t ∧ (t.rgn n).armed = false ∧ t.int.flipAddr = BitVec.ofNat 40 a
          ∧ t.stored a (q.off / 127) = encode w (q.off / 127) ^^^ r.flip.extractLsb' 0 31)

/-! ## Fabric, DMA, HBM -/

/-- A grant at a target port whose lanes are free: of the oldest waiting burst of each master, one marked class 0 goes first
unless seven of them in a row have passed another one, and among its class the next master in rotation goes; a piece of at
most 16 beats leaves, of one beat for a channel with PACE; the rotation and the count of class-0 grants follow, and the
rest of a burst competes again once its piece has crossed. A burst is class 0 by the context bound to its cluster, by its
channel's C0, or by the mark with which it came over the bridge. A region that rolls refuses what waits for it, and one that
does not run is woken while it waits. A port with no piece waiting or in flight stops its clock, a target port and a
master port alike. HBM: a read of a block that decodes returns its words, one of a poisoned or uncorrectable block the
error, and two corrected bits are written back; a whole-block write encodes its 24 words, and a write of a part merges
them, unless the block is bad, which the writer is told; the scrubber re-encodes a block with corrections, and poisons one
that it cannot correct. -/
def Obligations.FabricAndStackAccesses : Prop :=
  (∀ (s : State) (d p m : Nat) (reqs : List PieceReq), d < 4 → p < 15 → m < 66 →
    (p < 12 → s.regionOn (12 * d + p) = true) →
    let f := s.fabric d
    let new := (reqs.filter (fun x => decide (x.master < 66) && decide (1 ≤ x.beats) && decide (x.beats ≤ 256))).map
      (fun x => ({ req := x, left := x.beats } : Burst))
    let w := (SMap.get [] f.waiting p ++ new).filter (fun b => !s.withdraws d b)
    let heads := w.filter (fun x => w.find? (fun y => y.req.master == x.req.master) == some x)
    let cls (b : Burst) : Bool :=
      if b.req.master < 48 then
        (match (s.core (24 * d + b.req.master % 24)).bound with | some c => decide ((s.ctl c).toNat / 2 ^ 14 % 8 = 0) | none => false)
      else if b.req.master < 64 then (s.chan (16 * d + b.req.master - 48)).act.ctl.getLsbD 14
      else decide (b.req.master = 65) && b.req.c0
    let beats (b : Burst) : Nat :=
      if 48 ≤ b.req.master ∧ b.req.master < 64 ∧ (s.chan (16 * d + b.req.master - 48)).act.ctl.toNat / 2 ^ 4 % 2 ^ 4 ≠ 0
      then min 1 b.left else min 16 b.left
    let dist (x : Burst) : Nat := (x.req.master + 66 - SMap.get 0 f.rot p % 66) % 66
    let run := SMap.get 0 f.c0run p
    let c0 := heads.any cls && !(decide (7 ≤ run) && heads.any (fun x => !cls x))
    let piece (x : Burst) : Burst := { x with left := x.left - beats x, begun := true }
    (s.fabricOff d = false → w ≠ [] → (∀ x ∈ w, x.req.master < 66 ∧ f.laneFree p x = true) →
        (p < 12 → (s.rgn (12 * d + p)).pstate = .run) →
        ∃ t x, exec (.fabricPieceGrant d p reqs) s = .next t ∧ x ∈ heads ∧ cls x = c0
          ∧ (∀ y ∈ heads, cls y = c0 → dist x ≤ dist y)
          ∧ SMap.get 0 (t.fabric d).rot p = (x.req.master + 1) % 66
          ∧ SMap.get 0 (t.fabric d).c0run p = (if cls x = true ∧ w.any (fun y => !cls y) = true then min 7 (run + 1) else 0)
          ∧ SMap.get [] (t.fabric d).waiting p = w.erase x
          ∧ SMap.get [] (t.fabric d).flight p = SMap.get [] f.flight p ++ [piece x])
    ∧ (∀ b, s.fabricOff d = false → w = [] → SMap.get [] f.flight p = [b] → b.left ≠ 0 → b.req.master < 66 →
        (f.land p).laneFree p b = true → (p < 12 → (s.rgn (12 * d + p)).pstate = .run) →
        ∃ t, exec (.fabricPieceGrant d p reqs) s = .next t ∧ SMap.get [] (t.fabric d).flight p = [piece b]
          ∧ SMap.get [] (t.fabric d).waiting p = [])
    ∧ (p < 12 → s.fabricOff d = false → w ≠ [] → ∃ t, exec (.fabricPieceGrant d p reqs) s = .next t ∧ t.mem = s.mem ∧
        let q := (s.rgn (12 * d + p)).pstate
        let held := SMap.get [] (t.fabric d).waiting p = w ∧ (t.fabric d).flight = f.flight
        (q = .rolling → SMap.get [] (t.fabric d).waiting p = [])
          ∧ (q = .idle → held ∧ (t.rgn (12 * d + p)).pstate = .run)
          ∧ (q = .nap ∨ q = .off ∨ q = .waking → held ∧ (t.rgn (12 * d + p)).pstate = .waking))
    ∧ (SMap.get [] f.waiting p = [] → SMap.get [] f.flight p = [] →
        ∃ t, exec (.fabricPortClockStop d p) s = .next t ∧ SMap.get false (t.fabric d).stopped p = true
          ∧ (t.fabric d).waiting = f.waiting ∧ (t.fabric d).flight = f.flight ∧ (t.fabric d).rot = f.rot)
    ∧ ((∀ e ∈ f.waiting ++ f.flight, ∀ b ∈ e.2, b.req.master ≠ m) →
        ∃ t, exec (.fabricPortClockStop d (15 + m)) s = .next t ∧ SMap.get false (t.fabric d).stopped (15 + m) = true
          ∧ (t.fabric d).waiting = f.waiting ∧ (t.fabric d).flight = f.flight ∧ (t.fabric d).rot = f.rot))
  ∧ (∀ (s : State) (who : Master) (a : Dbl) (h o cnt data k : Nat) (ws : List Word), s.up = true → s.fabricOff h = false →
    s.locOf a.toNat = .hbm h o → reaches who (.hbm h o) true = true →
    let b := o / 24
    let w := o % 24
    let x := s.block h b
    let i := hbmIndex h b
    let others (t : State) : Prop := ∀ g c, g < 4 → c < 2 ^ 29 → (g, c) ≠ (h, b) → t.block g c = s.block g c
    let gives (r : LdData) (y : BitVec 512) : Prop :=
      ∃ t, exec (.hbmRead who a cnt) s = .next t ∧ t.block h b = y ∧ others t ∧ t.outs.hbmReads = s.outs.hbmReads ++ [r]
    (blockDecode x i = .clean data k → gives (.ok ((List.range (min cnt (24 - w))).map (fun j => blockWord data (w + j))))
        (if k = 2 then blockEncode data i 0 else x))
    ∧ (blockDecode x i = .poisoned data k → gives (.bad .poison a.toNat) (if k = 2 then blockEncode data i 0x5A5 else x))
    ∧ (blockDecode x i = .uncorr → gives (.bad .uncorr a.toNat) x)
    ∧ (w = 0 → ws.length = 24 → ∃ t e, exec (.hbmWholeBlockWrite who a ws) s = .next t ∧ t.block h b = blockEncode e i 0
        ∧ (∀ j, j < 24 → blockWord e j = ws.getD j 0) ∧ others t ∧ t.outs.hbmWrites = s.outs.hbmWrites ++ [none])
    ∧ (w + ws.length ≤ 24 → data < 2 ^ 480 →
        (blockDecode x i = .clean data k → ∃ t e, exec (.hbmReadModifyWrite who a ws) s = .next t ∧ t.block h b = blockEncode e i 0
          ∧ (∀ j, j < 24 → blockWord e j = (if w ≤ j ∧ j < w + ws.length then ws.getD (j - w) 0 else blockWord data j)) ∧ others t
          ∧ t.outs.hbmWrites = s.outs.hbmWrites ++ [none])
        ∧ (blockDecode x i = .poisoned data 0 ∨ blockDecode x i = .uncorr →
            ∃ t, exec (.hbmReadModifyWrite who a ws) s = .next t ∧ t.hbm = s.hbm
              ∧ t.outs.hbmWrites = s.outs.hbmWrites ++ [some (if blockDecode x i = .uncorr then .uncorr else .poison)]))
    ∧ ∀ g, g < 4 → s.fabricOff g = false →
        let m := SMap.get 0 s.walkers (128 + g) % (s.hbmSize / 24)
        let j := hbmIndex g m
        ∃ t, exec (.hbmScrubBlock g) s = .next t ∧ SMap.get 0 t.walkers (128 + g) = (m + 1) % (s.hbmSize / 24)
          ∧ (match blockDecode (s.block g m) j with
            | .clean d k => t.block g m = if k = 0 then s.block g m else blockEncode d j 0
            | .poisoned d k => t.block g m = if k = 0 then s.block g m else blockEncode d j 0x5A5
            | .uncorr => t.block g m = blockEncode ((s.block g m).toNat % 2 ^ 480) j 0x5A5
                ∧ t.outs.keeper = s.outs.keeper ++ [.log 9])
          ∧ ∀ g' c, g' < 4 → c < 2 ^ 29 → (g', c) ≠ (g, m) → t.block g' c = s.block g' c)

/-- A write to a shadow register other than SH_CTL clears SH_CTL.VALID, so that a half-written descriptor is not
promoted. A trigger, START or the event that TRIG names, promotes a valid shadow of an idle channel and runs it, runs an
armed descriptor, and else starts nothing and sets TLOST; a channel that starts to run presents its first read, of the
words up to the end of their group of eight. -/
def Obligations.Triggers : Prop :=
  ∀ (s : State) (n : Nat), n < 96 →
    let d := s.chan n
    let kept (e : Dma) : Prop := e.trig = d.trig ∧ e.ctx = d.ctx ∧ e.ndesc = d.ndesc ∧ e.stopreq = d.stopreq ∧ e.cause = d.cause
    let readable (a : Int) : Prop := ∀ i, i < 8 → reaches (.dma n) (s.dmaLoc (a + (i : Nat))) false = true
    let triggered (t : State) : Prop :=
      let e := t.chan n
      if d.state = .idle ∧ d.sh.ctl.getLsbD 19 = true then
        e.state = .running ∧ e.act.dst = d.sh.dst ∧ e.act.sstr = d.sh.sstr ∧ e.act.dstr = d.sh.dstr
          ∧ e.act.ctl = d.sh.ctl ∧ e.rlen = d.sh.count ∧ e.sh = { d.sh with ctl := d.sh.ctl &&& 0x7FFFF } ∧ e.done = 0 ∧ e.faddr = 0
          ∧ e.tlost = d.tlost ∧ kept e ∧ e.wq = []
          ∧ (d.sh.count ≠ 0 → d.sh.rows ≠ 0 → d.sh.skind = 0 → d.sh.dkind = 0 → readable (d.sh.src.toNat : Int) →
              e.rq.head? = some { t := 0, addr := (d.sh.src.toNat : Int), writes := 0
                                  cnt := min d.sh.count.toNat (8 - d.sh.src.toNat % 8) })
      else if d.state = .armed then
        e.state = .running ∧ e.sh = d.sh ∧ e.act.dst = d.act.dst ∧ e.act.ctl = d.act.ctl ∧ e.rlen = d.rlen ∧ e.done = d.done
          ∧ e.tlost = d.tlost ∧ kept e ∧ e.wq = d.wq
          ∧ (d.fail = none → d.killed = false → d.rq = [] → d.act.count ≠ 0 → d.act.rows ≠ 0 → d.act.skind = 0 →
              readable (d.srcAt d.readT) →
              e.rq.head? = some { t := d.readT, addr := d.srcAt d.readT, writes := d.wrT
                                  cnt := min d.act.count.toNat (8 - (d.srcAt d.readT % 8).toNat) })
      else e = { d with tlost := true }
    (∀ who (off : BitVec 4) v, MayWrite s who (0x30000 + n * 0x40 + (0x10 + off.toNat)) → off.toNat < 10 →
      ∃ e, exec (.dmaShadowWrite who n off v) s = .next (s.setChan n e) ∧ e.sh.ctl.getLsbD 19 = false ∧ e.sh.get off.toNat = v
        ∧ (∀ i, i < 10 → i ≠ off.toNat → e.sh.get i = d.sh.get i) ∧ e.act = d.act ∧ e.state = d.state ∧ kept e)
    ∧ (∀ who, MayWrite s who (0x30000 + n * 0x40 + 0x20) → ∃ t, exec (.dmaStart who n) s = .next t ∧ triggered t ∧ t.mem = s.mem)
    ∧ (∀ die kind num, n ∈ dieChans die → d.trig.toNat / 2 ^ 18 = kind → d.trig.toNat % 2 ^ 7 = num →
        triggered (s.dmaEvent die kind num))
    ∧ (∀ die kind num, d.trig.toNat / 2 ^ 18 ≠ kind ∨ d.trig.toNat % 2 ^ 7 ≠ num → (s.dmaEvent die kind num).chan n = d)

/-- STOP, CLEAR and KILL in each state of a channel; a KILL by a steward core at S is ignored. A channel that is killed
halts once no write of it is unanswered. What moves a running descriptor: a read beat whose words go to the write side,
with the next read presented and SRC, COUNT and ROWS then as R299 has them; a read of host memory that the host completes
with an error or with poisoned data; a write answered, its words stored and counted in DONE; its completion, with the
promotion of a valid shadow; its halt; and a host read that no completion answers. -/
def Obligations.ChannelCommandsAndTransfers : Prop :=
  (∀ (s : State) (who : Master) (n : Nat), n < 96 → MayWrite s who (0x30000 + n * 0x40 + 0x20) →
    let d := s.chan n
    let atS : Bool := match who with | .core j => (s.core j).cst.pl != .m | _ => false
    exec (.dmaStop who n) s = .next (if d.state = .running then s.setChan n { d with stopreq := true }
      else if d.state = .armed then s.setChan n { d with state := .idle, act := { d.act with ctl := d.act.ctl &&& 0x7FFFF } } else s)
    ∧ exec (.dmaClear who n) s = .next (if d.state = .halted then
        s.setChan n { d with state := .idle, cause := 0, act := { d.act with ctl := d.act.ctl &&& 0xBFFFF } } else s)
    ∧ (atS = true ∨ d.state = .halted → exec (.dmaKill who n) s = .next s)
    ∧ (atS = false → d.state ≠ .halted → ∃ t, exec (.dmaKill who n) s = .next t ∧ let e := t.chan n
        e.rq = [] ∧ (if e.wq = [] then
            e.state = .halted ∧ e.cause = 6 ∧ e.act.ctl.getLsbD 18 = true ∧ t.outs.keeper.getLast? = some (.dma n)
          else e.killed = true ∧ e.state = d.state ∧ ∃ j, e.wq.flatMap (fun q => q.ws) = (d.wq.flatMap (fun q => q.ws)).take j)))
  ∧ (∀ (s : State) (n : Nat), n < 96 →
    let d := s.chan n
    let a := d.srcAt d.readT
    let k := min d.act.count.toNat (8 - (a % 8).toNat)
    let last := d.act.count = BitVec.ofNat 20 k
    (∀ (ws : List Word) r rest b, d.state = .running → d.fail = none → d.killed = false → d.rq = r :: rest → d.writeBeats < 15 →
      (∀ q ∈ d.wq, r.writes < q.t + q.ws.length ∨ s.meet d r q = false) →
      d.act.skind = 0 → d.act.dkind = 0 → ws.length = r.cnt → r.addr = Int.ofNat b → b + r.cnt ≤ 2 ^ 40 →
      s.gate (2, n) b (s.dmaLoc r.addr) = .go s →
      (∀ i, i < r.cnt → (∃ m off, s.locOf (b + i) = .region m off) ∧ s.peek (b + i) (s.locOf (b + i)) = .good (ws.getD i 0) 0
        ∧ reaches (.dma n) (s.dmaLoc (d.dstAt (r.t + i))) true = true) →
      ∃ e, exec (.dmaReadReturn n [] .good) s = .next (s.setChan n e) ∧ e.state = .running ∧ e.done = d.done
        ∧ e.wq.flatMap (fun q => q.ws) = d.wq.flatMap (fun q => q.ws) ++ ws
        ∧ (d.act.rows = 0 → e.rq = rest ∧ e.fail = none ∧ e.readT = d.readT ∧ e.act.src = d.act.src)
        ∧ (d.act.rows ≠ 0 → d.act.count ≠ 0 → rest.length = 15 →
            (∀ i, i < 8 → reaches (.dma n) (s.dmaLoc (a + (i : Nat))) false = true) →
            e.fail = none ∧ e.readT = d.readT + k ∧ e.rq = rest ++ [{ t := d.readT, addr := a, cnt := k, writes := e.wrT }]
            ∧ e.act.rows = (if last then d.act.rows - 1 else d.act.rows)
            ∧ e.act.count = (if last then (if d.act.rows = 1 then 0 else d.rlen) else d.act.count - BitVec.ofNat 20 k)
            ∧ e.act.src = (if last ∧ d.act.rows ≠ 1 then d.act.src + BitVec.ofNat 40 k - d.rlen.zeroExtend 40 + d.act.sstr
                else d.act.src + BitVec.ofNat 40 k)))
    ∧ (∀ r rest (c : HostCpl), d.state = .running → d.fail = none → d.killed = false → d.rq = r :: rest → d.act.skind = 2 →
        d.writeBeats < 15 → (∀ q ∈ d.wq, s.meet d r q = false) → c ≠ .good →
        ∃ t, exec (.dmaReadReturn n [] c) s = .next t ∧ t.host.err = s.host.err ||| 1 ∧ t.mem = s.mem
          ∧ (t.chan n).fail = some { cause := if c = .poisoned then 3 else 4, wr := false, addr := BitVec.ofInt 40 r.addr, t := r.t }
          ∧ (t.chan n).wq = d.wq ∧ (t.chan n).state = .running)
    ∧ (∀ q rest m b, d.wq = q :: rest → s.writeWhole d q = true → d.fail = none → d.unpred = false → d.act.dkind = 0 →
        (∀ r ∈ d.rq, q.reads ≤ r.t ∨ s.meet d r q = false) → q.addr = Int.ofNat b → b + q.ws.length ≤ 2 ^ 40 → (∃ off, s.locOf b = .region m off) →
        (∀ i, i < q.ws.length → ∃ off, s.locOf (b + i) = .region m off) → (s.rgn m).armed = false →
        s.gate (2, n) b (s.locOf b) = .go s →
        ∃ t, exec (.dmaWriteResponse n) s = .next t ∧ t.chan n = { d with wq := rest, done := d.done + BitVec.ofNat 40 q.ws.length }
          ∧ (∀ i, i < q.ws.length → t.peek (b + i) (t.locOf (b + i)) = .good (q.ws.getD i 0) 0)
          ∧ ∀ x, x < b ∨ b + q.ws.length ≤ x → t.peek x (t.locOf x) = s.peek x (s.locOf x))
    ∧ (d.state = .running → d.fail = none → d.killed = false → d.act.rows = 0 → d.rq = [] → d.wq = [] →
        ¬ (d.trig.toNat / 2 ^ 18 = 2 ∧ d.trig.toNat % 2 ^ 7 = n) →
        ∃ t, exec (.dmaCompletion n) s = .next t ∧ let e := t.chan n
          e.ndesc = d.ndesc + 1 ∧ e.stopreq = false
          ∧ (if d.sh.ctl.getLsbD 19 = true ∧ d.stopreq = false then
              e.state = (if d.sh.ctl.getLsbD 9 then .armed else .running) ∧ e.rlen = d.sh.count ∧ e.sh.ctl = d.sh.ctl &&& 0x7FFFF ∧ e.done = 0
             else e.state = .idle ∧ e.sh = d.sh ∧ e.done = d.done))
    ∧ (∀ f, d.state = .running ∨ d.state = .armed → d.fail = some f → d.killed = false → d.rq = [] → d.wq = [] →
        ∃ t, exec (.dmaHalt n) s = .next t ∧ t.outs.keeper.getLast? = some (.dma n) ∧ let e := t.chan n
          e.state = .halted ∧ e.cause = BitVec.ofNat 4 f.cause ∧ e.wr = f.wr ∧ e.faddr = f.addr ∧ e.done = BitVec.ofNat 40 f.t
          ∧ e.act.ctl = (d.act.ctl &&& 0x7FFFF) ||| 0x40000 ∧ e.sh = d.sh ∧ e.ndesc = d.ndesc ∧ e.act.count = d.act.count
          ∧ e.act.rows = d.act.rows ∧ e.act.src = d.act.src ∧ e.act.dst = d.act.dst)
    ∧ (∀ r rest, d.state = .running → d.act.skind = 2 → d.fail = none → d.killed = false → d.rq = r :: rest →
        ∃ t, exec (.hostDmaTimeout n) s = .next t ∧ t.host.err = s.host.err ||| 1
          ∧ t.chan n = { d with fail := some { cause := 4, wr := false, addr := BitVec.ofInt 40 r.addr, t := r.t }
                                rq := d.rq.filter (fun x => decide (x.t < r.t)) }))

/-! ## Links -/

/-- Frames received on an Ethernet port that hears them: a failed FCS, a bad length and a foreign unicast address are
dropped and counted; the others go, by EtherType, to the context of their flow entry, with the entry's WK of that moment, to
the PTP service context or to the port's, timed by the PTP clock, or are dropped and counted where no context may take them. Frames received on a Bosum link. A MSG or SIG
frame with a failed CRC or out of order is answered by NAK; one in order is delivered, forwarded with HOPS one less, or
dropped and counted in LNK_NOROUTE. CTRL and NAK free what their ACK covers and return tokens, and a NAK replays the
rest; an INIT gives the peer's number and tokens, and brings the link up where INIT has been sent. -/
def Obligations.FrameReception : Prop :=
  (∀ (s : State) (p sub : Nat) (f : EthFrame), p < 8 →
    let x := s.port p
    let hears := x.ctl.getLsbD 19 = true ∧ x.ctl.getLsbD 18 = false ∧ sub < 2 ^ (x.ctl.toNat / 2 ^ 16 % 4)
      ∧ x.up.toNat / 2 ^ sub % 2 = 1
    let out := exec (.ethernetFrameReceive p sub f) s
    let got := x.count 0 1
    let foreign := (f.bytes.headD 0).getLsbD 0 = false ∧ beNat (slice f.bytes 0 6) ≠ x.mac.toNat
    let good := hears ∧ f.fcsOk = true ∧ 60 ≤ f.bytes.length ∧ f.bytes.length ≤ 9212 ∧ ¬ foreign
    let drops : Prop := ∃ t, out = .next t ∧ t.port p = got.count 3 1 ∧ t.lnk = s.lnk
    let gives (c : Nat) (i : Option Nat) (wk kind : Nat) (w1 w2 w3 : Nat) (time : List Word) (payload : List Byte) : Prop :=
      ∃ t, out = .next t ∧ t.port p = got ∧ t.lnk.deliveries = s.lnk.deliveries ++
        [{ ctx := c, flow := i, buf := none, wk := wk,
           words := entry kind p (BitVec.ofNat 20 w1) (BitVec.ofNat 20 w2) (BitVec.ofNat 20 w3) time (packBytes payload) }]
    let b := untag f.bytes
    let etype := beNat (slice b 12 2)
    let vers := beNat (slice b 14 1)
    let type := beNat (slice b 15 1)
    let id := beNat (slice b 18 2)
    let body := slice b 22 (beNat (slice b 16 2) - 4)
    let w := SMap.get 0 s.lnk.flow (3 * id + 1)
    let accepts := w.getLsbD 19 = true ∧ w.toNat / 2 ^ (11 + p) % 2 = 1 ∧ (if type = 0 then w.getLsbD 10 else w.getLsbD 9) = true
    let service (kind : Nat) (time : List Word) (l : List Byte) : Prop :=
      if x.ctl.getLsbD 12 then gives x.svc.toNat none 0 kind etype sub l.length time l else drops
    (¬ hears → out = .next s)
    ∧ (hears → f.fcsOk = false → out = .next (s.setPort p (x.count 2 1)))
    ∧ (hears → f.fcsOk = true → f.bytes.length < 60 ∨ 9212 < f.bytes.length ∨ foreign → drops)
    ∧ (good → etype = 0x88F7 →
        if s.ptp.svcen then gives s.ptp.svc.toNat none 0 5 etype sub b.length (words80 s.ptp.time) b else drops)
    ∧ (good → etype = 0xAEFE → vers % 2 = 1 ∨ vers / 16 ≠ 1 → drops)
    ∧ (good → etype = 0xAEFE → vers % 2 = 0 → vers / 16 = 1 →
        (type = 0 ∨ type = 2 → if accepts then
            gives (SMap.get 0 s.lnk.flow (3 * id)).toNat (some id) (w.toNat / 2 ^ 5 % 2 ^ 4) (type / 2) id (beNat (slice b 20 2))
              body.length [] body
          else drops)
        ∧ (type = 5 → service 2 (words80 s.ptp.time) (slice b 18 (beNat (slice b 16 2))))
        ∧ (type ≠ 0 → type ≠ 2 → type ≠ 5 → service 4 [] b))
    ∧ (good → etype ≠ 0x88F7 → etype ≠ 0xAEFE → service 4 [] b))
  ∧ (∀ (s : State) (p : Nat) (f : BosumFrame) (i : Instr), p < 8 → (s.port p).en = true → (s.port p).bosum = true →
    (s.port p).linkUp = true →
    let x := s.port p
    let nak (t : State) : Prop := t.lnk = s.lnk ∧ (t.port p).rxSeq = x.rxSeq
      ∧ ∃ g, (t.port p).sent = x.sent ++ [.msg false g] ∧ g.type = 3 ∧ g.ack = x.rxSeq
    let here := f.ddev = s.lnk.devnum
    let r := SMap.get 0 s.lnk.route f.ddev.toNat
    let q := r.toNat % 8
    let route := f.hops ≠ 0 ∧ r.getLsbD 19 = true ∧ (s.port q).bosum = true ∧ (s.port q).en = true ∧ (s.port q).linkUp = true
    let c := f.h4.toNat
    let freed (b : BitVec 12) (n : Nat) (t : State) : Prop :=
      (∀ u ∈ x.unacked.head?, u.seq = b) → n ≤ x.unacked.length → x.unacked.length < 4096 → f.ack = b + BitVec.ofNat 12 n →
        (t.port p).unacked = x.unacked.drop n
    let tokens (t : State) : Prop := (t.port p).tok0 = x.tok0 + f.h3.toNat % 1024 ∧ (t.port p).tok1 = x.tok1 + f.h3.toNat / 1024
    (i = .bosumMsgReceive p f ∨ i = .bosumSigReceive p f →
      (f.crcOk = false → ∃ t, exec i s = .next t ∧ nak t ∧ SMap.get 0 (t.port p).cnts 2 = SMap.get 0 x.cnts 2 + 1)
      ∧ (f.crcOk = true → f.legal = true → i = (if f.type = 0 then .bosumMsgReceive p f else .bosumSigReceive p f) → f.type < 2 →
        (f.seq ≠ x.rxSeq → ∃ t, exec i s = .next t ∧ nak t)
        ∧ (f.seq = x.rxSeq → ∃ t, exec i s = .next t ∧ (t.port p).rxSeq = x.rxSeq + 1 ∧ (t.port p).ackDue = true ∧ tokens t
          ∧ (¬ here ∧ route → ∃ g, (t.port q).txq = (s.port q).txq ++ [(0, .msg f.vc1 g)] ∧ g.hops = f.hops - 1 ∧ g.type = f.type
              ∧ g.ddev = f.ddev ∧ g.h4 = f.h4 ∧ g.h6 = f.h6 ∧ g.h7 = f.h7 ∧ g.payload = f.payload ∧ g.vc1 = f.vc1)
          ∧ (¬ here ∧ ¬ route → t.lnk.noroute = s.lnk.noroute + 1)
          ∧ (here ∧ f.type = 0 → t.lnk.deliveries = s.lnk.deliveries ++ [{
              ctx := c, flow := none, buf := some (p, f.vc1, (f.len + 71) / 64), words := entry 3 p f.h6 (f.h7 &&& 0xFFF) (f.h7 >>> 12) [] f.payload }])
          ∧ (∀ v w, here ∧ f.type = 1 → CbIs s c 0 v → CbIs s c 1 w → v.toNat / 2 ^ 17 ≠ 0 → t.cb c 1 = w ||| 0x4000))))
    ∧ (f.crcOk = true → f.legal = true → f.type = 2 →
        ∃ t, exec (.bosumCtrlReceive p f) s = .next t ∧ tokens t ∧ (t.port p).sent = x.sent ∧ ∀ b n, freed b n t)
    ∧ (f.crcOk = true → f.legal = true → f.type = 3 → x.replays < 15 →
        ∃ t, exec (.bosumNakReceive p f) s = .next t ∧ tokens t ∧ ∀ b n, freed b n t
          ∧ ((t.port p).unacked = x.unacked.drop n → ∃ l, (t.port p).sent = x.sent ++ l ∧ l.map sentData = (x.unacked.drop n).map keptData))
    ∧ (f.crcOk = true → f.legal = true → f.type = 4 → ∀ u, u = { s with ports := SMap.set {} s.ports p { x with linkUp := false } } →
        ∃ t, exec (.bosumInitReceive p f) u = .next t ∧ let y := t.port p
          y.peer = f.h7.extractLsb' 0 12 ∧ y.tok0 = f.h3.toNat % 1024 ∧ y.tok1 = f.h3.toNat / 1024 ∧ y.initGot = true
          ∧ (if x.initSent then y.linkUp = true ∧ y.pv = true ∧ y.up = 1 ∧ y.txSeq = 0 ∧ y.rxSeq = 0 ∧ y.unacked = []
             else y.linkUp = false)))

/-- What a link does by itself: replays after 8 µs, CTRL and INIT frames, transmission in order, where under verified frame
preemption an express frame goes before all others and may cut one of them, and the changes of block lock with the
link-down they cause. -/
def Obligations.LinkOperation : Prop :=
  ∀ (s : State) (p sub : Nat), p < 8 →
    let x := s.port p
    let on := x.en = true ∧ x.bosum = true
    let count (t : State) (i n : Nat) : Prop := SMap.get 0 (t.port p).cnts i = SMap.get 0 x.cnts i + BitVec.ofNat 40 n
    let down (t : State) : Prop := (t.port p).linkUp = false ∧ (t.port p).txq = [] ∧ (t.port p).unacked = [] ∧ (t.port p).bdown = true
      ∧ (t.port p).pv = false ∧ (t.port p).up = 0 ∧ count t 3 (x.txq.length + x.unacked.length)
      ∧ t.outs.keeper = s.outs.keeper ++ [.linkDown p]
    (on → x.linkUp = true → x.unacked ≠ [] →
      ∃ t, exec (.replayTimeout p) s = .next t ∧ count t 4 1
        ∧ (x.replays < 15 → (t.port p).unacked = x.unacked
            ∧ ∃ l, (t.port p).sent = x.sent ++ l ∧ l.map sentData = x.unacked.map keptData)
        ∧ (15 ≤ x.replays → down t))
    ∧ (on → x.linkUp = true → x.ackDue = true ∨ x.ret0 ≠ 0 ∨ x.ret1 ≠ 0 →
      ∃ t g, exec (.ctrlFrameSend p) s = .next t ∧ (t.port p).sent = x.sent ++ [.msg false g] ∧ g.type = 2 ∧ g.ack = x.rxSeq
        ∧ g.h3.toNat = min x.ret1 1023 * 1024 + min x.ret0 1023 ∧ (t.port p).ackDue = false ∧ count t 1 1)
    ∧ (on → x.linkUp = false → x.lock.getLsbD 0 = true →
      ∃ t g, exec (.initFrameSend p) s = .next t ∧ (t.port p).sent = x.sent ++ [.msg false g] ∧ g.type = 4
        ∧ g.h7 = s.lnk.devnum.zeroExtend 20 ∧ g.h3.toNat = 896 * 1024 + 128 ∧ (t.port p).initSent = true ∧ count t 1 1
        ∧ (t.port p).linkUp = x.initGot)
    ∧ (x.en = true → x.bosum = false → sub < 8 → x.up.toNat / 2 ^ sub % 2 = 1 → ∀ l m c0 kind one n b,
        let f : TxFrame := .eth c0 kind one n b
        x.txq = l ++ (sub, f) :: m → (∀ e ∈ l, e.1 ≠ sub) →
        x.preempting = false ∨ f.express = true ∨ (∀ e ∈ m, e.1 = sub → e.2.express = false) →
        ∃ t, exec (.frameTransmit p sub) s = .next t ∧ (t.port p).txq = l ++ m ∧ count t 1 1
          ∧ (t.port p).sent = x.sent ++ [.eth c0 kind one n (stampFrame kind one s.ptp.time b)]
          ∧ (kind = 5 → one = false → s.ptp.svcen = true → t.lnk.deliveries = s.lnk.deliveries ++ [{
              ctx := s.ptp.svc.toNat, flow := none, buf := none, words := entry 6 p (BitVec.ofNat 20 n) (BitVec.ofNat 20 sub) 0 (words80 s.ptp.time) [] }]))
    ∧ (x.en = true → x.bosum = false → sub < 8 → x.up.toNat / 2 ^ sub % 2 = 1 → x.preempting = true → ∀ l m c0 kind one n b,
        c0 = true ∨ kind = 5 ∨ kind = 2 → x.txq = l ++ (sub, .eth c0 kind one n b) :: m → (∀ e ∈ l, e.1 = sub → e.2.express = false) →
        ∃ t cut, exec (.frameTransmit p sub) s = .next t ∧ (t.port p).txq = l ++ m ∧ count t 1 1 ∧ count t 7 1
          ∧ (t.port p).sent = x.sent ++ cut ++ [.eth c0 kind one n (stampFrame kind one s.ptp.time b)]
          ∧ (cut = [] ∨ ∃ c1 k1 o1 n1 b1 i j, (sub, .eth c1 k1 o1 n1 b1) ∈ l ∧ cut = [.frag (slice b1 i j)]))
    ∧ (on → x.up.getLsbD 0 = true → ∀ l m v f, x.txq = l ++ (0, .msg v f) :: m → (∀ e ∈ l, e.1 ≠ 0) →
        (v = true → ∀ e ∈ l ++ m, e.1 = 0 → ∃ g, e.2 = .msg true g) →
        (x.unacked.map (fun u => u.f.cost)).foldl (· + ·) 0 + f.cost ≤ 1024 → x.unacked.length < 2047 →
        f.cost ≤ (if v then x.tok1 else x.tok0) →
        ∃ t g, exec (.frameTransmit p 0) s = .next t ∧ (t.port p).txq = l ++ m ∧ (t.port p).sent = x.sent ++ [.msg v g]
          ∧ g.seq = x.txSeq ∧ g.ack = x.rxSeq ∧ g.payload = f.payload ∧ (t.port p).txSeq = x.txSeq + 1
          ∧ (t.port p).unacked = x.unacked ++ [{ seq := x.txSeq, f := f }] ∧ count t 1 1
          ∧ (t.port p).tok0 = x.tok0 - (if v then 0 else f.cost) ∧ (t.port p).tok1 = x.tok1 - (if v then f.cost else 0))
    ∧ (sub < 8 →
        (∃ t, exec (.pcsBlockLockGain p sub) s = .next t ∧ (t.port p).lock = x.lock ||| upBit sub
          ∧ (t.port p).up = (if x.en = true ∧ x.bosum = false then (x.lock ||| upBit sub) &&& BitVec.ofNat 8 (2 ^ x.links - 1) else x.up))
        ∧ ∃ t, exec (.pcsBlockLockLoss p sub) s = .next t ∧ (t.port p).lock = x.lock &&& ~~~ upBit sub
          ∧ (x.bosum = true → sub = 0 → x.linkUp = true → down t)
          ∧ (x.en = true → x.bosum = false → (t.port p).up = x.lock &&& ~~~ upBit sub &&& BitVec.ofNat 8 (2 ^ x.links - 1)))

/-- Registers of the link block that act: LNK_Pn_CTL, whose MODE and SPLIT stand while EN is 1 and which drops what is
queued when EN falls; LNK_TXSIG, which a core writes after its stores; and the flow table through LNK_FT_IDX and
LNK_FT_CMD, whose write leaves the frames already looked up as they are, under the entry that they met. -/
def Obligations.LinkRegisters : Prop :=
  ∀ (s : State) (who : Master) (p : Nat) (v : Word) (g : Dbl), p < 8 →
    let x := s.port p
    let b := bankOf who
    let c := g.toNat % 2 ^ 20
    let dev : BitVec 12 := g.extractLsb' 20 12
    let i := (SMap.get 0 s.lnk.ftIdx b).toNat
    let r := SMap.get 0 s.lnk.route dev.toNat
    let y := s.port (r.toNat % 8)
    (MayWrite s who (0x40000 + p * 0x100) → v &&& 0xFFF = 0 →
      let ignored := (v.getLsbD 18 = true ∧ v.toNat / 2 ^ 16 % 4 ≠ 0)
        ∨ (x.ctl.getLsbD 19 = true ∧ x.ctl.toNat / 2 ^ 16 % 8 ≠ v.toNat / 2 ^ 16 % 8)
      (ignored → exec (.lnkPnCtl who p v) s = .next s)
      ∧ (¬ ignored → ∃ t, exec (.lnkPnCtl who p v) s = .next t ∧ (t.port p).ctl = v
          ∧ (x.ctl.getLsbD 19 = true → v.getLsbD 19 = false → (t.port p).txq = [] ∧ (t.port p).up = 0 ∧ (t.port p).linkUp = false
              ∧ SMap.get 0 (t.port p).cnts 3 = SMap.get 0 x.cnts 3
                  + BitVec.ofNat 40 (x.txq.length + (if x.bosum = true ∧ x.linkUp = true then x.unacked.length else 0)))
          ∧ (v.getLsbD 19 = true → (t.port p).txq = x.txq
              ∧ (v.getLsbD 18 = false → (t.port p).up = x.lock &&& BitVec.ofNat 8 (2 ^ 2 ^ (v.toNat / 2 ^ 16 % 4) - 1)))))
    ∧ (MayWrite s who 0x40803 → g.toNat < 2 ^ 32 → (∀ k, who = .core k → (s.core k).sbuf = []) →
        (∀ d w, dev = s.lnk.devnum → CbIs s c 0 d → CbIs s c 1 w → d.toNat / 2 ^ 17 ≠ 0 →
          ∃ t, exec (.lnkTxsig who g) s = .next t ∧ t.cb c 1 = w ||| 0x4000)
        ∧ (dev ≠ s.lnk.devnum → r.getLsbD 19 = true → y.bosum = true → y.en = true → y.linkUp = true →
          ∃ t f, exec (.lnkTxsig who g) s = .next t ∧ (t.port (r.toNat % 8)).txq = y.txq ++ [(0, .msg f.vc1 f)] ∧ f.type = 1
            ∧ f.hops = 15 ∧ f.ddev = dev ∧ f.h4 = BitVec.ofNat 20 c ∧ f.len = 0 ∧ (who = .keeper → f.vc1 = false)))
    ∧ (MayWrite s who 0x40804 → v &&& 0xF0000 = 0 →
        ∃ t, exec (.lnkFtIdx who v) s = .next t ∧ SMap.get 0 t.lnk.ftIdx b = v ∧ t.lnk.flow = s.lnk.flow
          ∧ ∀ j, j < 3 → SMap.get 0 t.lnk.ftD (4 * b + j) = SMap.get 0 s.lnk.flow (3 * v.toNat + j))
    ∧ (MayWrite s who 0x40805 →
        ∃ t, exec (.lnkFtCmdWr who) s = .next t ∧ SMap.get 0 t.lnk.flow (3 * i) = SMap.get 0 s.lnk.ftD (4 * b)
          ∧ SMap.get 0 t.lnk.flow (3 * i + 1) = SMap.get 0 s.lnk.ftD (4 * b + 1) &&& 0xFFFE0 ∧ SMap.get 0 t.lnk.flow (3 * i + 2) = 0
          ∧ (∀ j, j < 3 * i ∨ 3 * i + 3 ≤ j → SMap.get 0 t.lnk.flow j = SMap.get 0 s.lnk.flow j)
          ∧ t.lnk.deliveries.map (fun d => (d.ctx, d.words, d.flow, d.wk)) = s.lnk.deliveries.map (fun d => (d.ctx, d.words, d.flow, d.wk))
          ∧ ∀ d ∈ t.lnk.deliveries, d.flow = some i → d.old ≠ none)

/-! ## Time -/

/-- The PTP clock's registers, its timers and its pins: the latched reads of PTP_TOD and PIP_NOW, the writes of PTP_SET
and PTP_ADJ, the capture of both clocks, the events of a timer, and PPS_IN, PPS_OUT, which rises as a whole second comes,
and SYNC_IN. -/
def Obligations.PtpClock : Prop :=
  ∀ (s : State) (who : Master) (v w d : Word) (k : Nat),
    let p := s.ptp
    let x := s.tmr k
    let buf (i : Nat) : Word := SMap.get 0 p.setBuf i
    let now := timeNs p.time
    let next := timeNs x.next
    (MayRead s who 0x50000 → ∃ t, exec (.ptpTodRead who) s = .next t ∧ t.ptp.time = p.time
      ∧ ∀ i, 1 ≤ i → i < 4 → t.regRead who (0x50000 + i) = some (t, p.time.extractLsb' (20 * i) 20))
    ∧ (MayRead s who 0x10104 → ∃ t, exec (.pipNowRead who) s = .next t ∧ t.pip.now = s.pip.now
      ∧ ∀ i, 1 ≤ i → i < 3 → t.regRead who (0x10104 + i) = some (t, s.pip.now.extractLsb' (20 * i) 20))
    ∧ (MayWrite s who 0x50007 → ∃ q, exec (.ptpSet who v) s = .next { s with ptp := q } ∧ q.time = v ++ buf 2 ++ buf 1 ++ buf 0
        ∧ q.frac = p.frac ∧ q.rate = p.rate)
    ∧ (MayWrite s who 0x50009 → ∃ q, exec (.ptpAdj who v) s = .next { s with ptp := q } ∧ q.rate = p.rate
        ∧ (0 ≤ (now : Int) + (v ++ p.adjLow).toInt → (now : Int) + (v ++ p.adjLow).toInt < 2 ^ 48 * 10 ^ 9 →
            (timeNs q.time : Int) = now + (v ++ p.adjLow).toInt))
    ∧ (MayWrite s who 0x5000C → v &&& 0x7F = 0 → ∃ q, exec (.ptpCtlCap who v) s = .next { s with ptp := q } ∧ q.todcap = p.time
        ∧ q.pipcap = s.pip.now ∧ q.time = p.time ∧ q.ppsen = v.getLsbD 18 ∧ q.svcen = v.getLsbD 7 ∧ q.ppsw = v.extractLsb' 10 8
        ∧ q.ppsf = (p.ppsf && !v.getLsbD 9))
    ∧ (k < 64 → MayWrite s who (0x50100 + 8 * k + 3) →
        exec (.tmrNextWrite who k v) s
          = .next (s.setTmr k { x with next := v ++ SMap.get 0 x.buf 2 ++ SMap.get 0 x.buf 1 ++ SMap.get 0 x.buf 0 }))
    ∧ (k < 64 → x.en = false ∨ p.time.toNat < x.next.toNat → exec (.timerEvent k) s = .next s)
    ∧ (k < 64 → x.en = true → x.next.toNat ≤ p.time.toNat → x.next.toNat % 2 ^ 32 < 10 ^ 9 → p.time.toNat % 2 ^ 32 < 10 ^ 9 →
        ∃ t, exec (.timerEvent k) s = .next t ∧ (t.tmr k).fired = true ∧ (t.tmr k).wake = x.wake ∧ (t.tmr k).period = x.period
          ∧ (if x.period = 0 then (t.tmr k).en = false ∧ (t.tmr k).next = x.next
             else (t.tmr k).en = true ∧ (now + x.period.toNat < 2 ^ 48 * 10 ^ 9 →
              ∃ m, 1 ≤ m ∧ timeNs (t.tmr k).next = next + m * x.period.toNat ∧ now < next + m * x.period.toNat
                ∧ (m = 1 ∨ next + (m - 1) * x.period.toNat ≤ now)))
          ∧ (x.wake = true → CbIs s x.ctx.toNat 0 d → CbIs s x.ctx.toNat 1 w → d.toNat / 2 ^ 17 ≠ 0 →
              t.cb x.ctx.toNat 1 = w ||| 0x01000))
    ∧ (∃ t, exec .ppsInEdge s = .next t ∧ t.ptp = { p with ppscap := p.time, ppsf := true })
    ∧ (p.ppsen = true → p.ppsOut = false → p.turned = true → p.time.toNat / 2 ^ 32 ≠ p.ppsRise.toNat / 2 ^ 32 →
        exec .ppsOutRise s = .next { s with ptp := { p with ppsOut := true, ppsRise := p.time } })
    ∧ (p.ppsen = false ∨ p.turned = false → exec .ppsOutRise s = .next s)
    ∧ (p.ppsOut = true → timeNs p.ppsRise + max 1 p.ppsw.toNat * 10 ^ 6 ≤ now →
        exec .ppsOutFall s = .next { s with ptp := { p with ppsOut := false } })
    ∧ (∃ t, exec .syncerrUpdate s = .next t ∧ t.ptp.syncok = true ∧ t.ptp.syncLast = p.time ∧ t.ptp.syncFrac = p.frac
        ∧ t.ptp.syncerr = BitVec.ofInt 40 (((now : Int) - timeNs p.syncLast - 10 ^ 9) * 256 + p.frac.toNat / 2 ^ 24
            - p.syncFrac.toNat / 2 ^ 24) ∧ t.ptp.time = p.time)

/-! ## Host -/

/-- Accesses through the BARs: words of regions read and written through BAR2 in ascending order, registers through
BAR0, Completer Abort and HOST_ERR for an unmapped address, PART for a write with a byte of the word disabled. The
host's interrupts, the mailbox and the endpoint: a source sends the message of its vector, or leaves it pending while
the vector is masked; a post fills LEN and interrupts the reader, who releases it; a function-level reset, a hot reset
and a link-down, with HRST at 0, reset what R343 lists and refuse host DMA in progress. -/
def Obligations.HostAccessesAndEvents : Prop :=
  (∀ (s : State) (bar : Bar) (off cnt : Nat) (ws : List Word) (ds : List HostDword), s.up = true → s.host.lup = true → s.host.d3 = false →
    let a (i : Nat) : Nat := s.host.win.toNat + off / 4 + i
    let e (b x : Nat) (t : State) : Prop := t.host.err = s.host.err ||| BitVec.ofNat 4 b
      ∧ t.host.eaddr = (if s.host.err = 0 then BitVec.ofNat 40 x else s.host.eaddr)
    let clear (i : Nat) : Prop := (∃ n o, s.locOf (a i) = .region n o ∧ (s.rgn n).armed = false) ∧ s.busGate .host (a i) = .go s
    (off + 4 * cnt ≤ 2 ^ 26 → ws.length = cnt → (∀ i, i < cnt → clear i ∧ s.peek (a i) (s.locOf (a i)) = .good (ws.getD i 0) 0) →
      exec (.hostBarRead .bar2 off cnt) s
        = .next { s with outs := { s.outs with cpls := s.outs.cpls ++ ws.map (fun w => .data (w.zeroExtend 32)) } })
    ∧ (off + 4 ≤ 2 ^ 26 → s.locOf (a 0) = .none →
        ∃ t, exec (.hostBarRead .bar2 off 1) s = .next t ∧ t.outs.cpls = s.outs.cpls ++ [.abort] ∧ e 2 (a 0) t)
    ∧ (off + 4 ≤ 2 ^ 30 → ∀ u w, s.regMapped .host (off / 4) = true → s.rcRefused (off / 4) = false → s.regsOff (off / 4) = false →
        s.regRead .host (off / 4) = some (u, w) →
        exec (.hostBarRead .bar0 off 1) s
          = .next { u with outs := { u.outs with cpls := u.outs.cpls ++ [.data (w.zeroExtend 32)] } })
    ∧ (off + 4 * ds.length ≤ 2 ^ 26 → (∀ i, i < ds.length → clear i) → (∀ d ∈ ds, d.be &&& 7 = 7) →
        ∃ t, exec (.hostBarWrite .bar2 off ds) s = .next t
          ∧ (∀ i d, ds[i]? = some d → t.peek (a i) (t.locOf (a i)) = .good (d.v.extractLsb' 0 20) 0)
          ∧ ∀ b, b < a 0 ∨ a ds.length ≤ b → t.peek b (t.locOf b) = s.peek b (s.locOf b))
    ∧ (off % 4 = 0 → off < 0x400 ∨ off = 0x2000 ∨ off = 0x2004 →
        exec (.hostBarRead .bar4 off 1) s = .next { s with outs := { s.outs with cpls := s.outs.cpls ++
          [.data (if off < 0x400 then s.host.table (off / 4) else s.host.pba.extractLsb' (8 * (off - 0x2000)) 32)] } })
    ∧ (off % 16 < 12 → off % 4 = 0 → off < 0x400 → ∀ d : HostDword, d.be = 15 →
        ∃ t, exec (.hostBarWrite .bar4 off [d]) s = .next t ∧ t.host.table (off / 4) = d.v ∧ t.mem = s.mem
          ∧ ∀ j, j ≠ off / 4 → t.host.table j = s.host.table j)
    ∧ (off + 4 ≤ barSize bar → bar ≠ .bar4 → s.busGate .host (s.barAddr bar off 0) = .go s → ∀ d : HostDword, d.be &&& 7 ≠ 7 →
        ∃ t, exec (.hostBarWrite bar off [d]) s = .next t ∧ e 8 (s.barAddr bar off 0) t ∧ t.mem = s.mem))
  ∧ (∀ (s : State) (who : Master) (vec : BitVec 6) (dw : BitVec 2) (v : BitVec 32) (len : BitVec 12) (c : CfgWrite) (d3 : Bool) (width speed : BitVec 3),
    s.up = true →
    let h := s.host
    let posts (n : Nat) (t : State) : Prop :=
      let m := SMap.get 0 h.imap n
      let q := m.toNat % 64
      if m.getLsbD 19 = false then t.outs.msix = s.outs.msix ∧ t.host.pba = h.pba
      else if (h.table (4 * q + 3)).getLsbD 0 = true ∨ h.fmask = true ∨ h.msixEn = false then
        t.outs.msix = s.outs.msix ∧ t.host.pba = h.pba ||| BitVec.ofNat 64 (2 ^ q)
      else t.outs.msix = s.outs.msix ++ [(q, (h.table (4 * q + 2)).toNat)] ∧ t.host.pba = h.pba
    let fails (t : State) : Prop := ∀ i, i < 32 → let d := s.chan (64 + i)
      d.state = .running → d.act.skind = 2 ∨ d.act.dkind = 2 → d.fail = none → ∃ f, (t.chan (64 + i)).fail = some f ∧ f.cause = 4
    let reset : HostBlk := { h with bme := false, d3 := false, msixEn := false, fmask := false, aer := 0, msix := [], pba := 0, err := 0
                                    h2kBusy := false, k2hBusy := false }
    let open_ (m : Bool) (j : Nat) : Prop := (h.table (4 * j + 3)).getLsbD 0 = false ∧ m = false
    (MayWrite s who 0x90008 → (∃ t, exec (.hostKpost who 1) s = .next t ∧ posts 1 t) ∧ exec (.hostKpost who 0) s = .next s)
    ∧ (h.h2kBusy = false → ∃ t, exec (.mailboxPost .host len) s = .next t ∧ t.host = { h with h2kBusy := true, h2kLen := len }
        ∧ t.outs.keeper = s.outs.keeper ++ [.mailbox])
    ∧ (h.h2kBusy = true → exec (.mailboxPost .host len) s = .next s)
    ∧ (who ≠ .host → MayWrite s who 0x9000B →
        (h.k2hBusy = false → ∃ t, exec (.mailboxPost who len) s = .next t ∧ t.host.k2hBusy = true ∧ t.host.k2hLen = len ∧ posts 0 t)
        ∧ (h.k2hBusy = true → exec (.mailboxPost who len) s = .next s))
    ∧ (h.k2hBusy = true → exec (.mailboxRelease .host) s = .next { s with host := { h with k2hBusy := false } })
    ∧ (who ≠ .host → MayWrite s who 0x9000A → h.h2kBusy = true →
        exec (.mailboxRelease who) s = .next { s with host := { h with h2kBusy := false } })
    ∧ (h.lup = true → ∃ t, exec (.pcieConfigurationWrite c d3) s = .next t ∧ t.host = { h with
          bme := c.bme, d3 := d3, msixEn := c.msixEn, fmask := c.fmask, aer := h.aer &&& ~~~ c.aer, pba := t.host.pba }
        ∧ (∀ j, j < 64 → t.host.pba.getLsbD j = (h.pba.getLsbD j && !(c.msixEn && !c.fmask && !(h.table (4 * j + 3)).getLsbD 0)))
        ∧ (∀ j, j < 64 → h.pba.getLsbD j = true → c.msixEn = true → open_ c.fmask j → (j, (h.table (4 * j + 2)).toNat) ∈ t.outs.msix)
        ∧ t.cfgRead 0 = some ((if s.dev.gx4816 then 0x4816 else 0x4820 : BitVec 16) ++ Config.vid)
        ∧ t.cfgRead 1 = some (if c.bme then 4 else 0) ∧ (∃ rev : BitVec 8, t.cfgRead 2 = some (0x120000#24 ++ rev)))
    ∧ (h.lup = true →
        (∃ t, exec .functionLevelReset s = .next t ∧ t.host = reset ∧ t.mem = s.mem ∧ fails t)
        ∧ (h.hrst = false → ∃ t, exec .pcieHotReset s = .next t ∧ t.host = reset ∧ t.mem = s.mem ∧ fails t)
        ∧ (h.hrst = false → ∃ t, exec .pcieLinkDown s = .next t ∧ t.host = { reset with lup := false, width := 0, speed := 0 }
            ∧ t.mem = s.mem ∧ fails t))
    ∧ (h.lten = true → h.lup = false → width.toNat ≤ 3 → 1 ≤ speed.toNat → speed.toNat ≤ 5 →
        exec (.pcieLinkUp width speed) s = .next { s with host := { h with lup := true, width := width, speed := speed } })
    ∧ (h.lten = false → exec (.pcieLinkUp width speed) s = .next s)
    ∧ (h.lup = true → h.d3 = false → ∃ t, exec (.msiXTableWrite vec dw v) s = .next t
        ∧ t.host.table (4 * vec.toNat + dw.toNat) = (if dw = 3 then v &&& 1 else v)
        ∧ (if h.pba.getLsbD vec.toNat = true ∧ h.msixEn = true ∧ h.fmask = false
              ∧ (if dw = 3 then v else h.table (4 * vec.toNat + 3)).getLsbD 0 = false then
            t.host.pba.getLsbD vec.toNat = false ∧ t.outs.msix = s.outs.msix ++ [(vec.toNat, (t.host.table (4 * vec.toNat + 2)).toNat)]
           else t.host.pba = h.pba ∧ t.outs.msix = s.outs.msix)))

/-! ## Ledger, rolls, power -/

/-- The ledger: a read of INT_LDG_DATA gives a cell and moves on; the keeper core programs a cell or erases a slot, one
operation at a time; a programmed cell that was erased holds its value, and an erased slot reads 0xFFFF. A record of the
keeper firmware, laid out as R362 states and with its CRC, stands in its slot once it is written; the valid record is the
one with the highest SEQ whose CRC is correct; and the projected life of a region is the quotient of R361, to the nearest
hour above or below. -/
def Obligations.LedgerOperations : Prop :=
  ∀ (s : State) (who : Master) (v : Word) (x : BitVec 16) (c n : Nat), s.up = true →
    let i := s.int
    let cell (t : State) (j : Nat) : BitVec 16 := SMap.get 0xFFFF t.int.ledger j
    (MayRead s who 0x60011 →
      exec (.intLdgDataRead who) s = .next { s with int := { i with ldgCell := i.ldgCell + 1 } }
      ∧ ∃ t, s.regRead who 0x60011 = some (t, (cell s i.ldgCell.toNat).zeroExtend 20))
    ∧ (v &&& 0xF0000 = 0 → exec (.intLdgDataWrite .keeper v) s = .next (if i.ldgOp = none then
        { s with int := { i with ldgOp := some (.program i.ldgCell.toNat (v.extractLsb' 0 16)), ldgCell := i.ldgCell + 1 } } else s))
    ∧ exec (.intLdgCtlErase .keeper) s = .next (if i.ldgOp = none then
        { s with int := { i with ldgOp := some (.erase (i.ldgCell.toNat / 1024)) } } else s)
    ∧ (who ≠ .keeper → v &&& 0xF0000 = 0 → exec (.intLdgDataWrite who v) s = .next s ∧ exec (.intLdgCtlErase who) s = .next s)
    ∧ (i.ldgOp = some (.program c x) → ∃ t, exec .ledgerProgramDone s = .next t ∧ t.int.ldgOp = none
        ∧ (cell s c = 0xFFFF → cell t c = x) ∧ ∀ j, j ≠ c → cell t j = cell s j)
    ∧ (i.ldgOp = some (.erase n) → ∃ t, exec .ledgerEraseDone s = .next t ∧ t.int.ldgOp = none
        ∧ ∀ j, cell t j = (if j / 1024 = n then 0xFFFF else cell s j))
    ∧ (∀ q l, i.ldgOp = some (.record q l) → ∃ t, exec .ledgerProgramDone s = .next t ∧ t.int.ldgOp = none
        ∧ ∀ j, cell t j = (if 1024 * (q % 32) ≤ j ∧ j < 1024 * (q % 32) + l.length then l.getD (j - 1024 * (q % 32)) 0 else cell s j))
    ∧ (∀ q l, s.ledgerRecord.2 = (q, l) →
        ∃ t, exec .ledgerProgramDone { s with int := { i with ldgOp := some (.record q l) } } = .next t
          ∧ t.int.slotOk (q % 32) = true ∧ t.int.slotSeq (q % 32) = q % 2 ^ 32)
    ∧ (let q := s.ledgerRecord.2.1
       let l := s.ledgerRecord.2.2
       let at_ (j : Nat) : Nat := (l.getD j 0).toNat
       l.length = 1024 ∧ at_ 0 = 1 ∧ at_ 1 + 2 ^ 16 * at_ 2 = q % 2 ^ 32 ∧ at_ 7 = (if i.age then 1 else 0)
        ∧ at_ 3 + 2 ^ 16 * at_ 4 + 2 ^ 32 * at_ 5 + 2 ^ 48 * at_ 6 = s.pip.now.toNat
        ∧ at_ 1022 + 2 ^ 16 * at_ 1023 = (crc32 (cellBytes (l.take 1022))).toNat ∧ (∀ j, 776 ≤ j → j < 1022 → at_ j = 0)
        ∧ ∀ m, m < 48 → let r := s.rgn m; let e (j : Nat) : Nat := at_ (8 + 16 * m + j)
            (s.regionOn m = false → ∀ j, j < 16 → e j = 0xFFFF)
            ∧ (s.regionOn m = true → e 0 = r.vf.toNat / 2 ^ 5 % 2 ^ 8 * 256 + r.vf.toNat % 2 ^ 5 ∧ e 1 % 2 ^ 8 = r.moved.toNat
                ∧ e 2 + 2 ^ 16 * e 3 + 2 ^ 32 * e 4 = r.eqt.toNat ∧ e 5 = r.delay ∧ ∀ j, 10 ≤ j → j < 16 → e j = 0))
    ∧ (∀ x, i.valid = some x → x < 32 ∧ i.slotOk x = true ∧ ∀ y, y < 32 → i.slotOk y = true → i.slotSeq y ≤ i.slotSeq x)
    ∧ (i.valid = none → ∀ y, y < 32 → i.slotOk y = false)
    ∧ (let r := s.rgn n
       let sens : Int := (Config.ageSens n).toNat
       let dD : Int := 16 * r.delay + sens * ((r.vf.toNat / 2 ^ 5 % 2 ^ 8 : Nat) - 40) - 16 * (Config.ageD0 n).toNat
       let dC : Int := 64 * 460 + sens * 60 - 16 * (Config.ageD0 n).toNat
       let life : Nat := (s.life n).2.toNat
       (dD ≤ 0 → life = 0xFFFFFFFF)
        ∧ ∀ g, s.growth n = some g → 0 < dD → dD ≤ dC → 0 < g →
            let num : Int := r.eqt.toNat * (dC ^ 4 - dD ^ 4) * 32
            let den : Int := dD ^ 4 * g
            (life < 0xFFFFFFFE → num - den < life * den ∧ life * den < num + den)
              ∧ (life = 0xFFFFFFFE → 0xFFFFFFFD * den < num) ∧ life ≠ 0xFFFFFFFF)

/-- Rolls: ROLL_CMD is decided by the first matching row of R366; the end of a region roll leaves every word 0 and the
region in RUN, that of a cluster roll leaves the registers of the cluster and its coefficient store 0; both end in
ROLL_ST and interrupt the keeper core. A passing roll has the published signature. -/
def Obligations.Rolls : Prop :=
  ∀ (s : State) (who : Master) (tgt : BitVec 7) (bad : Option (BitVec 7)) (n k : Nat),
    let b := bankOf who
    let t7 := tgt.toNat
    let res (t : State) (r : Nat) : Prop := SMap.get 0 t.rolls.res b = BitVec.ofNat 20 r ∧ t.mem = s.mem
    let refused (i : Instr) (r : Nat) : Prop :=
      ∃ t, exec i s = .next t ∧ res t r ∧ t.regions = s.regions ∧ t.cores = s.cores ∧ t.rolls.st = s.rolls.st
    let st (t : State) (j : Nat) : Word := SMap.get 0 t.rolls.st j
    (MayWrite s who 0x70000 →
      (if s.regionOn t7 = false then refused (.rollRegion who tgt) 2
       else if (st s t7).toNat / 2 ^ 18 = 1 ∨ s.vacated t7 = false ∨ s.drained t7 = false then refused (.rollRegion who tgt) 1
       else ∃ t, exec (.rollRegion who tgt) s = .next t ∧ res t 0 ∧ st t t7 = 0x40000
        ∧ (match (s.rgn t7).pstate with
          | .run | .idle => (t.rgn t7).pstate = .rolling
          | .nap | .off | .waking => (t.rgn t7).pstate = .waking ∧ (t.rgn t7).rollNext = true
          | .rolling => (t.rgn t7).pstate = .rolling))
      ∧ (if s.clusterOn t7 = false then refused (.rollCluster who tgt) 2
         else if (st s (0x40 + t7)).toNat / 2 ^ 18 = 1 ∨ (s.core t7).bound.isSome = true ∨ (s.core t7).out.isSome = true
            ∨ (s.rgn (t7 / 2)).pstate = .rolling then refused (.rollCluster who tgt) 1
         else ∃ t, exec (.rollCluster who tgt) s = .next t ∧ res t 0 ∧ st t (0x40 + t7) = 0x40000 ∧ (t.core t7).rolling = true)
      ∧ refused (.rollIoDie who) 2)
    ∧ (s.regionOn n = true → (s.rgn n).pstate = .rolling →
        ∃ t, exec (.rollEnd (.region n) bad) s = .next t ∧ (t.rgn n).pstate = .run ∧ (t.rgn n).scrubPtr = 0
          ∧ (t.rgn n).needsClear = false ∧ (t.rgn n).ctl = (s.rgn n).ctl
          ∧ (∀ off, off < 0x7F0000 → t.peek (0x800000 * n + off) (t.locOf (0x800000 * n + off)) = .good 0 0)
          ∧ (∀ a, inWindow n a = false → SMap.get 0 t.mem a = SMap.get 0 s.mem a)
          ∧ st t n = (match bad with | some q => 0xA0000 ||| q.zeroExtend 20 | none => 0x80000)
          ∧ (bad = none → SMap.get 0 t.rolls.sig n = Config.rollSignature 0 n)
          ∧ t.outs.keeper = s.outs.keeper ++ [.roll (.region n)])
    ∧ (s.clusterOn k = true → (s.core k).rolling = true → (s.rgn (k / 2)).pstate = .run →
        ∃ t, exec (.rollEnd (.cluster k) bad) s = .next t ∧
          let c := t.core k
          c.w = [] ∧ c.a = [] ∧ c.f = [] ∧ c.t = [] ∧ c.ac = [] ∧ c.cnt = 0 ∧ c.lk = 0 ∧ c.mh = 0 ∧ c.ml = 0 ∧ c.vmode = 0 ∧ c.fmode = 0
            ∧ c.causeS = 0 ∧ c.vprog = 0 ∧ c.vfc = 0 ∧ c.vfe = 0 ∧ c.vfa = 0 ∧ c.rolling = false ∧ c.mset = (s.core k).mset
            ∧ c.scratch = (s.core k).scratch ∧ c.evb = (s.core k).evb
          ∧ (∀ i, i < 0x4000 → t.peek (0x40000000 + 0x4000 * k + i) (t.locOf (0x40000000 + 0x4000 * k + i)) = .good 0 0)
          ∧ (∀ a, a < 0x40000000 + 0x4000 * k ∨ 0x40000000 + 0x4000 * (k + 1) ≤ a → SMap.get 0 t.mem a = SMap.get 0 s.mem a)
          ∧ st t (0x40 + k) = 0x80000 ∧ (bad = none → SMap.get 0 t.rolls.sig (0x40 + k) = Config.rollSignature 1 k)
          ∧ t.outs.keeper = s.outs.keeper ++ [.roll (.cluster k)])

/-! ## PMBus, start-up, resets -/

/-- The PMBus commands, where the always-on domain has power: each one's answer, the readings in LINEAR11 to the nearest
value, and what CLEAR_FAULTS and an unsupported command do to the latched status. Input power: at a pip edge CAPNOW is
the least of the cap, 500 W and 42 A × VIN; above it, or while the stage clamps, one region of the first tier of R206 is
lowered by one step and BIND is set; after 64 edges below 0.95 × CAPNOW one step is restored in reverse order. Clamp,
warnings, loss and return of power, and the thermal trip are as R392 to R401 state. -/
def Obligations.PmbusAndInputPower : Prop :=
  (∀ (s : State) (code : Byte) (temp : BitVec 12), s.pwr.dev ≠ .unpowered →
    let p := s.pwr
    let answers (i : Instr) (l : List Byte) : Prop := exec i s = .next { s with outs := { s.outs with smbus := l, smbusAck := true } }
    let reading (i : Instr) (e : BitVec 5) (x : Int) (n d : Nat) : Prop := ∃ (m : Int) (w : BitVec 16) (q : Pwr),
      exec i s = .next { s with pwr := q, outs := { s.outs with smbus := [w.extractLsb' 0 8, w.extractLsb' 8 8], smbusAck := true } }
        ∧ w = e ++ BitVec.ofInt 11 m ∧ 2 * (m * d - x * n).natAbs ≤ d ∧ q = { p with ioTemp := q.ioTemp }
    let input := p.statInput ||| (if p.bind then 1 else 0)
    let on (r : Nat) : Prop := r < 48 ∧ s.regionOn r = true ∧ (s.rgn r).pstate ≠ .off
    let alert := input ≠ 0 ∨ p.statTemp ≠ 0
    answers .capability [0xB0] ∧ answers .pmbusRevision [0x44] ∧ answers .mfrId [0x52, 0x4F, 0x4E, 0x47, 0x41, 0x4C]
    ∧ answers .mfrModel [0x47, 0x58, 0x2D, 0x34, 0x38, if s.dev.gx4816 then 0x31 else 0x32, if s.dev.gx4816 then 0x36 else 0x30]
    ∧ answers .statusInput [input] ∧ answers .statusTemperature [p.statTemp]
    ∧ answers .statusWord [(if p.statTemp ≠ 0 then 4 else 0) ||| (if p.cml then 2 else 0), if p.statInput ≠ 0 then 0x20 else 0]
    ∧ reading .readVin 0x1C p.vin.toNat 16 100 ∧ reading .readIin 0x1C p.iin.toNat 16 100 ∧ reading .readPin 0x1F p.pin.toNat 2 10
    ∧ (∀ r, on r → (∀ x, on x → (s.rgn x).temp.toInt ≤ (s.rgn r).temp.toInt) → reading .readTemperature1 0x1E (s.rgn r).temp.toInt 1 2)
    ∧ ((∀ r, ¬ on r) → reading .readTemperature1 0x1E p.ioTemp.toInt 1 2)
    ∧ reading (.readTemperature2 temp) 0x1E temp.toInt 1 2
    ∧ exec .clearFaults s = .next { s with pwr := { p with statInput := 0, statTemp := 0, cml := false }
                                           outs := { s.outs with smbus := [], smbusAck := true } }
    ∧ (if alert then answers .alertResponseAddress [BitVec.ofNat 8 (2 * (0x40 + s.dev.sadr.toNat))]
       else exec .alertResponseAddress s = .next { s with outs := { s.outs with smbus := [], smbusAck := false } })
    ∧ exec (.pmbusUnsupportedCommand code) s
        = .next { s with pwr := { p with cml := true }, outs := { s.outs with smbus := [], smbusAck := false } })
  ∧ (∀ (s : State) (r : PowerReading) (i : BitVec 13) (v : Nat) (temp : BitVec 12),
    let p := s.pwr
    let cap := min (min (p.cap.toNat * 100) 50000) (42 * r.vin)
    let shows (t : State) : Prop := cap < 10 * (t.pwr.capnow.toNat + 1) ∧ 10 * t.pwr.capnow.toNat < cap + 10
    let above := r.ilim = true ∨ cap < 10 * r.pavg
    let can (n : Nat) : Prop := n < 48 ∧ s.regionOn n = true ∧ (s.rgn n).kNow < 20
      ∧ ((s.rgn n).pstate = .run ∨ (s.rgn n).pstate = .waking ∨ (s.rgn n).pstate = .rolling)
    let lost (t : State) : Prop := t.up = false ∧ t.cores = [] ∧ t.regions = [] ∧ t.dmas = [] ∧ t.host = {} ∧ t.ptp = {}
      ∧ (s.int.ldgOp = none → t.int.ledger = s.int.ledger)
      ∧ (s.dev.fuseOp = .none → t.dev.lc = s.dev.lc ∧ t.dev.okh = s.dev.okh ∧ t.dev.osk = s.dev.osk) ∧ t.dev.disabled = s.dev.disabled
    (p.dev ≠ .unpowered → (∃ t, exec (.powerCapLower r) s = .next t ∧ shows t ∧ t.pwr.ilim = r.ilim
      ∧ (¬ above → t.regions = s.regions ∧ t.pwr.bind = p.bind)
      ∧ (above → t.pwr.bind = true ∧ t.pwr.underCap = 0
        ∧ ((∃ n, can n) → ∃ n, can n ∧ (∀ m, can m → s.capTier n ≤ s.capTier m) ∧ (t.rgn n).cap = (s.rgn n).cap + 1
            ∧ t.pwr.steps = n :: p.steps ∧ ∀ m, m ≠ n → t.rgn m = s.rgn m)))
    ∧ (∃ t, exec (.powerCapRestore r) s = .next t ∧ shows t
      ∧ (¬ above → 200 * r.pavg < 19 * cap → p.underCap < 63 → t.pwr.underCap = p.underCap + 1 ∧ t.regions = s.regions)
      ∧ (¬ above → 200 * r.pavg < 19 * cap → 63 ≤ p.underCap →
          (match p.steps with
          | [] => t.pwr.bind = false ∧ t.regions = s.regions
          | n :: l => (t.rgn n).cap = (s.rgn n).cap - 1 ∧ t.pwr.steps = l ∧ t.pwr.bind = decide (l ≠ [])
              ∧ ∀ m, m ≠ n → t.rgn m = s.rgn m))
      ∧ (¬ above → 19 * cap ≤ 200 * r.pavg → t.pwr.underCap = 0 ∧ t.regions = s.regions))
    ∧ exec (.inputCurrentClamp i) s = .next { s with pwr := { p with ilim := true, iin := i } }
    ∧ exec (.currentClampEnd i) s = .next { s with pwr := { p with ilim := false, iin := i, ilimPips := 0 } }
    ∧ (v < 2 ^ 13 → ∃ t, exec (.vinWarning v) s = .next t ∧ t.pwr.vin.toNat = v ∧ t.pwr.uvw = (p.uvw || decide (v < 900))
        ∧ t.pwr.ovw = (p.ovw || decide (6000 < v)) ∧ t.pwr.low = decide (v < 1200)
        ∧ t.pwr.statInput = p.statInput ||| (if v < 900 then 0x10 else 0) ||| (if 6000 < v then 0x80 else 0)))
    ∧ (p.dev ≠ .unpowered → v < 840 ∨ 6200 < v →
        ∃ t, exec (.vinOutOfRange v) s = .next t ∧ lost t ∧ t.pwr.dev = .unpowered ∧ t.dev.rst = .power ∧ t.dev.src = 0)
    ∧ (p.dev = .unpowered → 880 ≤ v → v ≤ 6100 →
        ∃ t, exec (.inputPowerArrival v) s = .next t ∧ t.pip.now = 0 ∧ t.dev.rst = .power ∧ t.up = false ∧ t.pwr.vin.toNat = v)
    ∧ (s.dev.rst = .power → p.dev ≠ .unpowered → s.dev.porst = true →
        exec .vinInRange5Ms s = .next { s with dev :=
          if s.dev.tmode = 0 then { s.dev with rst := .none, stage := .started }
          else { s.dev with rst := .porst, bootCause := 8, stage := .held } })
    ∧ (s.dev.rst = .power → p.dev ≠ .unpowered → s.dev.porst = false →
        exec .vinInRange5Ms s = .next { s with dev := { s.dev with rst := .porst } })
    ∧ (920 ≤ temp.toInt → p.dev ≠ .unpowered → s.dev.thermtrip = false →
        ∃ t, exec (.thermtrip temp) s = .next t ∧ lost t ∧ t.pwr.dev = .off ∧ t.dev.thermtrip = true ∧ t.pip = s.pip))

/-- Start-up: the stages of R374, the checks of an image, the recovery monitor when both slots fail; and the device
states, which the keeper core requests. -/
def Obligations.StartUp : Prop :=
  ∀ (s : State) (pass : Bool) (a b : FlashSlot) (who : Master), s.up = true →
    let d := s.dev
    let cause (f : FlashSlot) (x : BitVec 4) : Prop :=
      let h := f.header
      let n := leNat (slice h 8 4)
      if f.timeout = true then x = 5
      else if ¬ (h.length = 512 ∧ slice h 0 4 = [0x47, 0x58, 0x4B, 0x31] ∧ 1 ≤ n ∧ n ≤ 4194304 ∧ leNat (slice h 12 4) < n
          ∧ (∀ z ∈ slice h 257 255, z = 0) ∧ f.body.length = n) then x = 1
      else if Config.sha384 f.body ≠ digestBytes (slice h 16 48) then x = 2
      else if Config.sha384 (slice h 160 97) ≠ (if d.destroyed then BitVec.allOnes 384 else Config.vkh)
          ∨ Config.ecdsaVerify (slice h 160 97) (Config.sha384 (slice h 0 64)) (slice h 64 96) = false then x = 3
      else x = 0
    let runs (slot : BitVec 2) (f : FlashSlot) : Prop := exec (.imageVerified a b) s = .next { s with dev := { d with
      slot := slot, bootCause := 0, stage := .firmware, version := BitVec.ofNat 32 (leNat (slice f.header 4 4)) } }
    (d.stage = .started → exec .fusesSensed s = .next { s with dev :=
      if d.lc = 4 then { d with stage := .stopped, bootCause := 7 } else { d with stage := .fused } })
    ∧ (d.stage = .fused → exec .hubPllLock s = .next { s with dev := { d with stage := .rom } })
    ∧ (d.stage = .rom → ∃ t, exec (.ioDieRollDone pass) s = .next t ∧ SMap.get 0 t.rolls.st 0xA0 = 0x80000
        ∧ t.dev = (if pass then { d with stage := .rolled } else { d with stage := .stopped, bootCause := 6 })
        ∧ (pass = true → SMap.get 0 t.rolls.sig 0xA0 = Config.rollSignature 2 0))
    ∧ (d.stage = .rolled → ∃ t, exec .contextStoreCleared s = .next t ∧ t.dev = { d with stage := .cleared }
        ∧ (∀ x, x < 2 ^ 25 → t.peek (0x20000000 + x) (.ctx x) = .good 0 0) ∧ (∀ c, c < 2 ^ 20 → t.ctxState c = 0)
        ∧ ∀ x, x < 0x20000000 ∨ 0x22000000 ≤ x → SMap.get 0 t.mem x = SMap.get 0 s.mem x)
    ∧ (d.stage = .rolled ∨ d.stage = .cleared ∨ d.stage = .firmware → d.hbmFilled = false →
        ∃ t, exec .hbmFillDone s = .next t ∧ t.dev = { d with hbmFilled := true }
          ∧ ∀ h n, t.block h n = blockEncode 0 (hbmIndex h n) 0)
    ∧ (d.stage = .cleared → ∃ x y, cause a x ∧ cause b y
        ∧ (x = 0 → runs 0 a) ∧ (x ≠ 0 → y = 0 → runs 1 b)
        ∧ (x ≠ 0 → y ≠ 0 → exec (.imageVerified a b) s = .next { s with dev := { d with bootCause := y, stage := .recovery } }))
    ∧ exec (.enterStandby .keeper) s
        = .next (if s.pwr.dev = .active then { s with pwr := { s.pwr with dev := .entering } } else s)
    ∧ exec (.returnToActive .keeper) s
        = .next (if s.pwr.dev = .standby then { s with pwr := { s.pwr with dev := .returning } } else s)
    ∧ (who ≠ .keeper → exec (.enterStandby who) s = .next s ∧ exec (.returnToActive who) s = .next s)
    ∧ (s.pwr.dev = .entering → (∀ n, s.regionOn n = true → s.vacated n = true ∧ s.drained n = true) →
        (∀ n, n < 96 → (s.chan n).state = .idle ∨ (s.chan n).state = .halted) →
        ∃ t, exec .standbyEntry s = .next t ∧ t.pwr.dev = .standby
          ∧ (∀ n, s.regionOn n = true → (t.rgn n).pstate = .off ∧ (t.rgn n).ctl.getLsbD 0 = false
            ∧ (t.rgn n).moved = (s.rgn n).moved ∧ ∀ off, off < 0x7F0000 → SMap.get 0 t.mem (0x800000 * n + off) = 0)
          ∧ ∀ x, 0x20000000 ≤ x → x < 0x22000000 → SMap.get 0 t.mem x = SMap.get 0 s.mem x)
    ∧ (s.pwr.dev = .returning → exec .activeReached s = .next { s with pwr := { s.pwr with dev := .active } })

/-- Resets: a cold reset by PORST_N or by waking from OFF loses everything but the fuses and the ledger; a warm reset,
of a device with no write of a channel unanswered, no store buffered and no group in flight, by its pin, by a hot reset or
by a link-down while HRST is 1, keeps what R379 keeps and fails the RUNNING contexts; and each one's hold ends in a boot from its start or from the image. -/
def Obligations.DeviceResets : Prop :=
  ∀ (s : State) (sadr : BitVec 3) (tmode : BitVec 2), Canonical s →
    let d := s.dev
    let cold (t : State) (src : BitVec 3) : Prop := t.up = false ∧ t.cores = [] ∧ t.regions = [] ∧ t.dmas = [] ∧ t.ports = [] ∧ t.host = {}
      ∧ t.ptp = {} ∧ t.pip = {} ∧ t.rolls = {} ∧ t.dev.src = src ∧ (s.int.ldgOp = none → t.int = { ledger := s.int.ledger })
      ∧ (d.fuseOp = .none → t.dev.lc = d.lc ∧ t.dev.okh = d.okh ∧ t.dev.osk = d.osk)
    let still := (∀ n, n < 96 → (s.chan n).wq = [] ∧ (s.core n).groups = [] ∧ (s.core n).sbuf = [])
    let began (u : State) : State := { u with dev := { u.dev with rst := .none, stage := .started } }
    let resumed (u : State) : State := { u with dev :=
      if u.dev.lc = 4 then { u.dev with rst := .none, stage := .stopped, bootCause := 7 } else { u.dev with rst := .none, stage := .cleared } }
    (d.porst = true → s.pwr.dev ≠ .unpowered → d.rst ≠ .power →
      ∃ t, exec .porstNAssert s = .next t ∧ cold t 0 ∧ t.dev.rst = .porst ∧ t.dev.porst = false ∧ t.dev.thermtrip = false)
    ∧ (d.porst = false → s.pwr.dev ≠ .unpowered → d.rst = .porst → d.thermtrip = false →
        let u : State := { s with dev := { d with porst := true, sadr := sadr, tmode := tmode } }
        exec (.porstNRelease sadr tmode) s
          = .next (if tmode = 0 then began u else { u with dev := { u.dev with rst := .porst, bootCause := 8, stage := .held } }))
    ∧ (d.wrst = true → d.rst = .none → s.pwr.dev = .active → still →
        ∃ t, exec .wrstNAssert s = .next t ∧ WarmReset s t ∧ t.dev.src = 1 ∧ t.dev.rst = .wrst ∧ t.dev.wrst = false)
    ∧ (d.rst = .wrst → exec .wrstNRelease s = .next (resumed { s with dev := { d with wrst := true } }))
    ∧ (d.rst = .internalWarm → exec .internalResetHoldEnd s = .next (resumed s))
    ∧ (d.rst = .internalCold → d.tmode = 0 → exec .internalResetHoldEnd s = .next (began s))
    ∧ (s.pwr.dev = .off → d.thermtrip = false → d.rst = .none →
        ∃ t, exec (.uartWakeByte 0xA5) s = .next t ∧ cold t 6 ∧ t.dev.rst = .internalCold ∧ t.pwr.dev = .active)
    ∧ (s.up = true → s.host.lup = true → s.host.hrst = true → still →
        (∃ t, exec .pcieHotReset s = .next t ∧ WarmReset s t ∧ t.dev.src = 2 ∧ t.dev.rst = .internalWarm)
        ∧ ∃ t, exec .pcieLinkDown s = .next t ∧ WarmReset s t ∧ t.dev.src = 2 ∧ t.dev.rst = .internalWarm)
    ∧ (s.up = true → s.host.lup = true → s.host.lten = true → s.host.fell = false → still → MayWrite s .keeper 0x90000 →
        ∃ t, exec (.registerWrite .keeper 0x30090000 0x40000) s = .next t ∧ WarmReset s t ∧ t.dev.src = 2 ∧ t.dev.rst = .internalWarm)

/-! ## Monitor -/

/-- Monitor sessions: the exchange of R386, which role's key each life-cycle state accepts, three failed proofs locking
a channel for 1,048,576 pips, the end of a session, and what a request without a session, with a wrong MAC or with a
wrong SEQ is answered. The monitor's commands, once a request is taken: identity and status; words of a region read and
written through the debug master; run control; registers of a halted core by selector; a re-plan of the regions; resets,
device states, and the life-cycle commands, which start programming. -/
def Obligations.MonitorSessionsAndCommands : Prop :=
  (∀ (s : State) (r : MonReq) (role cmd : Byte) (qh ph sig : List Byte) (payload bytes : List Byte),
    let now := s.pip.now.toNat
    let m := s.mon r.ch
    let chan (t : State) : MonCh := t.mon r.ch
    let status (t : State) (c st : Byte) : Prop := ∃ x, (chan t).resp = some x ∧ x.cmd = c + 0x80 ∧ x.seq = r.seq ∧ x.payload.head? = some st
    let accepted := (role = 1 ∧ s.dev.lc = 2) ∨ (role = 2 ∧ (s.dev.lc = 1 ∨ s.dev.lc = 3))
    (∀ t, Taken s r 0x10 (role :: qh) t → role = 1 ∨ role = 2 → qh.length = 97 →
      ∃ u, exec (.authStart r role qh) s = .next u ∧ (chan u).key = none
        ∧ (if m.lockedAt = none ∧ accepted then
            let n := t.draws
            (chan u).exch = some (role, qh, n) ∧ u.draws = n + 1
              ∧ ∃ x, (chan u).resp = some x ∧ x.payload = 0 :: (Config.ephemeralPoint n ++ Config.random n 48)
           else (chan u).exch = none ∧ status u 0x10 4))
    ∧ (∀ t n, Taken s r 0x11 (ph ++ sig) t → ph.length = 97 → sig.length = 96 → m.exch = some (role, qh, n) →
        let h := Config.sha384 (Config.random n 48 ++ qh ++ Config.ephemeralPoint n ++ leBytes Config.uid.toNat 10 ++ [role])
        let fuse := if role = 1 then s.dev.okh else if s.dev.destroyed then BitVec.allOnes 384 else Config.vkd
        let ks := Config.hkdf384 (Config.random n 48) (Config.sharedSecret n qh) (leBytes Config.uid.toNat 10 ++ [role])
        let good := Config.sha384 ph = fuse ∧ Config.ecdsaVerify ph h sig = true
        ∃ u, exec (.authProve r ph sig) s = .next u ∧ (chan u).exch = none
          ∧ (if good then (chan u).key = some ks ∧ (chan u).next = r.seq + 1 ∧ (chan u).role = role ∧ status u 0x11 0
              ∧ (chan u).fails = 0
             else (chan u).key = (t.mon r.ch).key ∧ (chan u).fails = m.fails + 1 ∧ status u 0x11 4
              ∧ (m.fails = 2 → (chan u).lockedAt = some now)))
    ∧ (∀ t, Taken s r 0x12 [] t → ∃ u, exec (.authEnd r) s = .next u ∧ (chan u).key = none ∧ (chan u).exch = none ∧ status u 0x12 0)
    ∧ (m.key.isSome = true → exec (.sessionTimeout r.ch) s
        = .next (if m.last + 2 ^ 26 ≤ now then s.setMon r.ch { m with key := none } else s))
    ∧ (∀ k, m.lockedAt = some k → exec (.authLockoutEnd r.ch) s
        = .next (if k + 1048576 ≤ now then s.setMon r.ch { m with lockedAt := none, fails := 0 } else s))
    ∧ (frameOk bytes = false → exec (.monitorFrameDiscard r.ch bytes) s = .next (s.setMon r.ch { m with resp := none }))
    ∧ (∀ i, (i, cmd, payload) ∈ [(Instr.ident r, (0x01 : Byte), ([] : List Byte)), (.status r, 0x02, []), (.authEnd r, 0x12, []),
          (.replan r, 0x40, []), (.resetWarm r, 0x50, [1]), (.resetCold r, 0x50, [2]), (.powerStandby r, 0x51, [1]),
          (.powerActive r, 0x51, [2]), (.powerOff r, 0x51, [3])] → s.up = true → s.dev.stage = .firmware →
        (m.key = none ∨ r.flags.getLsbD 0 = false → OpenCommand s cmd = false →
          ∃ u, exec i s = .next u ∧ status u cmd 3 ∧ (chan u).key = m.key ∧ u.dev = s.dev ∧ u.pwr = s.pwr ∧ u.regions = s.regions)
        ∧ ∀ key, m.key = some key → r.flags.getLsbD 0 = true →
            (Config.hmac128 key (macInput r cmd payload) ≠ r.mac →
              ∃ u, exec i s = .next u ∧ status u cmd 6 ∧ (chan u).key = m.key ∧ (chan u).next = m.next ∧ u.dev = s.dev ∧ u.pwr = s.pwr)
            ∧ (Config.hmac128 key (macInput r cmd payload) = r.mac → r.seq ≠ m.next →
              ∃ u, exec i s = .next u ∧ status u cmd 5 ∧ (chan u).key = m.key ∧ (chan u).next = m.next ∧ u.dev = s.dev ∧ u.pwr = s.pwr)))
  ∧ (∀ (s : State) (r : MonReq) (a v : Dbl) (cnt : BitVec 16) (ws : List Word) (k : BitVec 8) (sel : Word) (key : List Byte) (target : Byte),
    let c (t : State) : Core := t.core k.toNat
    let set := sel.toNat / 2 ^ 7
    let j := sel.toNat % 2 ^ 7
    let legal := set < 8 ∧ j < [32, 8, 8, 32, 32, 128, 3, 1].getD set 0
    let asset := (set = 6 ∧ j = 2) ∨ (set = 4 ∧ 16 ≤ j)
    let halted (t : State) : Prop := (c t).rc = .halted ∨ (c t).rc = .haltedErr
    let answer (u : State) (x : List Byte) : Prop := ∃ y, (u.mon r.ch).resp = some y ∧ y.payload = x
    (∀ t, Taken s r 0x01 [] t → ∃ u, exec (.ident r) s = .next u ∧ u.dev = s.dev ∧ answer u (0 :: (leBytes Config.uid.toNat 10
        ++ (if s.dev.gx4816 then [0x16, 0x48] else [0x20, 0x48]) ++ [BitVec.ofNat 8 (s.dev.lc.toNat + if s.dev.owner then 8 else 0)]
        ++ leBytes s.dev.version.toNat 4)))
    ∧ (∀ t, Taken s r 0x02 [] t → ∃ u, exec (.status r) s = .next u ∧ u.dev = s.dev
        ∧ answer u (0 :: (wordBytes s.dev.bootWord ++ wordBytes s.pwrDev ++ wordBytes (if s.int.age then 1 else 0))))
    ∧ (∀ t, Taken s r 0x20 (leBytes a.toNat 5 ++ leBytes cnt.toNat 2) t → 1 ≤ cnt.toNat → cnt.toNat ≤ 512 → s.dbg.op = none →
        ws.length = cnt.toNat → (∀ i, i < cnt.toNat → (∃ n off, s.locOf (a.toNat + i) = .region n off)
          ∧ t.busGate .debug (a.toNat + i) = .go t ∧ s.peek (a.toNat + i) (s.locOf (a.toNat + i)) = .good (ws.getD i 0) 0) →
        ∃ u, exec (.mread r a cnt) s = .next u ∧ answer u (0 :: ws.flatMap wordBytes) ∧ u.mem = s.mem)
    ∧ (∀ t, Taken s r 0x21 (leBytes a.toNat 5 ++ leBytes cnt.toNat 2 ++ ws.flatMap wordBytes) t → 1 ≤ cnt.toNat → cnt.toNat ≤ 512 →
        s.dbg.op = none → ws.length = cnt.toNat → (∀ i, i < cnt.toNat → (∃ n off, s.locOf (a.toNat + i) = .region n off
          ∧ (s.rgn n).armed = false) ∧ t.busGate .debug (a.toNat + i) = .go t) →
        ∃ u, exec (.mwrite r a cnt ws) s = .next u ∧ answer u [0]
          ∧ (∀ i, i < cnt.toNat → u.peek (a.toNat + i) (u.locOf (a.toNat + i)) = .good (ws.getD i 0) 0)
          ∧ ∀ b, b < a.toNat ∨ a.toNat + cnt.toNat ≤ b → u.peek b (u.locOf b) = s.peek b (s.locOf b))
    ∧ (s.clusterOn k.toNat = true → (c s).rolling = false →
        (∀ t, Taken s r 0x30 [k] t → (c s).rc = .running → ∃ u, exec (.halt r k) s = .next u ∧ (c u).rc = .halting
          ∧ answer u (0 :: wordBytes (c u).rcStat))
        ∧ (∀ t, Taken s r 0x31 [k] t → halted s → ∃ u, exec (.step r k) s = .next u ∧ (c u).rc = .stepping
          ∧ answer u (0 :: wordBytes (c u).rcStat))
        ∧ (∀ t, Taken s r 0x32 [k] t → halted s → ∃ u, exec (.resume r k) s = .next u ∧ (c u).rc = .running
          ∧ (c u).wcnt.toNat = max (c s).wcnt.toNat 1024 ∧ answer u (0 :: wordBytes (c u).rcStat)))
    ∧ (∀ t, Taken s r 0x33 (k :: wordBytes sel) t → s.clusterOn k.toNat = true →
        (¬ legal → ∃ u, exec (.cread r k sel) s = .next u ∧ answer u [2])
        ∧ (legal → s.dev.lc = 2 → asset → ∃ u, exec (.cread r k sel) s = .next u ∧ answer u [4])
        ∧ (legal → s.dev.lc ≠ 2 → (c s).rolling = false → ¬ halted s → ∃ u, exec (.cread r k sel) s = .next u ∧ answer u [7])
        ∧ (legal → s.dev.lc ≠ 2 ∨ (¬ asset ∧ (c s).cst.pl ≠ .m) → (c s).rolling = false → halted s →
            ∃ u, exec (.cread r k sel) s = .next u
              ∧ answer u (0 :: leBytes (if set = 7 then (c s).pc else (c s).rcRead sel).toNat 5)))
    ∧ (∀ t, Taken s r 0x34 (k :: (wordBytes sel ++ leBytes v.toNat 5)) t → s.clusterOn k.toNat = true → legal →
        s.dev.lc ≠ 2 ∨ (¬ asset ∧ (c s).cst.pl ≠ .m) → (c s).rolling = false → halted s →
        (set ≠ 1 → set ≠ 3 → set ≠ 7 → 2 ^ 20 ≤ v.toNat → ∃ u, exec (.cwrite r k sel v) s = .next u ∧ answer u [2] ∧ c u = c s)
        ∧ (set = 1 ∨ set = 3 ∨ set = 7 ∨ v.toNat < 2 ^ 20 → ∃ u, exec (.cwrite r k sel v) s = .next u ∧ answer u [0]
            ∧ (set = 0 → (c u).wr (BitVec.ofNat 5 j) = (if j = 0 then 0 else v.extractLsb' 0 20))
            ∧ (set = 1 → (c u).ar (BitVec.ofNat 3 j) = v) ∧ (set = 2 → (c u).amr (BitVec.ofNat 3 j) = v.extractLsb' 0 20)
            ∧ (set = 3 → (c u).fr j = v) ∧ (set = 5 → SMap.get 0 (c u).t j = v.extractLsb' 0 20)
            ∧ (set = 6 → SMap.get 0 (c u).w (32 + j) = v.extractLsb' 0 20) ∧ (c u).pc = (if set = 7 then v else (c s).pc)))
    ∧ (∀ t, Taken s r 0x40 [] t → ∃ u, exec (.replan r) s = .next u ∧ answer u [0]
        ∧ ∀ n, s.regionOn n = true → (s.rgn n).vnow ≤ 100 → let v0 : Nat := (s.rgn n).vf.toNat / 2 ^ 5 % 2 ^ 8
            let x := s.rgn n
            let low := x.low = true ∧ x.moved ≠ 0x7F
            let fits (j : Nat) (w : Int) : Prop :=
              16 * ((x.delay : Int) * (40 - j) - 4 * 20000 + 4 * 40 * (40 - j)) ≤ (w - v0) * (Config.ageSens n).toNat * (40 - j)
            if (s.rgn n).vnow = v0 then (u.rgn n).vf.toNat % 2 ^ 5 ≤ 20 ∧ v0 - 4 ≤ (u.rgn n).vf.toNat / 2 ^ 5 ∧ (u.rgn n).vf.toNat / 2 ^ 5 ≤ 100
              ∧ (Config.ageSens n ≠ 0 → ∃ (j : Nat) (w : Int), j ≤ 20 ∧ fits j w ∧ ¬ fits j (w - 1) ∧ (j < 20 → w ≤ 100)
                  ∧ (∀ i, i < j → ¬ fits i 100) ∧ ((u.rgn n).vf.toNat / 2 ^ 5 : Int) = min (max (max w ((v0 : Int) - 4)) 0) 100
                  ∧ (u.rgn n).vf.toNat % 2 ^ 5 = min 20 (j + if low then 1 else 0)
                  ∧ (x.vf.toNat % 2 ^ 5 < j ∨ low → u.int.age = true))
            else u.rgn n = s.rgn n)
    ∧ (∀ t, Taken s r 0x50 [1] t → ∃ u, exec (.resetWarm r) s = .next u ∧ u.dev.rst = .internalWarm ∧ u.dev.src = 3 ∧ answer u [0]
        ∧ u.up = false ∧ (u.mon r.ch).key = none)
    ∧ (∀ t, Taken s r 0x50 [2] t → ∃ u, exec (.resetCold r) s = .next u ∧ u.dev.rst = .internalCold ∧ u.dev.src = 4 ∧ answer u [0]
        ∧ u.cores = [] ∧ u.regions = [] ∧ (u.mon r.ch).key = none)
    ∧ (∀ t, Taken s r 0x51 [1] t → ∃ u, exec (.powerStandby r) s = .next u ∧ answer u [0]
        ∧ u.pwr.dev = (if s.pwr.dev = .active then .entering else s.pwr.dev))
    ∧ (∀ t, Taken s r 0x51 [2] t → ∃ u, exec (.powerActive r) s = .next u ∧ answer u [0]
        ∧ u.pwr.dev = (if s.pwr.dev = .standby then .returning else s.pwr.dev))
    ∧ (∀ t, Taken s r 0x51 [3] t → ∃ u, exec (.powerOff r) s = .next u ∧ answer u [0] ∧ u.pwr.dev = .off ∧ u.pip = s.pip
        ∧ u.cores = [] ∧ u.regions = [] ∧ u.dev.thermtrip = s.dev.thermtrip)
    ∧ (∀ t, Taken s r 0x60 key t → s.dev.fuseOp = .none →
        (s.dev.lc = 1 → key.length = 97 → ∃ u x, exec (.enroll r key) s = .next u ∧ answer u [0]
          ∧ u.dev = { s.dev with fuseOp := .enroll (Config.sha384 key) x })
        ∧ (s.dev.lc ≠ 1 → ∃ u, exec (.enroll r key) s = .next u ∧ answer u [4] ∧ u.dev = s.dev))
    ∧ (∀ t, Taken s r 0x61 [target] t → s.dev.fuseOp = .none → ∃ u, exec (.lcset r target) s = .next u ∧
        (if s.dev.lc = 0 ∧ target = 1 then answer u [0] ∧ u.dev = { s.dev with fuseOp := .sealing }
         else if s.dev.lc = 2 ∧ target = 3 then answer u [0] ∧ u.dev = { s.dev with fuseOp := .toReturn }
         else if s.dev.lc ≠ 4 ∧ target = 4 then answer u [0] ∧ u.dev = { s.dev with fuseOp := .toVoid }
         else answer u [4] ∧ u.dev = s.dev)))

/-! ## Registers and stored bits -/

/-- A register that holds what is written: with its reserved bits 0 it then reads the value written, and with one of
them 1 some legal value (R15); an access that R23, the level or the power of its die does not allow leaves them as they
are, and the host's to an address that is unmapped for it is recorded in HOST_ERR and HOST_EADDR; no other register of the
kind, no stored word and no queue changes. Stored bits of one codeword change: of an SRAM word those of the mask, of an
HBM block one, and no other stored bit. -/
def Obligations.RegisterWritesAndBitErrors : Prop :=
  (∀ (s : State) (who : Master) (off : Nat) (legal v : Word), Plain off legal → s.host.fell = false →
    let a := BitVec.ofNat 40 (0x30000000 + off)
    let kept (t : State) : Prop := t.mem = s.mem ∧ t.hbm = s.hbm ∧ t.pending = s.pending
      ∧ ∀ o m, Plain o m → o ≠ off → (t.regRead who o).map Prod.snd = (s.regRead who o).map Prod.snd
    (MayWrite s who off → v &&& ~~~legal = 0 → ∃ t, exec (.registerWrite who a v) s = .next t ∧ kept t
      ∧ t.regRead who off = some (t, v))
    ∧ (MayWrite s who off → v &&& ~~~legal ≠ 0 → ∃ t w, exec (.registerWrite who a v) s = .next t ∧ kept t
      ∧ t.regRead who off = some (t, w) ∧ w &&& ~~~legal = 0)
    ∧ (s.up = false ∨ s.mapped who (0x30000000 + off) true = false ∨ s.rcRefused off = true ∨ s.regsOff off = true
        ∨ (∃ k, who = .core k ∧ s.levelAllows k (s.core k).cst.pl (.regs off) true = false) →
        ∃ t, exec (.registerWrite who a v) s = .next t ∧ kept t ∧ t.regRead who off = (s.regRead who off).map (fun p => (t, p.2))))
  ∧ (∀ (s : State) (a : Dbl) (v : Word), s.up = true → s.host.fell = false →
    s.locOf a.toNat = .none ∨ (∃ off, s.locOf a.toNat = .regs off ∧ s.regMapped .host off = false) →
    ∃ t, exec (.registerWrite .host a v) s = .next t ∧ t.mem = s.mem ∧ t.host.err = s.host.err ||| 4
      ∧ t.host.eaddr = (if s.host.err = 0 then a else s.host.eaddr))
  ∧ (∀ (s : State) (a : Dbl) (mask : BitVec 31) (b : BitVec 9), AllRegions s → s.dev.gx4816 = false →
    ((ErrSite.sram a mask).wf = true → ∃ t, exec (.storedBitError (.sram a mask)) s = .next t
      ∧ (∀ row, t.stored a.toNat row = s.stored a.toNat row ^^^ mask) ∧ (∀ x row, x ≠ a.toNat → t.stored x row = s.stored x row)
      ∧ t = { s with mem := t.mem })
    ∧ ((ErrSite.hbm a b).wf = true → ∃ t, exec (.storedBitError (.hbm a b)) s = .next t ∧ t = { s with hbm := t.hbm }
      ∧ ∀ h blk, h < 4 → blk < 2 ^ 29 → t.block h blk = s.block h blk ^^^
          (if blockAddr h blk ≤ a.toNat ∧ a.toNat < blockAddr h blk + 24 then BitVec.ofNat 512 (2 ^ b.toNat) else 0)))

/-- The stored form of words (R345-R348): a poisoned word has the syndrome (1, 0, α^2) at every row and is read as
POISON; a write of a word encodes it afresh, whatever was stored. -/
def Obligations.PoisonAndWrites : Prop :=
  (poisonVec = 0x383 ∧ poisonVec.toNat = [0, 1, 2, 3, 4].foldl (fun x i => x ^^^ (0x25 * 2 ^ i)) 0 ∧ oddBits poisonVec.toNat 31 = true)
  ∧ (∀ (d : Word) (row : Nat), row < 2 ^ 16 →
      syndrome (encode d row ^^^ poisonVec) row = (true, 0, gfPow x5 2) ∧ decode (encode d row ^^^ poisonVec) row = .poison)
  ∧ (∀ (s : State) (n off : Nat) (v : Word) (slot015 : Bool), (s.rgn n).armed = false →
      let t := s.writeBoard n off v slot015
      t.stored (0x800000 * n + off) (rowOf off) = encode v (rowOf off)
        ∧ t.peek (0x800000 * n + off) (.region n off) = .good v 0)
  ∧ (∀ (s : State) (a : Nat) (l : Loc) (v : Word), l.row < 2 ^ 16 →
      let t := s.writeStore a l v
      t.stored a l.row = encode v l.row ∧ t.peek a l = .good v 0)

/-- How a reader decodes a stored word (R347): the sums S0, S1 and S3 over the stored bits, the table of outcomes, the
two errors in a row that is read as another, three stored-bit errors, and the reads that rewrite nothing. Any two wrong
bits of a word are corrected. -/
def Obligations.ErrorCorrection : Prop :=
  (∀ (x : BitVec 31) (row : Nat), row < 2 ^ 16 →
    let c := x ^^^ (foldRow row).zeroExtend 31
    let s0 := (syndrome x row).1
    let s1 := (syndrome x row).2.1
    let s3 := (syndrome x row).2.2
    let cube := gfMul x5 s1 (gfMul x5 s1 s1)
    let two (a b : Nat) : Prop := s0 = false ∧ s1 ≠ 0 ∧ s3 ≠ cube ∧ a < b ∧ b ≤ 29 ∧ gfPow x5 a ^^^ gfPow x5 b = s1
      ∧ gfMul x5 (gfMul x5 (gfPow x5 a) (gfPow x5 b)) s1 = s3 ^^^ cube
    (s0 = decide (ones x.toNat 31 % 2 = 1)
      ∧ s1 = (List.range 30).foldl (fun z j => if c.getLsbD j then z ^^^ gfPow x5 j else z) 0
      ∧ s3 = (List.range 30).foldl (fun z j => if c.getLsbD j then z ^^^ gfPow x5 (3 * j) else z) 0)
    ∧ (s1 = 0 → s3 = 0 → decode x row = .good (cellData x) (if s0 then 1 else 0))
    ∧ (s0 = true → s1 = 0 → s3 = gfPow x5 2 → decode x row = .poison)
    ∧ (∀ j, j ≤ 29 → s1 = gfPow x5 j → s3 = cube →
        decode x row = .good (cellData (x ^^^ BitVec.ofNat 31 (2 ^ j))) (if s0 then 1 else 2))
    ∧ (∀ a b, two a b → decode x row = .good (cellData (x ^^^ BitVec.ofNat 31 (2 ^ a + 2 ^ b))) 2)
    ∧ ((s1 = 0 → s3 ≠ 0 ∧ (s0 = true → s3 ≠ gfPow x5 2)) → (∀ j, j ≤ 29 → s1 = gfPow x5 j → s3 ≠ cube) → (∀ a b, ¬ two a b) →
        decode x row = .uncorr))
  ∧ (∀ (d : Word) (row : Nat), row < 2 ^ 16 →
    (∀ e : BitVec 31, ones e.toNat 31 ≤ 2 → decode (encode d row ^^^ e) row = .good d (ones e.toNat 31))
    ∧ (∀ e : BitVec 31, ones e.toNat 31 = 3 → decode (encode d row ^^^ e) row
        = if (syndrome (encode d row ^^^ e) row) = (true, 0, gfPow x5 2) then .poison else .uncorr)
    ∧ ∀ other, other < 2 ^ 16 → 1 ≤ ones (row ^^^ other) 16 → ones (row ^^^ other) 16 ≤ 2 →
        (∃ y, syndrome (encode d row) other = (false, 0, y) ∧ y ≠ 0) ∧ decode (encode d row) other = .uncorr)
  ∧ ∀ (s : State) (who : LogWho) (a : Nat) (l : Loc) (d : Word) (n : Nat), s.peek a l = .good d n →
      (s.readSram who a l).2 = .ok d ∧ (s.readSram who a l).1.mem = s.mem

/-! ## Steps -/

/-- A step carries out the command at the front of the queue on the state with the queue's rest. -/
def Obligations.StepRunsCommand : Prop :=
  ∀ (s : State) (i : Instr) (rest : List Instr), step { s with pending := i :: rest } = exec i { s with pending := rest }

/-- The model's reading of an empty queue (assumption log 3): one pip passes. PIP_NOW counts, and no stored word, no
queue and no life-cycle state changes; a watchdog that counts moves down by one, and nothing else of a core but the pips
that a context is bound. The PTP clock moves on by some ticks at its rate; a measured region's equivalent time grows by
2^((T - 85 °C) / 10 °C) pips, in units of 2^-64 pip and with the last unit open (log 24); and the keeper firmware starts to
write a record once an hour has passed since the last one. -/
def Obligations.IdlePip : Prop :=
  ∀ (s : State), Canonical s → s.pending = [] → s.powered = true → s.host.fell = false →
    let kp := s.keeper
    let hour := 3600 * 2 ^ 20
    let fw := s.up = true ∧ s.dev.stage = .firmware
    ∃ t, step s = .next t ∧ t.pip.now = s.pip.now + 1 ∧ t.mem = s.mem ∧ t.hbm = s.hbm ∧ t.pending = [] ∧ t.dev = s.dev
      ∧ (∀ k, t.core k = { s.core k with
          wcnt := if (s.core k).counts = true ∧ (s.core k).wcnt ≠ 0 then (s.core k).wcnt - 1 else (s.core k).wcnt
          boundPips := if (s.core k).bound.isSome then (s.core k).boundPips + 1 else (s.core k).boundPips })
      ∧ (s.pwr.dev ≠ .off → ∃ n, let f := s.ptp.frac.toNat + n * s.ptp.rate.toNat
          t.ptp.time = nsTime (timeNs s.ptp.time + f / 2 ^ 32) ∧ t.ptp.frac = BitVec.ofNat 32 f ∧ t.ptp.rate = s.ptp.rate)
      ∧ (s.pwr.dev = .off → t.ptp = s.ptp)
      ∧ (¬ fw → ∀ n, let r := s.rgn n; let q := t.rgn n
          (r.tempOk = false → q.eqt = r.eqt)
          ∧ (r.tempOk = true → ∃ x e : Nat, e ≤ 1 ∧ x ^ 80 ≤ 2 ^ (64 * 80 + r.temp.toInt - 680).toNat
              ∧ 2 ^ (64 * 80 + r.temp.toInt - 680).toNat < (x + 1) ^ 80
              ∧ (2 ^ 80 * q.eqt.toNat + q.eqtFrac) % 2 ^ 120 = (2 ^ 80 * r.eqt.toNat + r.eqtFrac + x + e) % 2 ^ 120))
      ∧ (fw → kp.restored = true → kp.low = [] → kp.plans = [] → t.pip.now.toNat < kp.lastPlan + 24 * hour →
          s.int.ldgOp = none → kp.due = false →
          (t.pip.now.toNat < kp.lastRecord + hour → t.int.ldgOp = none)
          ∧ (kp.lastRecord + hour ≤ t.pip.now.toNat → t.keeper.lastRecord = t.pip.now.toNat
              ∧ ∃ l, t.int.ldgOp = some (.record s.int.nextSeq l) ∧ l.length = 1024))

/-- Values after a reset that the specification gives for the fields named, in a canonical state with an empty queue. -/
def Obligations.ResetValues : Prop :=
  Canonical State.reset ∧ GradeOk State.reset.dev ∧ State.reset.pending = []
    ∧ (∀ k, let c := State.reset.core k; c.vmode = 0x60 ∧ c.fmode = 0 ∧ c.imask = 0x100 ∧ c.bound = none ∧ c.groups = [] ∧ c.resv = none)
    ∧ (∀ n, let r := State.reset.rgn n; r.ctl = 0 ∧ r.vf = 0x514 ∧ r.turns = 0xC0 ∧ r.moved = 0x7F ∧ r.rmth = 0x3C ∧ r.flip = 0
        ∧ r.pstate = .off ∧ r.contend = 0)
    ∧ (∀ n, let d := State.reset.chan n; d.state = .idle ∧ d.trig = 0)
    ∧ (∀ p, let x := State.reset.port p; x.ctl = 0 ∧ x.up = 0 ∧ x.bdown = false)
    ∧ State.reset.sched.slice = 0x40 ∧ State.reset.ptp.rate = 0x19999999A#40 ∧ State.reset.ptp.ppsw = 0x64 ∧ State.reset.pip.now = 0
    ∧ State.reset.int.ivl = 0x38400 ∧ State.reset.pwr.napidle = 0x400 ∧ State.reset.pwr.cap = 500 ∧ State.reset.host.err = 0

/-- Every step leaves the tables of the state in canonical form and the device with the parts of its grade, the GX-4816 with
forty regions of which nine or more lie on each die. -/
def Obligations.StepKeepsCanonical : Prop :=
  (∀ s t : State, Canonical s → step s = .next t → Canonical t)
  ∧ (∀ s t : State, GradeOk s.dev → step s = .next t → GradeOk t.dev)
  ∧ ∀ s : State, GradeOk s.dev →
      ((List.range 48).filter s.regionOn).length = (if s.dev.gx4816 then 40 else 48)
      ∧ ∀ d, d < 4 → 9 ≤ ((List.range 12).filter (fun i => s.regionOn (12 * d + i))).length

/-- A device with every region answers every well-formed command with a next state, and the command touches no waiting
command. -/
def Obligations.CommandsComplete : Prop :=
  ∀ (i : Instr) (s : State), i.wf = true → AllRegions s → s.dev.gx4816 = false →
    ∃ t, exec i s = .next t ∧ t.pending = s.pending ∧ AllRegions t ∧ t.dev.gx4816 = false

/-- A fuse programming under way always fits the life-cycle state, and each step leaves that state or takes one of the
transitions of the table. When programming ends the new state and the keys stand, and a cold reset follows. -/
def Obligations.LifeCycle : Prop :=
  (∀ s t : State, FuseFits s.dev → step s = .next t → FuseFits t.dev ∧ (t.dev.lc = s.dev.lc ∨ LcStep s.dev.lc t.dev.lc))
  ∧ ∀ s : State, s.up = true → s.dev.fuseOp ≠ .none →
      ∃ t, exec .lifeCycleProgramDone s = .next t ∧ t.up = false ∧ t.dev.src = 5 ∧ t.dev.rst = .internalCold
        ∧ t.dev.fuseOp = .none ∧ t.mem = s.mem.purge (fun a => !(decide (0x20000000 ≤ a) && decide (a < 0x22000000)))
        ∧ (match s.dev.fuseOp with
          | .none => False
          | .enroll okh osk => t.dev.lc = 2 ∧ t.dev.owner = true ∧ t.dev.okh = okh ∧ t.dev.osk = osk
          | .sealing => t.dev.lc = 1 ∧ t.dev.okh = s.dev.okh ∧ t.dev.osk = s.dev.osk
          | .toReturn => t.dev.lc = 3 ∧ t.dev.okh = BitVec.allOnes 384 ∧ t.dev.osk = BitVec.allOnes 256
          | .toVoid => t.dev.lc = 4 ∧ t.dev.okh = BitVec.allOnes 384 ∧ t.dev.osk = BitVec.allOnes 256)
end

