-- ==== Sys2Proof/Laws/Sparse.lean ====
section
/-! SUPPORT. The laws of the sparse tables: a read after a write, and the canonical form kept by every operation. -/

namespace Sys2Proof

variable {α : Type}

/-! ## Reading -/

@[simp] theorem SMap.get_nil (d : α) (k : Nat) : SMap.get d [] k = d := rfl

theorem SMap.get_drop_same (d : α) (m : SMap α) (k : Nat) : SMap.get d (SMap.drop m k) k = d := by
  induction m with
  | nil => rfl
  | cons e m ih =>
    simp only [SMap.drop]
    split
    · exact ih
    · rename_i h; simp [SMap.get, h, ih]

theorem SMap.get_drop_other (d : α) (m : SMap α) {k j : Nat} (h : j ≠ k) :
    SMap.get d (SMap.drop m k) j = SMap.get d m j := by
  induction m with
  | nil => rfl
  | cons e m ih =>
    simp only [SMap.drop]
    split
    · rename_i he; simp [SMap.get, ih, he, Ne.symm h]
    · simp [SMap.get, ih]

theorem SMap.get_ins_same (d : α) (m : SMap α) (k : Nat) (v : α) : SMap.get d (SMap.ins m k v) k = v := by
  induction m with
  | nil => simp [SMap.ins, SMap.get]
  | cons e m ih =>
    simp only [SMap.ins]
    split
    · simp [SMap.get]
    · split
      · simp [SMap.get]
      · rename_i h; simp [SMap.get, h, ih]

theorem SMap.get_ins_other (d : α) (m : SMap α) {k j : Nat} (v : α) (h : j ≠ k) :
    SMap.get d (SMap.ins m k v) j = SMap.get d m j := by
  induction m with
  | nil => simp [SMap.ins, SMap.get, Ne.symm h]
  | cons e m ih =>
    simp only [SMap.ins]
    split
    · simp [SMap.get, Ne.symm h]
    · split
      · rename_i he; simp [SMap.get, he, Ne.symm h]
      · simp [SMap.get, ih]

/-- A write is read back. -/
@[simp] theorem SMap.get_set_same [DecidableEq α] (d : α) (m : SMap α) (k : Nat) (v : α) :
    SMap.get d (SMap.set d m k v) k = v := by
  unfold SMap.set
  split
  · rename_i h; rw [SMap.get_drop_same, h]
  · exact SMap.get_ins_same d m k v

/-- A write leaves every other entry. -/
theorem SMap.get_set_other [DecidableEq α] (d : α) (m : SMap α) {k j : Nat} (v : α) (h : j ≠ k) :
    SMap.get d (SMap.set d m k v) j = SMap.get d m j := by
  unfold SMap.set
  split
  · exact SMap.get_drop_other d m h
  · exact SMap.get_ins_other d m v h

/-- A read after a write, in one equation. -/
theorem SMap.get_set [DecidableEq α] (d : α) (m : SMap α) (k j : Nat) (v : α) :
    SMap.get d (SMap.set d m k v) j = if j = k then v else SMap.get d m j := by
  split
  · rename_i h; rw [h, SMap.get_set_same]
  · rename_i h; exact SMap.get_set_other d m v h

theorem SMap.get_purge (d : α) (m : SMap α) (p : Nat → Bool) (k : Nat) :
    SMap.get d (SMap.purge m p) k = if p k then d else SMap.get d m k := by
  induction m with
  | nil => simp [SMap.purge]
  | cons e m ih =>
    obtain ⟨a, v⟩ := e
    simp only [SMap.purge, List.filter_cons] at ih ⊢
    by_cases ha : p a = true <;> by_cases hk : a = k <;> simp_all [SMap.get]

/-! ## The canonical form -/

section wf

variable [DecidableEq α]

@[simp] theorem SMap.wf_nil (d : α) : SMap.wf d [] = true := rfl

theorem SMap.wfFrom_cons (d : α) (lo a : Nat) (v : α) (m : SMap α) :
    SMap.wfFrom d lo ((a, v) :: m) = true ↔ lo ≤ a ∧ v ≠ d ∧ SMap.wfFrom d (a + 1) m = true := by
  simp [SMap.wfFrom, and_assoc]

theorem SMap.wfFrom_mono (d : α) {lo hi : Nat} (m : SMap α) (h : SMap.wfFrom d hi m = true) (le : lo ≤ hi) :
    SMap.wfFrom d lo m = true := by
  cases m with
  | nil => rfl
  | cons e m =>
    obtain ⟨a, v⟩ := e
    rw [SMap.wfFrom_cons] at *
    exact ⟨Nat.le_trans le h.1, h.2⟩

theorem SMap.wfFrom_drop (d : α) (k : Nat) (m : SMap α) (lo : Nat) (h : SMap.wfFrom d lo m = true) :
    SMap.wfFrom d lo (SMap.drop m k) = true := by
  induction m generalizing lo with
  | nil => rfl
  | cons e m ih =>
    obtain ⟨a, v⟩ := e
    rw [SMap.wfFrom_cons] at h
    simp only [SMap.drop]
    split
    · exact SMap.wfFrom_mono d _ (ih _ h.2.2) (by omega)
    · rw [SMap.wfFrom_cons]; exact ⟨h.1, h.2.1, ih _ h.2.2⟩

theorem SMap.wfFrom_ins (d : α) (k : Nat) (v : α) (hv : v ≠ d) (m : SMap α) (lo : Nat) (le : lo ≤ k)
    (h : SMap.wfFrom d lo m = true) : SMap.wfFrom d lo (SMap.ins m k v) = true := by
  induction m generalizing lo with
  | nil => simp [SMap.ins, SMap.wfFrom, le, hv]
  | cons e m ih =>
    obtain ⟨a, w⟩ := e
    rw [SMap.wfFrom_cons] at h
    simp only [SMap.ins]
    split
    · rename_i hk
      rw [SMap.wfFrom_cons, SMap.wfFrom_cons]
      exact ⟨le, hv, by omega, h.2⟩
    · split
      · rename_i he
        rw [SMap.wfFrom_cons]
        exact ⟨le, hv, he ▸ h.2.2⟩
      · rw [SMap.wfFrom_cons]
        exact ⟨h.1, h.2.1, ih _ (by omega) h.2.2⟩

/-- A write keeps the canonical form. -/
theorem SMap.wf_set (d : α) (m : SMap α) (k : Nat) (v : α) (h : SMap.wf d m = true) : SMap.wf d (SMap.set d m k v) = true := by
  unfold SMap.set
  split
  · exact SMap.wfFrom_drop d k m 0 h
  · rename_i hv; exact SMap.wfFrom_ins d k v hv m 0 (Nat.zero_le k) h

theorem SMap.wf_upd (d : α) (m : SMap α) (k : Nat) (f : α → α) (h : SMap.wf d m = true) : SMap.wf d (SMap.upd d m k f) = true :=
  SMap.wf_set d m k _ h

theorem SMap.wfFrom_filter (d : α) (p : Nat × α → Bool) (m : SMap α) (lo : Nat) (h : SMap.wfFrom d lo m = true) :
    SMap.wfFrom d lo (List.filter p m) = true := by
  induction m generalizing lo with
  | nil => rfl
  | cons e m ih =>
    obtain ⟨a, v⟩ := e
    rw [SMap.wfFrom_cons] at h
    simp only [List.filter_cons]
    split
    · rw [SMap.wfFrom_cons]; exact ⟨h.1, h.2.1, ih _ h.2.2⟩
    · exact SMap.wfFrom_mono d _ (ih _ h.2.2) (by omega)

/-- Dropping entries keeps the canonical form. -/
theorem SMap.wf_purge (d : α) (m : SMap α) (p : Nat → Bool) (h : SMap.wf d m = true) : SMap.wf d (SMap.purge m p) = true :=
  SMap.wfFrom_filter d _ m 0 h

theorem SMap.wfFrom_map (d : α) (f : Nat → α → α) (m : SMap α) (lo : Nat) (h : SMap.wfFrom d lo m = true) :
    SMap.wfFrom d lo (SMap.map d m f) = true := by
  induction m generalizing lo with
  | nil => rfl
  | cons e m ih =>
    obtain ⟨a, v⟩ := e
    rw [SMap.wfFrom_cons] at h
    have := ih (a + 1) h.2.2
    simp only [SMap.map, List.map_cons, List.filter_cons] at this ⊢
    split
    · rename_i hv
      rw [SMap.wfFrom_cons]
      exact ⟨h.1, by simpa using hv, this⟩
    · exact SMap.wfFrom_mono d _ this (by omega)

/-- Changing every entry keeps the canonical form. -/
theorem SMap.wf_map (d : α) (m : SMap α) (f : Nat → α → α) (h : SMap.wf d m = true) : SMap.wf d (SMap.map d m f) = true :=
  SMap.wfFrom_map d f m 0 h

theorem SMap.get_of_wfFrom (d : α) (m : SMap α) (lo k : Nat) (h : SMap.wfFrom d lo m = true) (hk : k < lo) :
    SMap.get d m k = d := by
  induction m generalizing lo with
  | nil => rfl
  | cons e m ih =>
    obtain ⟨a, v⟩ := e
    rw [SMap.wfFrom_cons] at h
    rw [SMap.get, if_neg (by omega)]
    exact ih (a + 1) h.2.2 (by omega)

/-- Tables in canonical form that read alike are the same data. -/
theorem SMap.ext_of_wfFrom (d : α) (m n : SMap α) (lo : Nat) (hm : SMap.wfFrom d lo m = true) (hn : SMap.wfFrom d lo n = true)
    (h : ∀ k, SMap.get d m k = SMap.get d n k) : m = n := by
  induction m generalizing n lo with
  | nil =>
    cases n with
    | nil => rfl
    | cons e n =>
      obtain ⟨b, w⟩ := e
      rw [SMap.wfFrom_cons] at hn
      have := h b
      simp [SMap.get] at this
      exact absurd this.symm hn.2.1
  | cons e m ih =>
    obtain ⟨a, v⟩ := e
    rw [SMap.wfFrom_cons] at hm
    cases n with
    | nil =>
      have := h a
      simp [SMap.get] at this
      exact absurd this hm.2.1
    | cons e n =>
      obtain ⟨b, w⟩ := e
      rw [SMap.wfFrom_cons] at hn
      have ha := h a
      have hb := h b
      have hab : a = b := by
        rcases Nat.lt_trichotomy a b with l | l | l
        · simp [SMap.get, Nat.ne_of_gt l] at ha
          rw [SMap.get_of_wfFrom d n (b + 1) a hn.2.2 (by omega)] at ha
          exact absurd ha hm.2.1
        · exact l
        · simp [SMap.get, Nat.ne_of_gt l] at hb
          rw [SMap.get_of_wfFrom d m (a + 1) b hm.2.2 (by omega)] at hb
          exact absurd hb.symm hn.2.1
      subst hab
      have hv : v = w := by simpa [SMap.get] using ha
      subst hv
      congr 1
      refine ih n (a + 1) hm.2.2 hn.2.2 (fun k => ?_)
      have hk := h k
      by_cases e : a = k
      · subst e
        rw [SMap.get_of_wfFrom d m (a + 1) a hm.2.2 (by omega), SMap.get_of_wfFrom d n (a + 1) a hn.2.2 (by omega)]
      · simpa [SMap.get, e] using hk

theorem SMap.ext_of_wf (d : α) (m n : SMap α) (hm : SMap.wf d m = true) (hn : SMap.wf d n = true)
    (h : ∀ k, SMap.get d m k = SMap.get d n k) : m = n := SMap.ext_of_wfFrom d m n 0 hm hn h

end wf

theorem SMap.drop_drop {α : Type} (m : SMap α) (k : Nat) : SMap.drop (SMap.drop m k) k = SMap.drop m k := by
  induction m with
  | nil => rfl
  | cons p m ih =>
    obtain ⟨a, v⟩ := p
    by_cases h : a = k <;> simp [SMap.drop, h, ih]

theorem SMap.drop_ins {α : Type} (m : SMap α) (k : Nat) (v : α) : SMap.drop (SMap.ins m k v) k = SMap.drop m k := by
  induction m with
  | nil => simp [SMap.ins, SMap.drop]
  | cons p m ih =>
    obtain ⟨a, w⟩ := p
    by_cases h : k < a
    · simp [SMap.ins, h, SMap.drop]
    · by_cases e : a = k <;> simp [SMap.ins, h, e, SMap.drop, ih]

theorem SMap.ins_ins {α : Type} (m : SMap α) (k : Nat) (v w : α) : SMap.ins (SMap.ins m k v) k w = SMap.ins m k w := by
  induction m with
  | nil => simp [SMap.ins]
  | cons p m ih =>
    obtain ⟨a, u⟩ := p
    by_cases h : k < a
    · simp [SMap.ins, h]
    · by_cases e : a = k <;> simp [SMap.ins, h, e, ih]

/-- A key set twice holds the later value. -/
theorem SMap.set_set {α : Type} [DecidableEq α] (d : α) (m : SMap α) (k : Nat) (v w : α) (h : v ≠ d ∨ SMap.wf d m = true) :
    SMap.set d (SMap.set d m k v) k w = SMap.set d m k w := by
  by_cases hv : v = d
  · rcases h with h | h
    · exact absurd hv h
    · apply SMap.ext_of_wf d _ _ (SMap.wf_set _ _ _ _ (SMap.wf_set _ _ _ _ h)) (SMap.wf_set _ _ _ _ h)
      intro j
      simp only [SMap.get_set]
      split <;> rfl
  · by_cases hw : w = d
    · simp [SMap.set, hv, hw, SMap.drop_ins]
    · simp [SMap.set, hv, hw, SMap.ins_ins]

end Sys2Proof
end

