-- ==== Sys2Proof/Laws/State.lean ====
section
/-! SUPPORT. One lemma per field and per update of the state's tables, and reading an entry after writing one. -/

namespace Sys2Proof.Machine

/-! ## setCore -/

@[simp] theorem State.setCore_pending (s : State) (k : Nat) (x : Core) : (s.setCore k x).pending = s.pending := rfl
@[simp] theorem State.setCore_draws (s : State) (k : Nat) (x : Core) : (s.setCore k x).draws = s.draws := rfl
@[simp] theorem State.setCore_regions (s : State) (k : Nat) (x : Core) : (s.setCore k x).regions = s.regions := rfl
@[simp] theorem State.setCore_mem (s : State) (k : Nat) (x : Core) : (s.setCore k x).mem = s.mem := rfl
@[simp] theorem State.setCore_hbm (s : State) (k : Nat) (x : Core) : (s.setCore k x).hbm = s.hbm := rfl
@[simp] theorem State.setCore_walkers (s : State) (k : Nat) (x : Core) : (s.setCore k x).walkers = s.walkers := rfl
@[simp] theorem State.setCore_walkWb (s : State) (k : Nat) (x : Core) : (s.setCore k x).walkWb = s.walkWb := rfl
@[simp] theorem State.setCore_sched (s : State) (k : Nat) (x : Core) : (s.setCore k x).sched = s.sched := rfl
@[simp] theorem State.setCore_dmas (s : State) (k : Nat) (x : Core) : (s.setCore k x).dmas = s.dmas := rfl
@[simp] theorem State.setCore_ports (s : State) (k : Nat) (x : Core) : (s.setCore k x).ports = s.ports := rfl
@[simp] theorem State.setCore_lnk (s : State) (k : Nat) (x : Core) : (s.setCore k x).lnk = s.lnk := rfl
@[simp] theorem State.setCore_ptp (s : State) (k : Nat) (x : Core) : (s.setCore k x).ptp = s.ptp := rfl
@[simp] theorem State.setCore_timers (s : State) (k : Nat) (x : Core) : (s.setCore k x).timers = s.timers := rfl
@[simp] theorem State.setCore_pip (s : State) (k : Nat) (x : Core) : (s.setCore k x).pip = s.pip := rfl
@[simp] theorem State.setCore_host (s : State) (k : Nat) (x : Core) : (s.setCore k x).host = s.host := rfl
@[simp] theorem State.setCore_int (s : State) (k : Nat) (x : Core) : (s.setCore k x).int = s.int := rfl
@[simp] theorem State.setCore_rolls (s : State) (k : Nat) (x : Core) : (s.setCore k x).rolls = s.rolls := rfl
@[simp] theorem State.setCore_pwr (s : State) (k : Nat) (x : Core) : (s.setCore k x).pwr = s.pwr := rfl
@[simp] theorem State.setCore_dev (s : State) (k : Nat) (x : Core) : (s.setCore k x).dev = s.dev := rfl
@[simp] theorem State.setCore_dbg (s : State) (k : Nat) (x : Core) : (s.setCore k x).dbg = s.dbg := rfl
@[simp] theorem State.setCore_monU (s : State) (k : Nat) (x : Core) : (s.setCore k x).monU = s.monU := rfl
@[simp] theorem State.setCore_monM (s : State) (k : Nat) (x : Core) : (s.setCore k x).monM = s.monM := rfl
@[simp] theorem State.setCore_fabrics (s : State) (k : Nat) (x : Core) : (s.setCore k x).fabrics = s.fabrics := rfl
@[simp] theorem State.setCore_keeper (s : State) (k : Nat) (x : Core) : (s.setCore k x).keeper = s.keeper := rfl
@[simp] theorem State.setCore_outs (s : State) (k : Nat) (x : Core) : (s.setCore k x).outs = s.outs := rfl

/-! ## setRgn -/

@[simp] theorem State.setRgn_pending (s : State) (n : Nat) (x : Region) : (s.setRgn n x).pending = s.pending := rfl
@[simp] theorem State.setRgn_draws (s : State) (n : Nat) (x : Region) : (s.setRgn n x).draws = s.draws := rfl
@[simp] theorem State.setRgn_cores (s : State) (n : Nat) (x : Region) : (s.setRgn n x).cores = s.cores := rfl
@[simp] theorem State.setRgn_mem (s : State) (n : Nat) (x : Region) : (s.setRgn n x).mem = s.mem := rfl
@[simp] theorem State.setRgn_hbm (s : State) (n : Nat) (x : Region) : (s.setRgn n x).hbm = s.hbm := rfl
@[simp] theorem State.setRgn_walkers (s : State) (n : Nat) (x : Region) : (s.setRgn n x).walkers = s.walkers := rfl
@[simp] theorem State.setRgn_walkWb (s : State) (n : Nat) (x : Region) : (s.setRgn n x).walkWb = s.walkWb := rfl
@[simp] theorem State.setRgn_sched (s : State) (n : Nat) (x : Region) : (s.setRgn n x).sched = s.sched := rfl
@[simp] theorem State.setRgn_dmas (s : State) (n : Nat) (x : Region) : (s.setRgn n x).dmas = s.dmas := rfl
@[simp] theorem State.setRgn_ports (s : State) (n : Nat) (x : Region) : (s.setRgn n x).ports = s.ports := rfl
@[simp] theorem State.setRgn_lnk (s : State) (n : Nat) (x : Region) : (s.setRgn n x).lnk = s.lnk := rfl
@[simp] theorem State.setRgn_ptp (s : State) (n : Nat) (x : Region) : (s.setRgn n x).ptp = s.ptp := rfl
@[simp] theorem State.setRgn_timers (s : State) (n : Nat) (x : Region) : (s.setRgn n x).timers = s.timers := rfl
@[simp] theorem State.setRgn_pip (s : State) (n : Nat) (x : Region) : (s.setRgn n x).pip = s.pip := rfl
@[simp] theorem State.setRgn_host (s : State) (n : Nat) (x : Region) : (s.setRgn n x).host = s.host := rfl
@[simp] theorem State.setRgn_int (s : State) (n : Nat) (x : Region) : (s.setRgn n x).int = s.int := rfl
@[simp] theorem State.setRgn_rolls (s : State) (n : Nat) (x : Region) : (s.setRgn n x).rolls = s.rolls := rfl
@[simp] theorem State.setRgn_pwr (s : State) (n : Nat) (x : Region) : (s.setRgn n x).pwr = s.pwr := rfl
@[simp] theorem State.setRgn_dev (s : State) (n : Nat) (x : Region) : (s.setRgn n x).dev = s.dev := rfl
@[simp] theorem State.setRgn_dbg (s : State) (n : Nat) (x : Region) : (s.setRgn n x).dbg = s.dbg := rfl
@[simp] theorem State.setRgn_monU (s : State) (n : Nat) (x : Region) : (s.setRgn n x).monU = s.monU := rfl
@[simp] theorem State.setRgn_monM (s : State) (n : Nat) (x : Region) : (s.setRgn n x).monM = s.monM := rfl
@[simp] theorem State.setRgn_fabrics (s : State) (n : Nat) (x : Region) : (s.setRgn n x).fabrics = s.fabrics := rfl
@[simp] theorem State.setRgn_keeper (s : State) (n : Nat) (x : Region) : (s.setRgn n x).keeper = s.keeper := rfl
@[simp] theorem State.setRgn_outs (s : State) (n : Nat) (x : Region) : (s.setRgn n x).outs = s.outs := rfl

/-! ## setChan -/

@[simp] theorem State.setChan_pending (s : State) (n : Nat) (x : Dma) : (s.setChan n x).pending = s.pending := rfl
@[simp] theorem State.setChan_draws (s : State) (n : Nat) (x : Dma) : (s.setChan n x).draws = s.draws := rfl
@[simp] theorem State.setChan_cores (s : State) (n : Nat) (x : Dma) : (s.setChan n x).cores = s.cores := rfl
@[simp] theorem State.setChan_regions (s : State) (n : Nat) (x : Dma) : (s.setChan n x).regions = s.regions := rfl
@[simp] theorem State.setChan_mem (s : State) (n : Nat) (x : Dma) : (s.setChan n x).mem = s.mem := rfl
@[simp] theorem State.setChan_hbm (s : State) (n : Nat) (x : Dma) : (s.setChan n x).hbm = s.hbm := rfl
@[simp] theorem State.setChan_walkers (s : State) (n : Nat) (x : Dma) : (s.setChan n x).walkers = s.walkers := rfl
@[simp] theorem State.setChan_walkWb (s : State) (n : Nat) (x : Dma) : (s.setChan n x).walkWb = s.walkWb := rfl
@[simp] theorem State.setChan_sched (s : State) (n : Nat) (x : Dma) : (s.setChan n x).sched = s.sched := rfl
@[simp] theorem State.setChan_ports (s : State) (n : Nat) (x : Dma) : (s.setChan n x).ports = s.ports := rfl
@[simp] theorem State.setChan_lnk (s : State) (n : Nat) (x : Dma) : (s.setChan n x).lnk = s.lnk := rfl
@[simp] theorem State.setChan_ptp (s : State) (n : Nat) (x : Dma) : (s.setChan n x).ptp = s.ptp := rfl
@[simp] theorem State.setChan_timers (s : State) (n : Nat) (x : Dma) : (s.setChan n x).timers = s.timers := rfl
@[simp] theorem State.setChan_pip (s : State) (n : Nat) (x : Dma) : (s.setChan n x).pip = s.pip := rfl
@[simp] theorem State.setChan_host (s : State) (n : Nat) (x : Dma) : (s.setChan n x).host = s.host := rfl
@[simp] theorem State.setChan_int (s : State) (n : Nat) (x : Dma) : (s.setChan n x).int = s.int := rfl
@[simp] theorem State.setChan_rolls (s : State) (n : Nat) (x : Dma) : (s.setChan n x).rolls = s.rolls := rfl
@[simp] theorem State.setChan_pwr (s : State) (n : Nat) (x : Dma) : (s.setChan n x).pwr = s.pwr := rfl
@[simp] theorem State.setChan_dev (s : State) (n : Nat) (x : Dma) : (s.setChan n x).dev = s.dev := rfl
@[simp] theorem State.setChan_dbg (s : State) (n : Nat) (x : Dma) : (s.setChan n x).dbg = s.dbg := rfl
@[simp] theorem State.setChan_monU (s : State) (n : Nat) (x : Dma) : (s.setChan n x).monU = s.monU := rfl
@[simp] theorem State.setChan_monM (s : State) (n : Nat) (x : Dma) : (s.setChan n x).monM = s.monM := rfl
@[simp] theorem State.setChan_fabrics (s : State) (n : Nat) (x : Dma) : (s.setChan n x).fabrics = s.fabrics := rfl
@[simp] theorem State.setChan_keeper (s : State) (n : Nat) (x : Dma) : (s.setChan n x).keeper = s.keeper := rfl
@[simp] theorem State.setChan_outs (s : State) (n : Nat) (x : Dma) : (s.setChan n x).outs = s.outs := rfl

/-! ## setPort -/

@[simp] theorem State.setPort_pending (s : State) (p : Nat) (x : Port) : (s.setPort p x).pending = s.pending := rfl
@[simp] theorem State.setPort_draws (s : State) (p : Nat) (x : Port) : (s.setPort p x).draws = s.draws := rfl
@[simp] theorem State.setPort_cores (s : State) (p : Nat) (x : Port) : (s.setPort p x).cores = s.cores := rfl
@[simp] theorem State.setPort_regions (s : State) (p : Nat) (x : Port) : (s.setPort p x).regions = s.regions := rfl
@[simp] theorem State.setPort_mem (s : State) (p : Nat) (x : Port) : (s.setPort p x).mem = s.mem := rfl
@[simp] theorem State.setPort_hbm (s : State) (p : Nat) (x : Port) : (s.setPort p x).hbm = s.hbm := rfl
@[simp] theorem State.setPort_walkers (s : State) (p : Nat) (x : Port) : (s.setPort p x).walkers = s.walkers := rfl
@[simp] theorem State.setPort_walkWb (s : State) (p : Nat) (x : Port) : (s.setPort p x).walkWb = s.walkWb := rfl
@[simp] theorem State.setPort_sched (s : State) (p : Nat) (x : Port) : (s.setPort p x).sched = s.sched := rfl
@[simp] theorem State.setPort_dmas (s : State) (p : Nat) (x : Port) : (s.setPort p x).dmas = s.dmas := rfl
@[simp] theorem State.setPort_lnk (s : State) (p : Nat) (x : Port) : (s.setPort p x).lnk = s.lnk := rfl
@[simp] theorem State.setPort_ptp (s : State) (p : Nat) (x : Port) : (s.setPort p x).ptp = s.ptp := rfl
@[simp] theorem State.setPort_timers (s : State) (p : Nat) (x : Port) : (s.setPort p x).timers = s.timers := rfl
@[simp] theorem State.setPort_pip (s : State) (p : Nat) (x : Port) : (s.setPort p x).pip = s.pip := rfl
@[simp] theorem State.setPort_host (s : State) (p : Nat) (x : Port) : (s.setPort p x).host = s.host := rfl
@[simp] theorem State.setPort_int (s : State) (p : Nat) (x : Port) : (s.setPort p x).int = s.int := rfl
@[simp] theorem State.setPort_rolls (s : State) (p : Nat) (x : Port) : (s.setPort p x).rolls = s.rolls := rfl
@[simp] theorem State.setPort_pwr (s : State) (p : Nat) (x : Port) : (s.setPort p x).pwr = s.pwr := rfl
@[simp] theorem State.setPort_dev (s : State) (p : Nat) (x : Port) : (s.setPort p x).dev = s.dev := rfl
@[simp] theorem State.setPort_dbg (s : State) (p : Nat) (x : Port) : (s.setPort p x).dbg = s.dbg := rfl
@[simp] theorem State.setPort_monU (s : State) (p : Nat) (x : Port) : (s.setPort p x).monU = s.monU := rfl
@[simp] theorem State.setPort_monM (s : State) (p : Nat) (x : Port) : (s.setPort p x).monM = s.monM := rfl
@[simp] theorem State.setPort_fabrics (s : State) (p : Nat) (x : Port) : (s.setPort p x).fabrics = s.fabrics := rfl
@[simp] theorem State.setPort_keeper (s : State) (p : Nat) (x : Port) : (s.setPort p x).keeper = s.keeper := rfl
@[simp] theorem State.setPort_outs (s : State) (p : Nat) (x : Port) : (s.setPort p x).outs = s.outs := rfl

/-! ## setTmr -/

@[simp] theorem State.setTmr_pending (s : State) (t : Nat) (x : Timer) : (s.setTmr t x).pending = s.pending := rfl
@[simp] theorem State.setTmr_draws (s : State) (t : Nat) (x : Timer) : (s.setTmr t x).draws = s.draws := rfl
@[simp] theorem State.setTmr_cores (s : State) (t : Nat) (x : Timer) : (s.setTmr t x).cores = s.cores := rfl
@[simp] theorem State.setTmr_regions (s : State) (t : Nat) (x : Timer) : (s.setTmr t x).regions = s.regions := rfl
@[simp] theorem State.setTmr_mem (s : State) (t : Nat) (x : Timer) : (s.setTmr t x).mem = s.mem := rfl
@[simp] theorem State.setTmr_hbm (s : State) (t : Nat) (x : Timer) : (s.setTmr t x).hbm = s.hbm := rfl
@[simp] theorem State.setTmr_walkers (s : State) (t : Nat) (x : Timer) : (s.setTmr t x).walkers = s.walkers := rfl
@[simp] theorem State.setTmr_walkWb (s : State) (t : Nat) (x : Timer) : (s.setTmr t x).walkWb = s.walkWb := rfl
@[simp] theorem State.setTmr_sched (s : State) (t : Nat) (x : Timer) : (s.setTmr t x).sched = s.sched := rfl
@[simp] theorem State.setTmr_dmas (s : State) (t : Nat) (x : Timer) : (s.setTmr t x).dmas = s.dmas := rfl
@[simp] theorem State.setTmr_ports (s : State) (t : Nat) (x : Timer) : (s.setTmr t x).ports = s.ports := rfl
@[simp] theorem State.setTmr_lnk (s : State) (t : Nat) (x : Timer) : (s.setTmr t x).lnk = s.lnk := rfl
@[simp] theorem State.setTmr_ptp (s : State) (t : Nat) (x : Timer) : (s.setTmr t x).ptp = s.ptp := rfl
@[simp] theorem State.setTmr_pip (s : State) (t : Nat) (x : Timer) : (s.setTmr t x).pip = s.pip := rfl
@[simp] theorem State.setTmr_host (s : State) (t : Nat) (x : Timer) : (s.setTmr t x).host = s.host := rfl
@[simp] theorem State.setTmr_int (s : State) (t : Nat) (x : Timer) : (s.setTmr t x).int = s.int := rfl
@[simp] theorem State.setTmr_rolls (s : State) (t : Nat) (x : Timer) : (s.setTmr t x).rolls = s.rolls := rfl
@[simp] theorem State.setTmr_pwr (s : State) (t : Nat) (x : Timer) : (s.setTmr t x).pwr = s.pwr := rfl
@[simp] theorem State.setTmr_dev (s : State) (t : Nat) (x : Timer) : (s.setTmr t x).dev = s.dev := rfl
@[simp] theorem State.setTmr_dbg (s : State) (t : Nat) (x : Timer) : (s.setTmr t x).dbg = s.dbg := rfl
@[simp] theorem State.setTmr_monU (s : State) (t : Nat) (x : Timer) : (s.setTmr t x).monU = s.monU := rfl
@[simp] theorem State.setTmr_monM (s : State) (t : Nat) (x : Timer) : (s.setTmr t x).monM = s.monM := rfl
@[simp] theorem State.setTmr_fabrics (s : State) (t : Nat) (x : Timer) : (s.setTmr t x).fabrics = s.fabrics := rfl
@[simp] theorem State.setTmr_keeper (s : State) (t : Nat) (x : Timer) : (s.setTmr t x).keeper = s.keeper := rfl
@[simp] theorem State.setTmr_outs (s : State) (t : Nat) (x : Timer) : (s.setTmr t x).outs = s.outs := rfl

/-! ## onCore -/

@[simp] theorem State.onCore_pending (s : State) (k : Nat) (f : Core → Core) : (s.onCore k f).pending = s.pending := rfl
@[simp] theorem State.onCore_draws (s : State) (k : Nat) (f : Core → Core) : (s.onCore k f).draws = s.draws := rfl
@[simp] theorem State.onCore_regions (s : State) (k : Nat) (f : Core → Core) : (s.onCore k f).regions = s.regions := rfl
@[simp] theorem State.onCore_mem (s : State) (k : Nat) (f : Core → Core) : (s.onCore k f).mem = s.mem := rfl
@[simp] theorem State.onCore_hbm (s : State) (k : Nat) (f : Core → Core) : (s.onCore k f).hbm = s.hbm := rfl
@[simp] theorem State.onCore_walkers (s : State) (k : Nat) (f : Core → Core) : (s.onCore k f).walkers = s.walkers := rfl
@[simp] theorem State.onCore_walkWb (s : State) (k : Nat) (f : Core → Core) : (s.onCore k f).walkWb = s.walkWb := rfl
@[simp] theorem State.onCore_sched (s : State) (k : Nat) (f : Core → Core) : (s.onCore k f).sched = s.sched := rfl
@[simp] theorem State.onCore_dmas (s : State) (k : Nat) (f : Core → Core) : (s.onCore k f).dmas = s.dmas := rfl
@[simp] theorem State.onCore_ports (s : State) (k : Nat) (f : Core → Core) : (s.onCore k f).ports = s.ports := rfl
@[simp] theorem State.onCore_lnk (s : State) (k : Nat) (f : Core → Core) : (s.onCore k f).lnk = s.lnk := rfl
@[simp] theorem State.onCore_ptp (s : State) (k : Nat) (f : Core → Core) : (s.onCore k f).ptp = s.ptp := rfl
@[simp] theorem State.onCore_timers (s : State) (k : Nat) (f : Core → Core) : (s.onCore k f).timers = s.timers := rfl
@[simp] theorem State.onCore_pip (s : State) (k : Nat) (f : Core → Core) : (s.onCore k f).pip = s.pip := rfl
@[simp] theorem State.onCore_host (s : State) (k : Nat) (f : Core → Core) : (s.onCore k f).host = s.host := rfl
@[simp] theorem State.onCore_int (s : State) (k : Nat) (f : Core → Core) : (s.onCore k f).int = s.int := rfl
@[simp] theorem State.onCore_rolls (s : State) (k : Nat) (f : Core → Core) : (s.onCore k f).rolls = s.rolls := rfl
@[simp] theorem State.onCore_pwr (s : State) (k : Nat) (f : Core → Core) : (s.onCore k f).pwr = s.pwr := rfl
@[simp] theorem State.onCore_dev (s : State) (k : Nat) (f : Core → Core) : (s.onCore k f).dev = s.dev := rfl
@[simp] theorem State.onCore_dbg (s : State) (k : Nat) (f : Core → Core) : (s.onCore k f).dbg = s.dbg := rfl
@[simp] theorem State.onCore_monU (s : State) (k : Nat) (f : Core → Core) : (s.onCore k f).monU = s.monU := rfl
@[simp] theorem State.onCore_monM (s : State) (k : Nat) (f : Core → Core) : (s.onCore k f).monM = s.monM := rfl
@[simp] theorem State.onCore_fabrics (s : State) (k : Nat) (f : Core → Core) : (s.onCore k f).fabrics = s.fabrics := rfl
@[simp] theorem State.onCore_keeper (s : State) (k : Nat) (f : Core → Core) : (s.onCore k f).keeper = s.keeper := rfl
@[simp] theorem State.onCore_outs (s : State) (k : Nat) (f : Core → Core) : (s.onCore k f).outs = s.outs := rfl

/-! ## onRgn -/

@[simp] theorem State.onRgn_pending (s : State) (n : Nat) (f : Region → Region) : (s.onRgn n f).pending = s.pending := rfl
@[simp] theorem State.onRgn_draws (s : State) (n : Nat) (f : Region → Region) : (s.onRgn n f).draws = s.draws := rfl
@[simp] theorem State.onRgn_cores (s : State) (n : Nat) (f : Region → Region) : (s.onRgn n f).cores = s.cores := rfl
@[simp] theorem State.onRgn_mem (s : State) (n : Nat) (f : Region → Region) : (s.onRgn n f).mem = s.mem := rfl
@[simp] theorem State.onRgn_hbm (s : State) (n : Nat) (f : Region → Region) : (s.onRgn n f).hbm = s.hbm := rfl
@[simp] theorem State.onRgn_walkers (s : State) (n : Nat) (f : Region → Region) : (s.onRgn n f).walkers = s.walkers := rfl
@[simp] theorem State.onRgn_walkWb (s : State) (n : Nat) (f : Region → Region) : (s.onRgn n f).walkWb = s.walkWb := rfl
@[simp] theorem State.onRgn_sched (s : State) (n : Nat) (f : Region → Region) : (s.onRgn n f).sched = s.sched := rfl
@[simp] theorem State.onRgn_dmas (s : State) (n : Nat) (f : Region → Region) : (s.onRgn n f).dmas = s.dmas := rfl
@[simp] theorem State.onRgn_ports (s : State) (n : Nat) (f : Region → Region) : (s.onRgn n f).ports = s.ports := rfl
@[simp] theorem State.onRgn_lnk (s : State) (n : Nat) (f : Region → Region) : (s.onRgn n f).lnk = s.lnk := rfl
@[simp] theorem State.onRgn_ptp (s : State) (n : Nat) (f : Region → Region) : (s.onRgn n f).ptp = s.ptp := rfl
@[simp] theorem State.onRgn_timers (s : State) (n : Nat) (f : Region → Region) : (s.onRgn n f).timers = s.timers := rfl
@[simp] theorem State.onRgn_pip (s : State) (n : Nat) (f : Region → Region) : (s.onRgn n f).pip = s.pip := rfl
@[simp] theorem State.onRgn_host (s : State) (n : Nat) (f : Region → Region) : (s.onRgn n f).host = s.host := rfl
@[simp] theorem State.onRgn_int (s : State) (n : Nat) (f : Region → Region) : (s.onRgn n f).int = s.int := rfl
@[simp] theorem State.onRgn_rolls (s : State) (n : Nat) (f : Region → Region) : (s.onRgn n f).rolls = s.rolls := rfl
@[simp] theorem State.onRgn_pwr (s : State) (n : Nat) (f : Region → Region) : (s.onRgn n f).pwr = s.pwr := rfl
@[simp] theorem State.onRgn_dev (s : State) (n : Nat) (f : Region → Region) : (s.onRgn n f).dev = s.dev := rfl
@[simp] theorem State.onRgn_dbg (s : State) (n : Nat) (f : Region → Region) : (s.onRgn n f).dbg = s.dbg := rfl
@[simp] theorem State.onRgn_monU (s : State) (n : Nat) (f : Region → Region) : (s.onRgn n f).monU = s.monU := rfl
@[simp] theorem State.onRgn_monM (s : State) (n : Nat) (f : Region → Region) : (s.onRgn n f).monM = s.monM := rfl
@[simp] theorem State.onRgn_fabrics (s : State) (n : Nat) (f : Region → Region) : (s.onRgn n f).fabrics = s.fabrics := rfl
@[simp] theorem State.onRgn_keeper (s : State) (n : Nat) (f : Region → Region) : (s.onRgn n f).keeper = s.keeper := rfl
@[simp] theorem State.onRgn_outs (s : State) (n : Nat) (f : Region → Region) : (s.onRgn n f).outs = s.outs := rfl

/-! ## Entries -/

@[simp] theorem State.core_setCore (s : State) (k : Nat) (x : Core) : (s.setCore k x).core k = x := by simp [State.core, State.setCore]
theorem State.core_setCore_other (s : State) (k : Nat) (x : Core) {j : Nat} (h : j ≠ k) : (s.setCore k x).core j = s.core j := by
  simp [State.core, State.setCore, SMap.get_set_other _ _ _ h]
@[simp] theorem State.rgn_setCore (s : State) (k : Nat) (x : Core) (j : Nat) : (s.setCore k x).rgn j = s.rgn j := rfl
@[simp] theorem State.chan_setCore (s : State) (k : Nat) (x : Core) (j : Nat) : (s.setCore k x).chan j = s.chan j := rfl
@[simp] theorem State.port_setCore (s : State) (k : Nat) (x : Core) (j : Nat) : (s.setCore k x).port j = s.port j := rfl
@[simp] theorem State.tmr_setCore (s : State) (k : Nat) (x : Core) (j : Nat) : (s.setCore k x).tmr j = s.tmr j := rfl
@[simp] theorem State.core_setRgn (s : State) (n : Nat) (x : Region) (j : Nat) : (s.setRgn n x).core j = s.core j := rfl
@[simp] theorem State.rgn_setRgn (s : State) (n : Nat) (x : Region) : (s.setRgn n x).rgn n = x := by simp [State.rgn, State.setRgn]
theorem State.rgn_setRgn_other (s : State) (n : Nat) (x : Region) {j : Nat} (h : j ≠ n) : (s.setRgn n x).rgn j = s.rgn j := by
  simp [State.rgn, State.setRgn, SMap.get_set_other _ _ _ h]
@[simp] theorem State.chan_setRgn (s : State) (n : Nat) (x : Region) (j : Nat) : (s.setRgn n x).chan j = s.chan j := rfl
@[simp] theorem State.port_setRgn (s : State) (n : Nat) (x : Region) (j : Nat) : (s.setRgn n x).port j = s.port j := rfl
@[simp] theorem State.tmr_setRgn (s : State) (n : Nat) (x : Region) (j : Nat) : (s.setRgn n x).tmr j = s.tmr j := rfl
@[simp] theorem State.core_setChan (s : State) (n : Nat) (x : Dma) (j : Nat) : (s.setChan n x).core j = s.core j := rfl
@[simp] theorem State.rgn_setChan (s : State) (n : Nat) (x : Dma) (j : Nat) : (s.setChan n x).rgn j = s.rgn j := rfl
@[simp] theorem State.chan_setChan (s : State) (n : Nat) (x : Dma) : (s.setChan n x).chan n = x := by simp [State.chan, State.setChan]
theorem State.chan_setChan_other (s : State) (n : Nat) (x : Dma) {j : Nat} (h : j ≠ n) : (s.setChan n x).chan j = s.chan j := by
  simp [State.chan, State.setChan, SMap.get_set_other _ _ _ h]
@[simp] theorem State.port_setChan (s : State) (n : Nat) (x : Dma) (j : Nat) : (s.setChan n x).port j = s.port j := rfl
@[simp] theorem State.tmr_setChan (s : State) (n : Nat) (x : Dma) (j : Nat) : (s.setChan n x).tmr j = s.tmr j := rfl
@[simp] theorem State.core_setPort (s : State) (p : Nat) (x : Port) (j : Nat) : (s.setPort p x).core j = s.core j := rfl
@[simp] theorem State.rgn_setPort (s : State) (p : Nat) (x : Port) (j : Nat) : (s.setPort p x).rgn j = s.rgn j := rfl
@[simp] theorem State.chan_setPort (s : State) (p : Nat) (x : Port) (j : Nat) : (s.setPort p x).chan j = s.chan j := rfl
@[simp] theorem State.port_setPort (s : State) (p : Nat) (x : Port) : (s.setPort p x).port p = x := by simp [State.port, State.setPort]
theorem State.port_setPort_other (s : State) (p : Nat) (x : Port) {j : Nat} (h : j ≠ p) : (s.setPort p x).port j = s.port j := by
  simp [State.port, State.setPort, SMap.get_set_other _ _ _ h]
@[simp] theorem State.tmr_setPort (s : State) (p : Nat) (x : Port) (j : Nat) : (s.setPort p x).tmr j = s.tmr j := rfl
@[simp] theorem State.core_setTmr (s : State) (t : Nat) (x : Timer) (j : Nat) : (s.setTmr t x).core j = s.core j := rfl
@[simp] theorem State.rgn_setTmr (s : State) (t : Nat) (x : Timer) (j : Nat) : (s.setTmr t x).rgn j = s.rgn j := rfl
@[simp] theorem State.chan_setTmr (s : State) (t : Nat) (x : Timer) (j : Nat) : (s.setTmr t x).chan j = s.chan j := rfl
@[simp] theorem State.port_setTmr (s : State) (t : Nat) (x : Timer) (j : Nat) : (s.setTmr t x).port j = s.port j := rfl
@[simp] theorem State.tmr_setTmr (s : State) (t : Nat) (x : Timer) : (s.setTmr t x).tmr t = x := by simp [State.tmr, State.setTmr]
theorem State.tmr_setTmr_other (s : State) (t : Nat) (x : Timer) {j : Nat} (h : j ≠ t) : (s.setTmr t x).tmr j = s.tmr j := by
  simp [State.tmr, State.setTmr, SMap.get_set_other _ _ _ h]
@[simp] theorem State.core_onCore (s : State) (k : Nat) (f : Core → Core) : (s.onCore k f).core k = f (s.core k) := by simp [State.onCore]
@[simp] theorem State.rgn_onRgn (s : State) (n : Nat) (f : Region → Region) : (s.onRgn n f).rgn n = f (s.rgn n) := by simp [State.onRgn]

/-! ## Draws -/

@[simp] theorem State.draw_pending (s : State) (w : Nat) : (s.draw w).2.pending = s.pending := rfl
@[simp] theorem State.draw_cores (s : State) (w : Nat) : (s.draw w).2.cores = s.cores := rfl
@[simp] theorem State.draw_regions (s : State) (w : Nat) : (s.draw w).2.regions = s.regions := rfl
@[simp] theorem State.draw_mem (s : State) (w : Nat) : (s.draw w).2.mem = s.mem := rfl
@[simp] theorem State.draw_hbm (s : State) (w : Nat) : (s.draw w).2.hbm = s.hbm := rfl
@[simp] theorem State.draw_walkers (s : State) (w : Nat) : (s.draw w).2.walkers = s.walkers := rfl
@[simp] theorem State.draw_walkWb (s : State) (w : Nat) : (s.draw w).2.walkWb = s.walkWb := rfl
@[simp] theorem State.draw_sched (s : State) (w : Nat) : (s.draw w).2.sched = s.sched := rfl
@[simp] theorem State.draw_dmas (s : State) (w : Nat) : (s.draw w).2.dmas = s.dmas := rfl
@[simp] theorem State.draw_ports (s : State) (w : Nat) : (s.draw w).2.ports = s.ports := rfl
@[simp] theorem State.draw_lnk (s : State) (w : Nat) : (s.draw w).2.lnk = s.lnk := rfl
@[simp] theorem State.draw_ptp (s : State) (w : Nat) : (s.draw w).2.ptp = s.ptp := rfl
@[simp] theorem State.draw_timers (s : State) (w : Nat) : (s.draw w).2.timers = s.timers := rfl
@[simp] theorem State.draw_pip (s : State) (w : Nat) : (s.draw w).2.pip = s.pip := rfl
@[simp] theorem State.draw_host (s : State) (w : Nat) : (s.draw w).2.host = s.host := rfl
@[simp] theorem State.draw_int (s : State) (w : Nat) : (s.draw w).2.int = s.int := rfl
@[simp] theorem State.draw_rolls (s : State) (w : Nat) : (s.draw w).2.rolls = s.rolls := rfl
@[simp] theorem State.draw_pwr (s : State) (w : Nat) : (s.draw w).2.pwr = s.pwr := rfl
@[simp] theorem State.draw_dev (s : State) (w : Nat) : (s.draw w).2.dev = s.dev := rfl
@[simp] theorem State.draw_dbg (s : State) (w : Nat) : (s.draw w).2.dbg = s.dbg := rfl
@[simp] theorem State.draw_monU (s : State) (w : Nat) : (s.draw w).2.monU = s.monU := rfl
@[simp] theorem State.draw_monM (s : State) (w : Nat) : (s.draw w).2.monM = s.monM := rfl
@[simp] theorem State.draw_fabrics (s : State) (w : Nat) : (s.draw w).2.fabrics = s.fabrics := rfl
@[simp] theorem State.draw_keeper (s : State) (w : Nat) : (s.draw w).2.keeper = s.keeper := rfl
@[simp] theorem State.draw_outs (s : State) (w : Nat) : (s.draw w).2.outs = s.outs := rfl
@[simp] theorem State.draw_core (s : State) (w : Nat) (j : Nat) : (s.draw w).2.core j = s.core j := rfl
@[simp] theorem State.draw_rgn (s : State) (w : Nat) (j : Nat) : (s.draw w).2.rgn j = s.rgn j := rfl
@[simp] theorem State.draw_chan (s : State) (w : Nat) (j : Nat) : (s.draw w).2.chan j = s.chan j := rfl
@[simp] theorem State.draw_port (s : State) (w : Nat) (j : Nat) : (s.draw w).2.port j = s.port j := rfl
@[simp] theorem State.draw_tmr (s : State) (w : Nat) (j : Nat) : (s.draw w).2.tmr j = s.tmr j := rfl
@[simp] theorem State.drawBool_pending (s : State) : (s.drawBool).2.pending = s.pending := rfl
@[simp] theorem State.drawBool_cores (s : State) : (s.drawBool).2.cores = s.cores := rfl
@[simp] theorem State.drawBool_regions (s : State) : (s.drawBool).2.regions = s.regions := rfl
@[simp] theorem State.drawBool_mem (s : State) : (s.drawBool).2.mem = s.mem := rfl
@[simp] theorem State.drawBool_hbm (s : State) : (s.drawBool).2.hbm = s.hbm := rfl
@[simp] theorem State.drawBool_walkers (s : State) : (s.drawBool).2.walkers = s.walkers := rfl
@[simp] theorem State.drawBool_walkWb (s : State) : (s.drawBool).2.walkWb = s.walkWb := rfl
@[simp] theorem State.drawBool_sched (s : State) : (s.drawBool).2.sched = s.sched := rfl
@[simp] theorem State.drawBool_dmas (s : State) : (s.drawBool).2.dmas = s.dmas := rfl
@[simp] theorem State.drawBool_ports (s : State) : (s.drawBool).2.ports = s.ports := rfl
@[simp] theorem State.drawBool_lnk (s : State) : (s.drawBool).2.lnk = s.lnk := rfl
@[simp] theorem State.drawBool_ptp (s : State) : (s.drawBool).2.ptp = s.ptp := rfl
@[simp] theorem State.drawBool_timers (s : State) : (s.drawBool).2.timers = s.timers := rfl
@[simp] theorem State.drawBool_pip (s : State) : (s.drawBool).2.pip = s.pip := rfl
@[simp] theorem State.drawBool_host (s : State) : (s.drawBool).2.host = s.host := rfl
@[simp] theorem State.drawBool_int (s : State) : (s.drawBool).2.int = s.int := rfl
@[simp] theorem State.drawBool_rolls (s : State) : (s.drawBool).2.rolls = s.rolls := rfl
@[simp] theorem State.drawBool_pwr (s : State) : (s.drawBool).2.pwr = s.pwr := rfl
@[simp] theorem State.drawBool_dev (s : State) : (s.drawBool).2.dev = s.dev := rfl
@[simp] theorem State.drawBool_dbg (s : State) : (s.drawBool).2.dbg = s.dbg := rfl
@[simp] theorem State.drawBool_monU (s : State) : (s.drawBool).2.monU = s.monU := rfl
@[simp] theorem State.drawBool_monM (s : State) : (s.drawBool).2.monM = s.monM := rfl
@[simp] theorem State.drawBool_fabrics (s : State) : (s.drawBool).2.fabrics = s.fabrics := rfl
@[simp] theorem State.drawBool_keeper (s : State) : (s.drawBool).2.keeper = s.keeper := rfl
@[simp] theorem State.drawBool_outs (s : State) : (s.drawBool).2.outs = s.outs := rfl
@[simp] theorem State.drawBool_core (s : State) (j : Nat) : (s.drawBool).2.core j = s.core j := rfl
@[simp] theorem State.drawBool_rgn (s : State) (j : Nat) : (s.drawBool).2.rgn j = s.rgn j := rfl
@[simp] theorem State.drawBool_chan (s : State) (j : Nat) : (s.drawBool).2.chan j = s.chan j := rfl
@[simp] theorem State.drawBool_port (s : State) (j : Nat) : (s.drawBool).2.port j = s.port j := rfl
@[simp] theorem State.drawBool_tmr (s : State) (j : Nat) : (s.drawBool).2.tmr j = s.tmr j := rfl

/-! ## Entries set twice -/

theorem State.setCore_setCore (s : State) (k : Nat) (x y : Core) (h : x ≠ {} ∨ SMap.wf {} s.cores = true) :
    (s.setCore k x).setCore k y = s.setCore k y :=
  congrArg (fun m => { s with cores := m }) (SMap.set_set {} s.cores k x y h)
theorem State.setRgn_setRgn (s : State) (n : Nat) (x y : Region) (h : x ≠ {} ∨ SMap.wf {} s.regions = true) :
    (s.setRgn n x).setRgn n y = s.setRgn n y :=
  congrArg (fun m => { s with regions := m }) (SMap.set_set {} s.regions n x y h)

end Sys2Proof.Machine
end

