-- ==== Sys2Proof/Laws/Core.lean ====
section
/-! SUPPORT. One lemma per field and per update of a core, and reading a register after writing one. -/

namespace Sys2Proof.Machine

open Sys2Proof.Safety

/-! ## cancel -/

@[simp] theorem Core.cancel_pc (c : Core) (p : Slot → Bool) : (c.cancel p).pc = c.pc := rfl
@[simp] theorem Core.cancel_w (c : Core) (p : Slot → Bool) : (c.cancel p).w = c.w := rfl
@[simp] theorem Core.cancel_a (c : Core) (p : Slot → Bool) : (c.cancel p).a = c.a := rfl
@[simp] theorem Core.cancel_am (c : Core) (p : Slot → Bool) : (c.cancel p).am = c.am := rfl
@[simp] theorem Core.cancel_f (c : Core) (p : Slot → Bool) : (c.cancel p).f = c.f := rfl
@[simp] theorem Core.cancel_t (c : Core) (p : Slot → Bool) : (c.cancel p).t = c.t := rfl
@[simp] theorem Core.cancel_ac (c : Core) (p : Slot → Bool) : (c.cancel p).ac = c.ac := rfl
@[simp] theorem Core.cancel_cst (c : Core) (p : Slot → Bool) : (c.cancel p).cst = c.cst := rfl
@[simp] theorem Core.cancel_vmode (c : Core) (p : Slot → Bool) : (c.cancel p).vmode = c.vmode := rfl
@[simp] theorem Core.cancel_fmode (c : Core) (p : Slot → Bool) : (c.cancel p).fmode = c.fmode := rfl
@[simp] theorem Core.cancel_vm1 (c : Core) (p : Slot → Bool) : (c.cancel p).vm1 = c.vm1 := rfl
@[simp] theorem Core.cancel_vm2 (c : Core) (p : Slot → Bool) : (c.cancel p).vm2 = c.vm2 := rfl
@[simp] theorem Core.cancel_fm1 (c : Core) (p : Slot → Bool) : (c.cancel p).fm1 = c.fm1 := rfl
@[simp] theorem Core.cancel_fm2 (c : Core) (p : Slot → Bool) : (c.cancel p).fm2 = c.fm2 := rfl
@[simp] theorem Core.cancel_cnt (c : Core) (p : Slot → Bool) : (c.cancel p).cnt = c.cnt := rfl
@[simp] theorem Core.cancel_lk (c : Core) (p : Slot → Bool) : (c.cancel p).lk = c.lk := rfl
@[simp] theorem Core.cancel_mh (c : Core) (p : Slot → Bool) : (c.cancel p).mh = c.mh := rfl
@[simp] theorem Core.cancel_ml (c : Core) (p : Slot → Bool) : (c.cancel p).ml = c.ml := rfl
@[simp] theorem Core.cancel_vprog (c : Core) (p : Slot → Bool) : (c.cancel p).vprog = c.vprog := rfl
@[simp] theorem Core.cancel_vfc (c : Core) (p : Slot → Bool) : (c.cancel p).vfc = c.vfc := rfl
@[simp] theorem Core.cancel_vfe (c : Core) (p : Slot → Bool) : (c.cancel p).vfe = c.vfe := rfl
@[simp] theorem Core.cancel_vfa (c : Core) (p : Slot → Bool) : (c.cancel p).vfa = c.vfa := rfl
@[simp] theorem Core.cancel_causeS (c : Core) (p : Slot → Bool) : (c.cancel p).causeS = c.causeS := rfl
@[simp] theorem Core.cancel_causeM (c : Core) (p : Slot → Bool) : (c.cancel p).causeM = c.causeM := rfl
@[simp] theorem Core.cancel_evb (c : Core) (p : Slot → Bool) : (c.cancel p).evb = c.evb := rfl
@[simp] theorem Core.cancel_ssb (c : Core) (p : Slot → Bool) : (c.cancel p).ssb = c.ssb := rfl
@[simp] theorem Core.cancel_gtb (c : Core) (p : Slot → Bool) : (c.cancel p).gtb = c.gtb := rfl
@[simp] theorem Core.cancel_gtn (c : Core) (p : Slot → Bool) : (c.cancel p).gtn = c.gtn := rfl
@[simp] theorem Core.cancel_halt (c : Core) (p : Slot → Bool) : (c.cancel p).halt = c.halt := rfl
@[simp] theorem Core.cancel_sfh (c : Core) (p : Slot → Bool) : (c.cancel p).sfh = c.sfh := rfl
@[simp] theorem Core.cancel_wctl (c : Core) (p : Slot → Bool) : (c.cancel p).wctl = c.wctl := rfl
@[simp] theorem Core.cancel_wcnt (c : Core) (p : Slot → Bool) : (c.cancel p).wcnt = c.wcnt := rfl
@[simp] theorem Core.cancel_ipend (c : Core) (p : Slot → Bool) : (c.cancel p).ipend = c.ipend := rfl
@[simp] theorem Core.cancel_imask (c : Core) (p : Slot → Bool) : (c.cancel p).imask = c.imask := rfl
@[simp] theorem Core.cancel_mevb (c : Core) (p : Slot → Bool) : (c.cancel p).mevb = c.mevb := rfl
@[simp] theorem Core.cancel_msb (c : Core) (p : Slot → Bool) : (c.cancel p).msb = c.msb := rfl
@[simp] theorem Core.cancel_mgtb (c : Core) (p : Slot → Bool) : (c.cancel p).mgtb = c.mgtb := rfl
@[simp] theorem Core.cancel_mgtn (c : Core) (p : Slot → Bool) : (c.cancel p).mgtn = c.mgtn := rfl
@[simp] theorem Core.cancel_mset (c : Core) (p : Slot → Bool) : (c.cancel p).mset = c.mset := rfl
@[simp] theorem Core.cancel_mflt (c : Core) (p : Slot → Bool) : (c.cancel p).mflt = c.mflt := rfl
@[simp] theorem Core.cancel_scratch (c : Core) (p : Slot → Bool) : (c.cancel p).scratch = c.scratch := rfl
@[simp] theorem Core.cancel_resv (c : Core) (p : Slot → Bool) : (c.cancel p).resv = c.resv := rfl
@[simp] theorem Core.cancel_rep (c : Core) (p : Slot → Bool) : (c.cancel p).rep = c.rep := rfl
@[simp] theorem Core.cancel_repNew (c : Core) (p : Slot → Bool) : (c.cancel p).repNew = c.repNew := rfl
@[simp] theorem Core.cancel_stale (c : Core) (p : Slot → Bool) : (c.cancel p).stale = c.stale := rfl
@[simp] theorem Core.cancel_mstart (c : Core) (p : Slot → Bool) : (c.cancel p).mstart = c.mstart := rfl
@[simp] theorem Core.cancel_div (c : Core) (p : Slot → Bool) : (c.cancel p).div = c.div := rfl
@[simp] theorem Core.cancel_vbar (c : Core) (p : Slot → Bool) : (c.cancel p).vbar = c.vbar := rfl
@[simp] theorem Core.cancel_sbuf (c : Core) (p : Slot → Bool) : (c.cancel p).sbuf = c.sbuf := rfl
@[simp] theorem Core.cancel_mchk (c : Core) (p : Slot → Bool) : (c.cancel p).mchk = c.mchk := rfl
@[simp] theorem Core.cancel_fbuf (c : Core) (p : Slot → Bool) : (c.cancel p).fbuf = c.fbuf := rfl
@[simp] theorem Core.cancel_groups (c : Core) (p : Slot → Bool) : (c.cancel p).groups = c.groups := rfl
@[simp] theorem Core.cancel_stopped (c : Core) (p : Slot → Bool) : (c.cancel p).stopped = c.stopped := rfl
@[simp] theorem Core.cancel_bound (c : Core) (p : Slot → Bool) : (c.cancel p).bound = c.bound := rfl
@[simp] theorem Core.cancel_phase (c : Core) (p : Slot → Bool) : (c.cancel p).phase = c.phase := rfl
@[simp] theorem Core.cancel_boundPips (c : Core) (p : Slot → Bool) : (c.cancel p).boundPips = c.boundPips := rfl
@[simp] theorem Core.cancel_bindNo (c : Core) (p : Slot → Bool) : (c.cancel p).bindNo = c.bindNo := rfl
@[simp] theorem Core.cancel_claim (c : Core) (p : Slot → Bool) : (c.cancel p).claim = c.claim := rfl
@[simp] theorem Core.cancel_preempt (c : Core) (p : Slot → Bool) : (c.cancel p).preempt = c.preempt := rfl
@[simp] theorem Core.cancel_out (c : Core) (p : Slot → Bool) : (c.cancel p).out = c.out := rfl
@[simp] theorem Core.cancel_vecIn (c : Core) (p : Slot → Bool) : (c.cancel p).vecIn = c.vecIn := rfl
@[simp] theorem Core.cancel_inVec (c : Core) (p : Slot → Bool) : (c.cancel p).inVec = c.inVec := rfl
@[simp] theorem Core.cancel_rc (c : Core) (p : Slot → Bool) : (c.cancel p).rc = c.rc := rfl
@[simp] theorem Core.cancel_rcPl (c : Core) (p : Slot → Bool) : (c.cancel p).rcPl = c.rcPl := rfl
@[simp] theorem Core.cancel_rcSel (c : Core) (p : Slot → Bool) : (c.cancel p).rcSel = c.rcSel := rfl
@[simp] theorem Core.cancel_rolling (c : Core) (p : Slot → Bool) : (c.cancel p).rolling = c.rolling := rfl

/-! ## setW -/

@[simp] theorem Core.setW_pc (c : Core) (n : BitVec 5) (v : Word) : (c.setW n v).pc = c.pc := by unfold Core.setW; split <;> rfl
@[simp] theorem Core.setW_a (c : Core) (n : BitVec 5) (v : Word) : (c.setW n v).a = c.a := by unfold Core.setW; split <;> rfl
@[simp] theorem Core.setW_am (c : Core) (n : BitVec 5) (v : Word) : (c.setW n v).am = c.am := by unfold Core.setW; split <;> rfl
@[simp] theorem Core.setW_f (c : Core) (n : BitVec 5) (v : Word) : (c.setW n v).f = c.f := by unfold Core.setW; split <;> rfl
@[simp] theorem Core.setW_t (c : Core) (n : BitVec 5) (v : Word) : (c.setW n v).t = c.t := by unfold Core.setW; split <;> rfl
@[simp] theorem Core.setW_ac (c : Core) (n : BitVec 5) (v : Word) : (c.setW n v).ac = c.ac := by unfold Core.setW; split <;> rfl
@[simp] theorem Core.setW_cst (c : Core) (n : BitVec 5) (v : Word) : (c.setW n v).cst = c.cst := by unfold Core.setW; split <;> rfl
@[simp] theorem Core.setW_vmode (c : Core) (n : BitVec 5) (v : Word) : (c.setW n v).vmode = c.vmode := by unfold Core.setW; split <;> rfl
@[simp] theorem Core.setW_fmode (c : Core) (n : BitVec 5) (v : Word) : (c.setW n v).fmode = c.fmode := by unfold Core.setW; split <;> rfl
@[simp] theorem Core.setW_vm1 (c : Core) (n : BitVec 5) (v : Word) : (c.setW n v).vm1 = c.vm1 := by unfold Core.setW; split <;> rfl
@[simp] theorem Core.setW_vm2 (c : Core) (n : BitVec 5) (v : Word) : (c.setW n v).vm2 = c.vm2 := by unfold Core.setW; split <;> rfl
@[simp] theorem Core.setW_fm1 (c : Core) (n : BitVec 5) (v : Word) : (c.setW n v).fm1 = c.fm1 := by unfold Core.setW; split <;> rfl
@[simp] theorem Core.setW_fm2 (c : Core) (n : BitVec 5) (v : Word) : (c.setW n v).fm2 = c.fm2 := by unfold Core.setW; split <;> rfl
@[simp] theorem Core.setW_cnt (c : Core) (n : BitVec 5) (v : Word) : (c.setW n v).cnt = c.cnt := by unfold Core.setW; split <;> rfl
@[simp] theorem Core.setW_lk (c : Core) (n : BitVec 5) (v : Word) : (c.setW n v).lk = c.lk := by unfold Core.setW; split <;> rfl
@[simp] theorem Core.setW_mh (c : Core) (n : BitVec 5) (v : Word) : (c.setW n v).mh = c.mh := by unfold Core.setW; split <;> rfl
@[simp] theorem Core.setW_ml (c : Core) (n : BitVec 5) (v : Word) : (c.setW n v).ml = c.ml := by unfold Core.setW; split <;> rfl
@[simp] theorem Core.setW_vprog (c : Core) (n : BitVec 5) (v : Word) : (c.setW n v).vprog = c.vprog := by unfold Core.setW; split <;> rfl
@[simp] theorem Core.setW_vfc (c : Core) (n : BitVec 5) (v : Word) : (c.setW n v).vfc = c.vfc := by unfold Core.setW; split <;> rfl
@[simp] theorem Core.setW_vfe (c : Core) (n : BitVec 5) (v : Word) : (c.setW n v).vfe = c.vfe := by unfold Core.setW; split <;> rfl
@[simp] theorem Core.setW_vfa (c : Core) (n : BitVec 5) (v : Word) : (c.setW n v).vfa = c.vfa := by unfold Core.setW; split <;> rfl
@[simp] theorem Core.setW_causeS (c : Core) (n : BitVec 5) (v : Word) : (c.setW n v).causeS = c.causeS := by unfold Core.setW; split <;> rfl
@[simp] theorem Core.setW_causeM (c : Core) (n : BitVec 5) (v : Word) : (c.setW n v).causeM = c.causeM := by unfold Core.setW; split <;> rfl
@[simp] theorem Core.setW_evb (c : Core) (n : BitVec 5) (v : Word) : (c.setW n v).evb = c.evb := by unfold Core.setW; split <;> rfl
@[simp] theorem Core.setW_ssb (c : Core) (n : BitVec 5) (v : Word) : (c.setW n v).ssb = c.ssb := by unfold Core.setW; split <;> rfl
@[simp] theorem Core.setW_gtb (c : Core) (n : BitVec 5) (v : Word) : (c.setW n v).gtb = c.gtb := by unfold Core.setW; split <;> rfl
@[simp] theorem Core.setW_gtn (c : Core) (n : BitVec 5) (v : Word) : (c.setW n v).gtn = c.gtn := by unfold Core.setW; split <;> rfl
@[simp] theorem Core.setW_halt (c : Core) (n : BitVec 5) (v : Word) : (c.setW n v).halt = c.halt := by unfold Core.setW; split <;> rfl
@[simp] theorem Core.setW_sfh (c : Core) (n : BitVec 5) (v : Word) : (c.setW n v).sfh = c.sfh := by unfold Core.setW; split <;> rfl
@[simp] theorem Core.setW_wctl (c : Core) (n : BitVec 5) (v : Word) : (c.setW n v).wctl = c.wctl := by unfold Core.setW; split <;> rfl
@[simp] theorem Core.setW_wcnt (c : Core) (n : BitVec 5) (v : Word) : (c.setW n v).wcnt = c.wcnt := by unfold Core.setW; split <;> rfl
@[simp] theorem Core.setW_ipend (c : Core) (n : BitVec 5) (v : Word) : (c.setW n v).ipend = c.ipend := by unfold Core.setW; split <;> rfl
@[simp] theorem Core.setW_imask (c : Core) (n : BitVec 5) (v : Word) : (c.setW n v).imask = c.imask := by unfold Core.setW; split <;> rfl
@[simp] theorem Core.setW_mevb (c : Core) (n : BitVec 5) (v : Word) : (c.setW n v).mevb = c.mevb := by unfold Core.setW; split <;> rfl
@[simp] theorem Core.setW_msb (c : Core) (n : BitVec 5) (v : Word) : (c.setW n v).msb = c.msb := by unfold Core.setW; split <;> rfl
@[simp] theorem Core.setW_mgtb (c : Core) (n : BitVec 5) (v : Word) : (c.setW n v).mgtb = c.mgtb := by unfold Core.setW; split <;> rfl
@[simp] theorem Core.setW_mgtn (c : Core) (n : BitVec 5) (v : Word) : (c.setW n v).mgtn = c.mgtn := by unfold Core.setW; split <;> rfl
@[simp] theorem Core.setW_mset (c : Core) (n : BitVec 5) (v : Word) : (c.setW n v).mset = c.mset := by unfold Core.setW; split <;> rfl
@[simp] theorem Core.setW_mflt (c : Core) (n : BitVec 5) (v : Word) : (c.setW n v).mflt = c.mflt := by unfold Core.setW; split <;> rfl
@[simp] theorem Core.setW_scratch (c : Core) (n : BitVec 5) (v : Word) : (c.setW n v).scratch = c.scratch := by unfold Core.setW; split <;> rfl
@[simp] theorem Core.setW_resv (c : Core) (n : BitVec 5) (v : Word) : (c.setW n v).resv = c.resv := by unfold Core.setW; split <;> rfl
@[simp] theorem Core.setW_rep (c : Core) (n : BitVec 5) (v : Word) : (c.setW n v).rep = c.rep := by unfold Core.setW; split <;> rfl
@[simp] theorem Core.setW_repNew (c : Core) (n : BitVec 5) (v : Word) : (c.setW n v).repNew = c.repNew := by unfold Core.setW; split <;> rfl
@[simp] theorem Core.setW_stale (c : Core) (n : BitVec 5) (v : Word) : (c.setW n v).stale = c.stale := by unfold Core.setW; split <;> rfl
@[simp] theorem Core.setW_mstart (c : Core) (n : BitVec 5) (v : Word) : (c.setW n v).mstart = c.mstart := by unfold Core.setW; split <;> rfl
@[simp] theorem Core.setW_div (c : Core) (n : BitVec 5) (v : Word) : (c.setW n v).div = c.div := by unfold Core.setW; split <;> rfl
@[simp] theorem Core.setW_vbar (c : Core) (n : BitVec 5) (v : Word) : (c.setW n v).vbar = c.vbar := by unfold Core.setW; split <;> rfl
@[simp] theorem Core.setW_sbuf (c : Core) (n : BitVec 5) (v : Word) : (c.setW n v).sbuf = c.sbuf := by unfold Core.setW; split <;> rfl
@[simp] theorem Core.setW_mchk (c : Core) (n : BitVec 5) (v : Word) : (c.setW n v).mchk = c.mchk := by unfold Core.setW; split <;> rfl
@[simp] theorem Core.setW_fbuf (c : Core) (n : BitVec 5) (v : Word) : (c.setW n v).fbuf = c.fbuf := by unfold Core.setW; split <;> rfl
@[simp] theorem Core.setW_groups (c : Core) (n : BitVec 5) (v : Word) : (c.setW n v).groups = c.groups := by unfold Core.setW; split <;> rfl
@[simp] theorem Core.setW_stopped (c : Core) (n : BitVec 5) (v : Word) : (c.setW n v).stopped = c.stopped := by unfold Core.setW; split <;> rfl
@[simp] theorem Core.setW_bound (c : Core) (n : BitVec 5) (v : Word) : (c.setW n v).bound = c.bound := by unfold Core.setW; split <;> rfl
@[simp] theorem Core.setW_phase (c : Core) (n : BitVec 5) (v : Word) : (c.setW n v).phase = c.phase := by unfold Core.setW; split <;> rfl
@[simp] theorem Core.setW_boundPips (c : Core) (n : BitVec 5) (v : Word) : (c.setW n v).boundPips = c.boundPips := by unfold Core.setW; split <;> rfl
@[simp] theorem Core.setW_bindNo (c : Core) (n : BitVec 5) (v : Word) : (c.setW n v).bindNo = c.bindNo := by unfold Core.setW; split <;> rfl
@[simp] theorem Core.setW_claim (c : Core) (n : BitVec 5) (v : Word) : (c.setW n v).claim = c.claim := by unfold Core.setW; split <;> rfl
@[simp] theorem Core.setW_preempt (c : Core) (n : BitVec 5) (v : Word) : (c.setW n v).preempt = c.preempt := by unfold Core.setW; split <;> rfl
@[simp] theorem Core.setW_out (c : Core) (n : BitVec 5) (v : Word) : (c.setW n v).out = c.out := by unfold Core.setW; split <;> rfl
@[simp] theorem Core.setW_vecIn (c : Core) (n : BitVec 5) (v : Word) : (c.setW n v).vecIn = c.vecIn := by unfold Core.setW; split <;> rfl
@[simp] theorem Core.setW_inVec (c : Core) (n : BitVec 5) (v : Word) : (c.setW n v).inVec = c.inVec := by unfold Core.setW; split <;> rfl
@[simp] theorem Core.setW_rc (c : Core) (n : BitVec 5) (v : Word) : (c.setW n v).rc = c.rc := by unfold Core.setW; split <;> rfl
@[simp] theorem Core.setW_rcPl (c : Core) (n : BitVec 5) (v : Word) : (c.setW n v).rcPl = c.rcPl := by unfold Core.setW; split <;> rfl
@[simp] theorem Core.setW_rcSel (c : Core) (n : BitVec 5) (v : Word) : (c.setW n v).rcSel = c.rcSel := by unfold Core.setW; split <;> rfl
@[simp] theorem Core.setW_rolling (c : Core) (n : BitVec 5) (v : Word) : (c.setW n v).rolling = c.rolling := by unfold Core.setW; split <;> rfl

/-! ## setA -/

@[simp] theorem Core.setA_pc (c : Core) (n : BitVec 3) (v : Dbl) : (c.setA n v).pc = c.pc := rfl
@[simp] theorem Core.setA_w (c : Core) (n : BitVec 3) (v : Dbl) : (c.setA n v).w = c.w := rfl
@[simp] theorem Core.setA_am (c : Core) (n : BitVec 3) (v : Dbl) : (c.setA n v).am = c.am := rfl
@[simp] theorem Core.setA_f (c : Core) (n : BitVec 3) (v : Dbl) : (c.setA n v).f = c.f := rfl
@[simp] theorem Core.setA_t (c : Core) (n : BitVec 3) (v : Dbl) : (c.setA n v).t = c.t := rfl
@[simp] theorem Core.setA_ac (c : Core) (n : BitVec 3) (v : Dbl) : (c.setA n v).ac = c.ac := rfl
@[simp] theorem Core.setA_cst (c : Core) (n : BitVec 3) (v : Dbl) : (c.setA n v).cst = c.cst := rfl
@[simp] theorem Core.setA_vmode (c : Core) (n : BitVec 3) (v : Dbl) : (c.setA n v).vmode = c.vmode := rfl
@[simp] theorem Core.setA_fmode (c : Core) (n : BitVec 3) (v : Dbl) : (c.setA n v).fmode = c.fmode := rfl
@[simp] theorem Core.setA_vm1 (c : Core) (n : BitVec 3) (v : Dbl) : (c.setA n v).vm1 = c.vm1 := rfl
@[simp] theorem Core.setA_vm2 (c : Core) (n : BitVec 3) (v : Dbl) : (c.setA n v).vm2 = c.vm2 := rfl
@[simp] theorem Core.setA_fm1 (c : Core) (n : BitVec 3) (v : Dbl) : (c.setA n v).fm1 = c.fm1 := rfl
@[simp] theorem Core.setA_fm2 (c : Core) (n : BitVec 3) (v : Dbl) : (c.setA n v).fm2 = c.fm2 := rfl
@[simp] theorem Core.setA_cnt (c : Core) (n : BitVec 3) (v : Dbl) : (c.setA n v).cnt = c.cnt := rfl
@[simp] theorem Core.setA_lk (c : Core) (n : BitVec 3) (v : Dbl) : (c.setA n v).lk = c.lk := rfl
@[simp] theorem Core.setA_mh (c : Core) (n : BitVec 3) (v : Dbl) : (c.setA n v).mh = c.mh := rfl
@[simp] theorem Core.setA_ml (c : Core) (n : BitVec 3) (v : Dbl) : (c.setA n v).ml = c.ml := rfl
@[simp] theorem Core.setA_vprog (c : Core) (n : BitVec 3) (v : Dbl) : (c.setA n v).vprog = c.vprog := rfl
@[simp] theorem Core.setA_vfc (c : Core) (n : BitVec 3) (v : Dbl) : (c.setA n v).vfc = c.vfc := rfl
@[simp] theorem Core.setA_vfe (c : Core) (n : BitVec 3) (v : Dbl) : (c.setA n v).vfe = c.vfe := rfl
@[simp] theorem Core.setA_vfa (c : Core) (n : BitVec 3) (v : Dbl) : (c.setA n v).vfa = c.vfa := rfl
@[simp] theorem Core.setA_causeS (c : Core) (n : BitVec 3) (v : Dbl) : (c.setA n v).causeS = c.causeS := rfl
@[simp] theorem Core.setA_causeM (c : Core) (n : BitVec 3) (v : Dbl) : (c.setA n v).causeM = c.causeM := rfl
@[simp] theorem Core.setA_evb (c : Core) (n : BitVec 3) (v : Dbl) : (c.setA n v).evb = c.evb := rfl
@[simp] theorem Core.setA_ssb (c : Core) (n : BitVec 3) (v : Dbl) : (c.setA n v).ssb = c.ssb := rfl
@[simp] theorem Core.setA_gtb (c : Core) (n : BitVec 3) (v : Dbl) : (c.setA n v).gtb = c.gtb := rfl
@[simp] theorem Core.setA_gtn (c : Core) (n : BitVec 3) (v : Dbl) : (c.setA n v).gtn = c.gtn := rfl
@[simp] theorem Core.setA_halt (c : Core) (n : BitVec 3) (v : Dbl) : (c.setA n v).halt = c.halt := rfl
@[simp] theorem Core.setA_sfh (c : Core) (n : BitVec 3) (v : Dbl) : (c.setA n v).sfh = c.sfh := rfl
@[simp] theorem Core.setA_wctl (c : Core) (n : BitVec 3) (v : Dbl) : (c.setA n v).wctl = c.wctl := rfl
@[simp] theorem Core.setA_wcnt (c : Core) (n : BitVec 3) (v : Dbl) : (c.setA n v).wcnt = c.wcnt := rfl
@[simp] theorem Core.setA_ipend (c : Core) (n : BitVec 3) (v : Dbl) : (c.setA n v).ipend = c.ipend := rfl
@[simp] theorem Core.setA_imask (c : Core) (n : BitVec 3) (v : Dbl) : (c.setA n v).imask = c.imask := rfl
@[simp] theorem Core.setA_mevb (c : Core) (n : BitVec 3) (v : Dbl) : (c.setA n v).mevb = c.mevb := rfl
@[simp] theorem Core.setA_msb (c : Core) (n : BitVec 3) (v : Dbl) : (c.setA n v).msb = c.msb := rfl
@[simp] theorem Core.setA_mgtb (c : Core) (n : BitVec 3) (v : Dbl) : (c.setA n v).mgtb = c.mgtb := rfl
@[simp] theorem Core.setA_mgtn (c : Core) (n : BitVec 3) (v : Dbl) : (c.setA n v).mgtn = c.mgtn := rfl
@[simp] theorem Core.setA_mset (c : Core) (n : BitVec 3) (v : Dbl) : (c.setA n v).mset = c.mset := rfl
@[simp] theorem Core.setA_mflt (c : Core) (n : BitVec 3) (v : Dbl) : (c.setA n v).mflt = c.mflt := rfl
@[simp] theorem Core.setA_scratch (c : Core) (n : BitVec 3) (v : Dbl) : (c.setA n v).scratch = c.scratch := rfl
@[simp] theorem Core.setA_resv (c : Core) (n : BitVec 3) (v : Dbl) : (c.setA n v).resv = c.resv := rfl
@[simp] theorem Core.setA_rep (c : Core) (n : BitVec 3) (v : Dbl) : (c.setA n v).rep = c.rep := rfl
@[simp] theorem Core.setA_repNew (c : Core) (n : BitVec 3) (v : Dbl) : (c.setA n v).repNew = c.repNew := rfl
@[simp] theorem Core.setA_stale (c : Core) (n : BitVec 3) (v : Dbl) : (c.setA n v).stale = c.stale := rfl
@[simp] theorem Core.setA_mstart (c : Core) (n : BitVec 3) (v : Dbl) : (c.setA n v).mstart = c.mstart := rfl
@[simp] theorem Core.setA_div (c : Core) (n : BitVec 3) (v : Dbl) : (c.setA n v).div = c.div := rfl
@[simp] theorem Core.setA_vbar (c : Core) (n : BitVec 3) (v : Dbl) : (c.setA n v).vbar = c.vbar := rfl
@[simp] theorem Core.setA_sbuf (c : Core) (n : BitVec 3) (v : Dbl) : (c.setA n v).sbuf = c.sbuf := rfl
@[simp] theorem Core.setA_mchk (c : Core) (n : BitVec 3) (v : Dbl) : (c.setA n v).mchk = c.mchk := rfl
@[simp] theorem Core.setA_fbuf (c : Core) (n : BitVec 3) (v : Dbl) : (c.setA n v).fbuf = c.fbuf := rfl
@[simp] theorem Core.setA_groups (c : Core) (n : BitVec 3) (v : Dbl) : (c.setA n v).groups = c.groups := rfl
@[simp] theorem Core.setA_stopped (c : Core) (n : BitVec 3) (v : Dbl) : (c.setA n v).stopped = c.stopped := rfl
@[simp] theorem Core.setA_bound (c : Core) (n : BitVec 3) (v : Dbl) : (c.setA n v).bound = c.bound := rfl
@[simp] theorem Core.setA_phase (c : Core) (n : BitVec 3) (v : Dbl) : (c.setA n v).phase = c.phase := rfl
@[simp] theorem Core.setA_boundPips (c : Core) (n : BitVec 3) (v : Dbl) : (c.setA n v).boundPips = c.boundPips := rfl
@[simp] theorem Core.setA_bindNo (c : Core) (n : BitVec 3) (v : Dbl) : (c.setA n v).bindNo = c.bindNo := rfl
@[simp] theorem Core.setA_claim (c : Core) (n : BitVec 3) (v : Dbl) : (c.setA n v).claim = c.claim := rfl
@[simp] theorem Core.setA_preempt (c : Core) (n : BitVec 3) (v : Dbl) : (c.setA n v).preempt = c.preempt := rfl
@[simp] theorem Core.setA_out (c : Core) (n : BitVec 3) (v : Dbl) : (c.setA n v).out = c.out := rfl
@[simp] theorem Core.setA_vecIn (c : Core) (n : BitVec 3) (v : Dbl) : (c.setA n v).vecIn = c.vecIn := rfl
@[simp] theorem Core.setA_inVec (c : Core) (n : BitVec 3) (v : Dbl) : (c.setA n v).inVec = c.inVec := rfl
@[simp] theorem Core.setA_rc (c : Core) (n : BitVec 3) (v : Dbl) : (c.setA n v).rc = c.rc := rfl
@[simp] theorem Core.setA_rcPl (c : Core) (n : BitVec 3) (v : Dbl) : (c.setA n v).rcPl = c.rcPl := rfl
@[simp] theorem Core.setA_rcSel (c : Core) (n : BitVec 3) (v : Dbl) : (c.setA n v).rcSel = c.rcSel := rfl
@[simp] theorem Core.setA_rolling (c : Core) (n : BitVec 3) (v : Dbl) : (c.setA n v).rolling = c.rolling := rfl

/-! ## setAm -/

@[simp] theorem Core.setAm_pc (c : Core) (n : BitVec 3) (v : Word) : (c.setAm n v).pc = c.pc := rfl
@[simp] theorem Core.setAm_w (c : Core) (n : BitVec 3) (v : Word) : (c.setAm n v).w = c.w := rfl
@[simp] theorem Core.setAm_a (c : Core) (n : BitVec 3) (v : Word) : (c.setAm n v).a = c.a := rfl
@[simp] theorem Core.setAm_f (c : Core) (n : BitVec 3) (v : Word) : (c.setAm n v).f = c.f := rfl
@[simp] theorem Core.setAm_t (c : Core) (n : BitVec 3) (v : Word) : (c.setAm n v).t = c.t := rfl
@[simp] theorem Core.setAm_ac (c : Core) (n : BitVec 3) (v : Word) : (c.setAm n v).ac = c.ac := rfl
@[simp] theorem Core.setAm_cst (c : Core) (n : BitVec 3) (v : Word) : (c.setAm n v).cst = c.cst := rfl
@[simp] theorem Core.setAm_vmode (c : Core) (n : BitVec 3) (v : Word) : (c.setAm n v).vmode = c.vmode := rfl
@[simp] theorem Core.setAm_fmode (c : Core) (n : BitVec 3) (v : Word) : (c.setAm n v).fmode = c.fmode := rfl
@[simp] theorem Core.setAm_vm1 (c : Core) (n : BitVec 3) (v : Word) : (c.setAm n v).vm1 = c.vm1 := rfl
@[simp] theorem Core.setAm_vm2 (c : Core) (n : BitVec 3) (v : Word) : (c.setAm n v).vm2 = c.vm2 := rfl
@[simp] theorem Core.setAm_fm1 (c : Core) (n : BitVec 3) (v : Word) : (c.setAm n v).fm1 = c.fm1 := rfl
@[simp] theorem Core.setAm_fm2 (c : Core) (n : BitVec 3) (v : Word) : (c.setAm n v).fm2 = c.fm2 := rfl
@[simp] theorem Core.setAm_cnt (c : Core) (n : BitVec 3) (v : Word) : (c.setAm n v).cnt = c.cnt := rfl
@[simp] theorem Core.setAm_lk (c : Core) (n : BitVec 3) (v : Word) : (c.setAm n v).lk = c.lk := rfl
@[simp] theorem Core.setAm_mh (c : Core) (n : BitVec 3) (v : Word) : (c.setAm n v).mh = c.mh := rfl
@[simp] theorem Core.setAm_ml (c : Core) (n : BitVec 3) (v : Word) : (c.setAm n v).ml = c.ml := rfl
@[simp] theorem Core.setAm_vprog (c : Core) (n : BitVec 3) (v : Word) : (c.setAm n v).vprog = c.vprog := rfl
@[simp] theorem Core.setAm_vfc (c : Core) (n : BitVec 3) (v : Word) : (c.setAm n v).vfc = c.vfc := rfl
@[simp] theorem Core.setAm_vfe (c : Core) (n : BitVec 3) (v : Word) : (c.setAm n v).vfe = c.vfe := rfl
@[simp] theorem Core.setAm_vfa (c : Core) (n : BitVec 3) (v : Word) : (c.setAm n v).vfa = c.vfa := rfl
@[simp] theorem Core.setAm_causeS (c : Core) (n : BitVec 3) (v : Word) : (c.setAm n v).causeS = c.causeS := rfl
@[simp] theorem Core.setAm_causeM (c : Core) (n : BitVec 3) (v : Word) : (c.setAm n v).causeM = c.causeM := rfl
@[simp] theorem Core.setAm_evb (c : Core) (n : BitVec 3) (v : Word) : (c.setAm n v).evb = c.evb := rfl
@[simp] theorem Core.setAm_ssb (c : Core) (n : BitVec 3) (v : Word) : (c.setAm n v).ssb = c.ssb := rfl
@[simp] theorem Core.setAm_gtb (c : Core) (n : BitVec 3) (v : Word) : (c.setAm n v).gtb = c.gtb := rfl
@[simp] theorem Core.setAm_gtn (c : Core) (n : BitVec 3) (v : Word) : (c.setAm n v).gtn = c.gtn := rfl
@[simp] theorem Core.setAm_halt (c : Core) (n : BitVec 3) (v : Word) : (c.setAm n v).halt = c.halt := rfl
@[simp] theorem Core.setAm_sfh (c : Core) (n : BitVec 3) (v : Word) : (c.setAm n v).sfh = c.sfh := rfl
@[simp] theorem Core.setAm_wctl (c : Core) (n : BitVec 3) (v : Word) : (c.setAm n v).wctl = c.wctl := rfl
@[simp] theorem Core.setAm_wcnt (c : Core) (n : BitVec 3) (v : Word) : (c.setAm n v).wcnt = c.wcnt := rfl
@[simp] theorem Core.setAm_ipend (c : Core) (n : BitVec 3) (v : Word) : (c.setAm n v).ipend = c.ipend := rfl
@[simp] theorem Core.setAm_imask (c : Core) (n : BitVec 3) (v : Word) : (c.setAm n v).imask = c.imask := rfl
@[simp] theorem Core.setAm_mevb (c : Core) (n : BitVec 3) (v : Word) : (c.setAm n v).mevb = c.mevb := rfl
@[simp] theorem Core.setAm_msb (c : Core) (n : BitVec 3) (v : Word) : (c.setAm n v).msb = c.msb := rfl
@[simp] theorem Core.setAm_mgtb (c : Core) (n : BitVec 3) (v : Word) : (c.setAm n v).mgtb = c.mgtb := rfl
@[simp] theorem Core.setAm_mgtn (c : Core) (n : BitVec 3) (v : Word) : (c.setAm n v).mgtn = c.mgtn := rfl
@[simp] theorem Core.setAm_mset (c : Core) (n : BitVec 3) (v : Word) : (c.setAm n v).mset = c.mset := rfl
@[simp] theorem Core.setAm_mflt (c : Core) (n : BitVec 3) (v : Word) : (c.setAm n v).mflt = c.mflt := rfl
@[simp] theorem Core.setAm_scratch (c : Core) (n : BitVec 3) (v : Word) : (c.setAm n v).scratch = c.scratch := rfl
@[simp] theorem Core.setAm_resv (c : Core) (n : BitVec 3) (v : Word) : (c.setAm n v).resv = c.resv := rfl
@[simp] theorem Core.setAm_rep (c : Core) (n : BitVec 3) (v : Word) : (c.setAm n v).rep = c.rep := rfl
@[simp] theorem Core.setAm_repNew (c : Core) (n : BitVec 3) (v : Word) : (c.setAm n v).repNew = c.repNew := rfl
@[simp] theorem Core.setAm_stale (c : Core) (n : BitVec 3) (v : Word) : (c.setAm n v).stale = c.stale := rfl
@[simp] theorem Core.setAm_loads (c : Core) (n : BitVec 3) (v : Word) : (c.setAm n v).loads = c.loads := rfl
@[simp] theorem Core.setAm_mstart (c : Core) (n : BitVec 3) (v : Word) : (c.setAm n v).mstart = c.mstart := rfl
@[simp] theorem Core.setAm_div (c : Core) (n : BitVec 3) (v : Word) : (c.setAm n v).div = c.div := rfl
@[simp] theorem Core.setAm_vbar (c : Core) (n : BitVec 3) (v : Word) : (c.setAm n v).vbar = c.vbar := rfl
@[simp] theorem Core.setAm_sbuf (c : Core) (n : BitVec 3) (v : Word) : (c.setAm n v).sbuf = c.sbuf := rfl
@[simp] theorem Core.setAm_mchk (c : Core) (n : BitVec 3) (v : Word) : (c.setAm n v).mchk = c.mchk := rfl
@[simp] theorem Core.setAm_fbuf (c : Core) (n : BitVec 3) (v : Word) : (c.setAm n v).fbuf = c.fbuf := rfl
@[simp] theorem Core.setAm_groups (c : Core) (n : BitVec 3) (v : Word) : (c.setAm n v).groups = c.groups := rfl
@[simp] theorem Core.setAm_stopped (c : Core) (n : BitVec 3) (v : Word) : (c.setAm n v).stopped = c.stopped := rfl
@[simp] theorem Core.setAm_bound (c : Core) (n : BitVec 3) (v : Word) : (c.setAm n v).bound = c.bound := rfl
@[simp] theorem Core.setAm_phase (c : Core) (n : BitVec 3) (v : Word) : (c.setAm n v).phase = c.phase := rfl
@[simp] theorem Core.setAm_boundPips (c : Core) (n : BitVec 3) (v : Word) : (c.setAm n v).boundPips = c.boundPips := rfl
@[simp] theorem Core.setAm_bindNo (c : Core) (n : BitVec 3) (v : Word) : (c.setAm n v).bindNo = c.bindNo := rfl
@[simp] theorem Core.setAm_claim (c : Core) (n : BitVec 3) (v : Word) : (c.setAm n v).claim = c.claim := rfl
@[simp] theorem Core.setAm_preempt (c : Core) (n : BitVec 3) (v : Word) : (c.setAm n v).preempt = c.preempt := rfl
@[simp] theorem Core.setAm_out (c : Core) (n : BitVec 3) (v : Word) : (c.setAm n v).out = c.out := rfl
@[simp] theorem Core.setAm_vecIn (c : Core) (n : BitVec 3) (v : Word) : (c.setAm n v).vecIn = c.vecIn := rfl
@[simp] theorem Core.setAm_inVec (c : Core) (n : BitVec 3) (v : Word) : (c.setAm n v).inVec = c.inVec := rfl
@[simp] theorem Core.setAm_rc (c : Core) (n : BitVec 3) (v : Word) : (c.setAm n v).rc = c.rc := rfl
@[simp] theorem Core.setAm_rcPl (c : Core) (n : BitVec 3) (v : Word) : (c.setAm n v).rcPl = c.rcPl := rfl
@[simp] theorem Core.setAm_rcSel (c : Core) (n : BitVec 3) (v : Word) : (c.setAm n v).rcSel = c.rcSel := rfl
@[simp] theorem Core.setAm_rolling (c : Core) (n : BitVec 3) (v : Word) : (c.setAm n v).rolling = c.rolling := rfl

/-! ## setF -/

@[simp] theorem Core.setF_pc (c : Core) (n : Nat) (v : Dbl) : (c.setF n v).pc = c.pc := rfl
@[simp] theorem Core.setF_w (c : Core) (n : Nat) (v : Dbl) : (c.setF n v).w = c.w := rfl
@[simp] theorem Core.setF_a (c : Core) (n : Nat) (v : Dbl) : (c.setF n v).a = c.a := rfl
@[simp] theorem Core.setF_am (c : Core) (n : Nat) (v : Dbl) : (c.setF n v).am = c.am := rfl
@[simp] theorem Core.setF_t (c : Core) (n : Nat) (v : Dbl) : (c.setF n v).t = c.t := rfl
@[simp] theorem Core.setF_ac (c : Core) (n : Nat) (v : Dbl) : (c.setF n v).ac = c.ac := rfl
@[simp] theorem Core.setF_cst (c : Core) (n : Nat) (v : Dbl) : (c.setF n v).cst = c.cst := rfl
@[simp] theorem Core.setF_vmode (c : Core) (n : Nat) (v : Dbl) : (c.setF n v).vmode = c.vmode := rfl
@[simp] theorem Core.setF_fmode (c : Core) (n : Nat) (v : Dbl) : (c.setF n v).fmode = c.fmode := rfl
@[simp] theorem Core.setF_vm1 (c : Core) (n : Nat) (v : Dbl) : (c.setF n v).vm1 = c.vm1 := rfl
@[simp] theorem Core.setF_vm2 (c : Core) (n : Nat) (v : Dbl) : (c.setF n v).vm2 = c.vm2 := rfl
@[simp] theorem Core.setF_fm1 (c : Core) (n : Nat) (v : Dbl) : (c.setF n v).fm1 = c.fm1 := rfl
@[simp] theorem Core.setF_fm2 (c : Core) (n : Nat) (v : Dbl) : (c.setF n v).fm2 = c.fm2 := rfl
@[simp] theorem Core.setF_cnt (c : Core) (n : Nat) (v : Dbl) : (c.setF n v).cnt = c.cnt := rfl
@[simp] theorem Core.setF_lk (c : Core) (n : Nat) (v : Dbl) : (c.setF n v).lk = c.lk := rfl
@[simp] theorem Core.setF_mh (c : Core) (n : Nat) (v : Dbl) : (c.setF n v).mh = c.mh := rfl
@[simp] theorem Core.setF_ml (c : Core) (n : Nat) (v : Dbl) : (c.setF n v).ml = c.ml := rfl
@[simp] theorem Core.setF_vprog (c : Core) (n : Nat) (v : Dbl) : (c.setF n v).vprog = c.vprog := rfl
@[simp] theorem Core.setF_vfc (c : Core) (n : Nat) (v : Dbl) : (c.setF n v).vfc = c.vfc := rfl
@[simp] theorem Core.setF_vfe (c : Core) (n : Nat) (v : Dbl) : (c.setF n v).vfe = c.vfe := rfl
@[simp] theorem Core.setF_vfa (c : Core) (n : Nat) (v : Dbl) : (c.setF n v).vfa = c.vfa := rfl
@[simp] theorem Core.setF_causeS (c : Core) (n : Nat) (v : Dbl) : (c.setF n v).causeS = c.causeS := rfl
@[simp] theorem Core.setF_causeM (c : Core) (n : Nat) (v : Dbl) : (c.setF n v).causeM = c.causeM := rfl
@[simp] theorem Core.setF_evb (c : Core) (n : Nat) (v : Dbl) : (c.setF n v).evb = c.evb := rfl
@[simp] theorem Core.setF_ssb (c : Core) (n : Nat) (v : Dbl) : (c.setF n v).ssb = c.ssb := rfl
@[simp] theorem Core.setF_gtb (c : Core) (n : Nat) (v : Dbl) : (c.setF n v).gtb = c.gtb := rfl
@[simp] theorem Core.setF_gtn (c : Core) (n : Nat) (v : Dbl) : (c.setF n v).gtn = c.gtn := rfl
@[simp] theorem Core.setF_halt (c : Core) (n : Nat) (v : Dbl) : (c.setF n v).halt = c.halt := rfl
@[simp] theorem Core.setF_sfh (c : Core) (n : Nat) (v : Dbl) : (c.setF n v).sfh = c.sfh := rfl
@[simp] theorem Core.setF_wctl (c : Core) (n : Nat) (v : Dbl) : (c.setF n v).wctl = c.wctl := rfl
@[simp] theorem Core.setF_wcnt (c : Core) (n : Nat) (v : Dbl) : (c.setF n v).wcnt = c.wcnt := rfl
@[simp] theorem Core.setF_ipend (c : Core) (n : Nat) (v : Dbl) : (c.setF n v).ipend = c.ipend := rfl
@[simp] theorem Core.setF_imask (c : Core) (n : Nat) (v : Dbl) : (c.setF n v).imask = c.imask := rfl
@[simp] theorem Core.setF_mevb (c : Core) (n : Nat) (v : Dbl) : (c.setF n v).mevb = c.mevb := rfl
@[simp] theorem Core.setF_msb (c : Core) (n : Nat) (v : Dbl) : (c.setF n v).msb = c.msb := rfl
@[simp] theorem Core.setF_mgtb (c : Core) (n : Nat) (v : Dbl) : (c.setF n v).mgtb = c.mgtb := rfl
@[simp] theorem Core.setF_mgtn (c : Core) (n : Nat) (v : Dbl) : (c.setF n v).mgtn = c.mgtn := rfl
@[simp] theorem Core.setF_mset (c : Core) (n : Nat) (v : Dbl) : (c.setF n v).mset = c.mset := rfl
@[simp] theorem Core.setF_mflt (c : Core) (n : Nat) (v : Dbl) : (c.setF n v).mflt = c.mflt := rfl
@[simp] theorem Core.setF_scratch (c : Core) (n : Nat) (v : Dbl) : (c.setF n v).scratch = c.scratch := rfl
@[simp] theorem Core.setF_resv (c : Core) (n : Nat) (v : Dbl) : (c.setF n v).resv = c.resv := rfl
@[simp] theorem Core.setF_rep (c : Core) (n : Nat) (v : Dbl) : (c.setF n v).rep = c.rep := rfl
@[simp] theorem Core.setF_repNew (c : Core) (n : Nat) (v : Dbl) : (c.setF n v).repNew = c.repNew := rfl
@[simp] theorem Core.setF_stale (c : Core) (n : Nat) (v : Dbl) : (c.setF n v).stale = c.stale := rfl
@[simp] theorem Core.setF_mstart (c : Core) (n : Nat) (v : Dbl) : (c.setF n v).mstart = c.mstart := rfl
@[simp] theorem Core.setF_div (c : Core) (n : Nat) (v : Dbl) : (c.setF n v).div = c.div := rfl
@[simp] theorem Core.setF_vbar (c : Core) (n : Nat) (v : Dbl) : (c.setF n v).vbar = c.vbar := rfl
@[simp] theorem Core.setF_sbuf (c : Core) (n : Nat) (v : Dbl) : (c.setF n v).sbuf = c.sbuf := rfl
@[simp] theorem Core.setF_mchk (c : Core) (n : Nat) (v : Dbl) : (c.setF n v).mchk = c.mchk := rfl
@[simp] theorem Core.setF_fbuf (c : Core) (n : Nat) (v : Dbl) : (c.setF n v).fbuf = c.fbuf := rfl
@[simp] theorem Core.setF_groups (c : Core) (n : Nat) (v : Dbl) : (c.setF n v).groups = c.groups := rfl
@[simp] theorem Core.setF_stopped (c : Core) (n : Nat) (v : Dbl) : (c.setF n v).stopped = c.stopped := rfl
@[simp] theorem Core.setF_bound (c : Core) (n : Nat) (v : Dbl) : (c.setF n v).bound = c.bound := rfl
@[simp] theorem Core.setF_phase (c : Core) (n : Nat) (v : Dbl) : (c.setF n v).phase = c.phase := rfl
@[simp] theorem Core.setF_boundPips (c : Core) (n : Nat) (v : Dbl) : (c.setF n v).boundPips = c.boundPips := rfl
@[simp] theorem Core.setF_bindNo (c : Core) (n : Nat) (v : Dbl) : (c.setF n v).bindNo = c.bindNo := rfl
@[simp] theorem Core.setF_claim (c : Core) (n : Nat) (v : Dbl) : (c.setF n v).claim = c.claim := rfl
@[simp] theorem Core.setF_preempt (c : Core) (n : Nat) (v : Dbl) : (c.setF n v).preempt = c.preempt := rfl
@[simp] theorem Core.setF_out (c : Core) (n : Nat) (v : Dbl) : (c.setF n v).out = c.out := rfl
@[simp] theorem Core.setF_vecIn (c : Core) (n : Nat) (v : Dbl) : (c.setF n v).vecIn = c.vecIn := rfl
@[simp] theorem Core.setF_inVec (c : Core) (n : Nat) (v : Dbl) : (c.setF n v).inVec = c.inVec := rfl
@[simp] theorem Core.setF_rc (c : Core) (n : Nat) (v : Dbl) : (c.setF n v).rc = c.rc := rfl
@[simp] theorem Core.setF_rcPl (c : Core) (n : Nat) (v : Dbl) : (c.setF n v).rcPl = c.rcPl := rfl
@[simp] theorem Core.setF_rcSel (c : Core) (n : Nat) (v : Dbl) : (c.setF n v).rcSel = c.rcSel := rfl
@[simp] theorem Core.setF_rolling (c : Core) (n : Nat) (v : Dbl) : (c.setF n v).rolling = c.rolling := rfl

/-! ## merge -/

@[simp] theorem Core.merge_pc (c : Core) (x : Flags) : (c.merge x).pc = c.pc := rfl
@[simp] theorem Core.merge_w (c : Core) (x : Flags) : (c.merge x).w = c.w := rfl
@[simp] theorem Core.merge_a (c : Core) (x : Flags) : (c.merge x).a = c.a := rfl
@[simp] theorem Core.merge_am (c : Core) (x : Flags) : (c.merge x).am = c.am := rfl
@[simp] theorem Core.merge_f (c : Core) (x : Flags) : (c.merge x).f = c.f := rfl
@[simp] theorem Core.merge_t (c : Core) (x : Flags) : (c.merge x).t = c.t := rfl
@[simp] theorem Core.merge_ac (c : Core) (x : Flags) : (c.merge x).ac = c.ac := rfl
@[simp] theorem Core.merge_cst (c : Core) (x : Flags) : (c.merge x).cst = c.cst := rfl
@[simp] theorem Core.merge_vm1 (c : Core) (x : Flags) : (c.merge x).vm1 = c.vm1 := rfl
@[simp] theorem Core.merge_vm2 (c : Core) (x : Flags) : (c.merge x).vm2 = c.vm2 := rfl
@[simp] theorem Core.merge_fm1 (c : Core) (x : Flags) : (c.merge x).fm1 = c.fm1 := rfl
@[simp] theorem Core.merge_fm2 (c : Core) (x : Flags) : (c.merge x).fm2 = c.fm2 := rfl
@[simp] theorem Core.merge_cnt (c : Core) (x : Flags) : (c.merge x).cnt = c.cnt := rfl
@[simp] theorem Core.merge_lk (c : Core) (x : Flags) : (c.merge x).lk = c.lk := rfl
@[simp] theorem Core.merge_mh (c : Core) (x : Flags) : (c.merge x).mh = c.mh := rfl
@[simp] theorem Core.merge_ml (c : Core) (x : Flags) : (c.merge x).ml = c.ml := rfl
@[simp] theorem Core.merge_vprog (c : Core) (x : Flags) : (c.merge x).vprog = c.vprog := rfl
@[simp] theorem Core.merge_vfc (c : Core) (x : Flags) : (c.merge x).vfc = c.vfc := rfl
@[simp] theorem Core.merge_vfe (c : Core) (x : Flags) : (c.merge x).vfe = c.vfe := rfl
@[simp] theorem Core.merge_vfa (c : Core) (x : Flags) : (c.merge x).vfa = c.vfa := rfl
@[simp] theorem Core.merge_causeS (c : Core) (x : Flags) : (c.merge x).causeS = c.causeS := rfl
@[simp] theorem Core.merge_causeM (c : Core) (x : Flags) : (c.merge x).causeM = c.causeM := rfl
@[simp] theorem Core.merge_evb (c : Core) (x : Flags) : (c.merge x).evb = c.evb := rfl
@[simp] theorem Core.merge_ssb (c : Core) (x : Flags) : (c.merge x).ssb = c.ssb := rfl
@[simp] theorem Core.merge_gtb (c : Core) (x : Flags) : (c.merge x).gtb = c.gtb := rfl
@[simp] theorem Core.merge_gtn (c : Core) (x : Flags) : (c.merge x).gtn = c.gtn := rfl
@[simp] theorem Core.merge_halt (c : Core) (x : Flags) : (c.merge x).halt = c.halt := rfl
@[simp] theorem Core.merge_sfh (c : Core) (x : Flags) : (c.merge x).sfh = c.sfh := rfl
@[simp] theorem Core.merge_wctl (c : Core) (x : Flags) : (c.merge x).wctl = c.wctl := rfl
@[simp] theorem Core.merge_wcnt (c : Core) (x : Flags) : (c.merge x).wcnt = c.wcnt := rfl
@[simp] theorem Core.merge_ipend (c : Core) (x : Flags) : (c.merge x).ipend = c.ipend := rfl
@[simp] theorem Core.merge_imask (c : Core) (x : Flags) : (c.merge x).imask = c.imask := rfl
@[simp] theorem Core.merge_mevb (c : Core) (x : Flags) : (c.merge x).mevb = c.mevb := rfl
@[simp] theorem Core.merge_msb (c : Core) (x : Flags) : (c.merge x).msb = c.msb := rfl
@[simp] theorem Core.merge_mgtb (c : Core) (x : Flags) : (c.merge x).mgtb = c.mgtb := rfl
@[simp] theorem Core.merge_mgtn (c : Core) (x : Flags) : (c.merge x).mgtn = c.mgtn := rfl
@[simp] theorem Core.merge_mset (c : Core) (x : Flags) : (c.merge x).mset = c.mset := rfl
@[simp] theorem Core.merge_mflt (c : Core) (x : Flags) : (c.merge x).mflt = c.mflt := rfl
@[simp] theorem Core.merge_scratch (c : Core) (x : Flags) : (c.merge x).scratch = c.scratch := rfl
@[simp] theorem Core.merge_resv (c : Core) (x : Flags) : (c.merge x).resv = c.resv := rfl
@[simp] theorem Core.merge_rep (c : Core) (x : Flags) : (c.merge x).rep = c.rep := rfl
@[simp] theorem Core.merge_repNew (c : Core) (x : Flags) : (c.merge x).repNew = c.repNew := rfl
@[simp] theorem Core.merge_stale (c : Core) (x : Flags) : (c.merge x).stale = c.stale := rfl
@[simp] theorem Core.merge_loads (c : Core) (x : Flags) : (c.merge x).loads = c.loads := rfl
@[simp] theorem Core.merge_mstart (c : Core) (x : Flags) : (c.merge x).mstart = c.mstart := rfl
@[simp] theorem Core.merge_div (c : Core) (x : Flags) : (c.merge x).div = c.div := rfl
@[simp] theorem Core.merge_vbar (c : Core) (x : Flags) : (c.merge x).vbar = c.vbar := rfl
@[simp] theorem Core.merge_sbuf (c : Core) (x : Flags) : (c.merge x).sbuf = c.sbuf := rfl
@[simp] theorem Core.merge_mchk (c : Core) (x : Flags) : (c.merge x).mchk = c.mchk := rfl
@[simp] theorem Core.merge_fbuf (c : Core) (x : Flags) : (c.merge x).fbuf = c.fbuf := rfl
@[simp] theorem Core.merge_groups (c : Core) (x : Flags) : (c.merge x).groups = c.groups := rfl
@[simp] theorem Core.merge_stopped (c : Core) (x : Flags) : (c.merge x).stopped = c.stopped := rfl
@[simp] theorem Core.merge_bound (c : Core) (x : Flags) : (c.merge x).bound = c.bound := rfl
@[simp] theorem Core.merge_phase (c : Core) (x : Flags) : (c.merge x).phase = c.phase := rfl
@[simp] theorem Core.merge_boundPips (c : Core) (x : Flags) : (c.merge x).boundPips = c.boundPips := rfl
@[simp] theorem Core.merge_bindNo (c : Core) (x : Flags) : (c.merge x).bindNo = c.bindNo := rfl
@[simp] theorem Core.merge_claim (c : Core) (x : Flags) : (c.merge x).claim = c.claim := rfl
@[simp] theorem Core.merge_preempt (c : Core) (x : Flags) : (c.merge x).preempt = c.preempt := rfl
@[simp] theorem Core.merge_out (c : Core) (x : Flags) : (c.merge x).out = c.out := rfl
@[simp] theorem Core.merge_vecIn (c : Core) (x : Flags) : (c.merge x).vecIn = c.vecIn := rfl
@[simp] theorem Core.merge_inVec (c : Core) (x : Flags) : (c.merge x).inVec = c.inVec := rfl
@[simp] theorem Core.merge_rc (c : Core) (x : Flags) : (c.merge x).rc = c.rc := rfl
@[simp] theorem Core.merge_rcPl (c : Core) (x : Flags) : (c.merge x).rcPl = c.rcPl := rfl
@[simp] theorem Core.merge_rcSel (c : Core) (x : Flags) : (c.merge x).rcSel = c.rcSel := rfl
@[simp] theorem Core.merge_rolling (c : Core) (x : Flags) : (c.merge x).rolling = c.rolling := rfl

/-! ## sync -/

@[simp] theorem Core.sync_pc (c : Core) : (c.sync).pc = c.pc := rfl
@[simp] theorem Core.sync_w (c : Core) : (c.sync).w = c.w := rfl
@[simp] theorem Core.sync_a (c : Core) : (c.sync).a = c.a := rfl
@[simp] theorem Core.sync_am (c : Core) : (c.sync).am = c.am := rfl
@[simp] theorem Core.sync_f (c : Core) : (c.sync).f = c.f := rfl
@[simp] theorem Core.sync_t (c : Core) : (c.sync).t = c.t := rfl
@[simp] theorem Core.sync_ac (c : Core) : (c.sync).ac = c.ac := rfl
@[simp] theorem Core.sync_cst (c : Core) : (c.sync).cst = c.cst := rfl
@[simp] theorem Core.sync_vmode (c : Core) : (c.sync).vmode = c.vmode := rfl
@[simp] theorem Core.sync_fmode (c : Core) : (c.sync).fmode = c.fmode := rfl
@[simp] theorem Core.sync_cnt (c : Core) : (c.sync).cnt = c.cnt := rfl
@[simp] theorem Core.sync_lk (c : Core) : (c.sync).lk = c.lk := rfl
@[simp] theorem Core.sync_mh (c : Core) : (c.sync).mh = c.mh := rfl
@[simp] theorem Core.sync_ml (c : Core) : (c.sync).ml = c.ml := rfl
@[simp] theorem Core.sync_vprog (c : Core) : (c.sync).vprog = c.vprog := rfl
@[simp] theorem Core.sync_vfc (c : Core) : (c.sync).vfc = c.vfc := rfl
@[simp] theorem Core.sync_vfe (c : Core) : (c.sync).vfe = c.vfe := rfl
@[simp] theorem Core.sync_vfa (c : Core) : (c.sync).vfa = c.vfa := rfl
@[simp] theorem Core.sync_causeS (c : Core) : (c.sync).causeS = c.causeS := rfl
@[simp] theorem Core.sync_causeM (c : Core) : (c.sync).causeM = c.causeM := rfl
@[simp] theorem Core.sync_evb (c : Core) : (c.sync).evb = c.evb := rfl
@[simp] theorem Core.sync_ssb (c : Core) : (c.sync).ssb = c.ssb := rfl
@[simp] theorem Core.sync_gtb (c : Core) : (c.sync).gtb = c.gtb := rfl
@[simp] theorem Core.sync_gtn (c : Core) : (c.sync).gtn = c.gtn := rfl
@[simp] theorem Core.sync_halt (c : Core) : (c.sync).halt = c.halt := rfl
@[simp] theorem Core.sync_sfh (c : Core) : (c.sync).sfh = c.sfh := rfl
@[simp] theorem Core.sync_wctl (c : Core) : (c.sync).wctl = c.wctl := rfl
@[simp] theorem Core.sync_wcnt (c : Core) : (c.sync).wcnt = c.wcnt := rfl
@[simp] theorem Core.sync_ipend (c : Core) : (c.sync).ipend = c.ipend := rfl
@[simp] theorem Core.sync_imask (c : Core) : (c.sync).imask = c.imask := rfl
@[simp] theorem Core.sync_mevb (c : Core) : (c.sync).mevb = c.mevb := rfl
@[simp] theorem Core.sync_msb (c : Core) : (c.sync).msb = c.msb := rfl
@[simp] theorem Core.sync_mgtb (c : Core) : (c.sync).mgtb = c.mgtb := rfl
@[simp] theorem Core.sync_mgtn (c : Core) : (c.sync).mgtn = c.mgtn := rfl
@[simp] theorem Core.sync_mset (c : Core) : (c.sync).mset = c.mset := rfl
@[simp] theorem Core.sync_mflt (c : Core) : (c.sync).mflt = c.mflt := rfl
@[simp] theorem Core.sync_scratch (c : Core) : (c.sync).scratch = c.scratch := rfl
@[simp] theorem Core.sync_resv (c : Core) : (c.sync).resv = c.resv := rfl
@[simp] theorem Core.sync_rep (c : Core) : (c.sync).rep = c.rep := rfl
@[simp] theorem Core.sync_repNew (c : Core) : (c.sync).repNew = c.repNew := rfl
@[simp] theorem Core.sync_stale (c : Core) : (c.sync).stale = c.stale := rfl
@[simp] theorem Core.sync_loads (c : Core) : (c.sync).loads = c.loads := rfl
@[simp] theorem Core.sync_mstart (c : Core) : (c.sync).mstart = c.mstart := rfl
@[simp] theorem Core.sync_div (c : Core) : (c.sync).div = c.div := rfl
@[simp] theorem Core.sync_vbar (c : Core) : (c.sync).vbar = c.vbar := rfl
@[simp] theorem Core.sync_sbuf (c : Core) : (c.sync).sbuf = c.sbuf := rfl
@[simp] theorem Core.sync_mchk (c : Core) : (c.sync).mchk = c.mchk := rfl
@[simp] theorem Core.sync_fbuf (c : Core) : (c.sync).fbuf = c.fbuf := rfl
@[simp] theorem Core.sync_groups (c : Core) : (c.sync).groups = c.groups := rfl
@[simp] theorem Core.sync_stopped (c : Core) : (c.sync).stopped = c.stopped := rfl
@[simp] theorem Core.sync_bound (c : Core) : (c.sync).bound = c.bound := rfl
@[simp] theorem Core.sync_phase (c : Core) : (c.sync).phase = c.phase := rfl
@[simp] theorem Core.sync_boundPips (c : Core) : (c.sync).boundPips = c.boundPips := rfl
@[simp] theorem Core.sync_bindNo (c : Core) : (c.sync).bindNo = c.bindNo := rfl
@[simp] theorem Core.sync_claim (c : Core) : (c.sync).claim = c.claim := rfl
@[simp] theorem Core.sync_preempt (c : Core) : (c.sync).preempt = c.preempt := rfl
@[simp] theorem Core.sync_out (c : Core) : (c.sync).out = c.out := rfl
@[simp] theorem Core.sync_vecIn (c : Core) : (c.sync).vecIn = c.vecIn := rfl
@[simp] theorem Core.sync_inVec (c : Core) : (c.sync).inVec = c.inVec := rfl
@[simp] theorem Core.sync_rc (c : Core) : (c.sync).rc = c.rc := rfl
@[simp] theorem Core.sync_rcPl (c : Core) : (c.sync).rcPl = c.rcPl := rfl
@[simp] theorem Core.sync_rcSel (c : Core) : (c.sync).rcSel = c.rcSel := rfl
@[simp] theorem Core.sync_rolling (c : Core) : (c.sync).rolling = c.rolling := rfl

/-! ## ageMstart -/

@[simp] theorem Core.ageMstart_pc (c : Core) : (c.ageMstart).pc = c.pc := by unfold Core.ageMstart; dsimp only; split <;> (try split) <;> rfl
@[simp] theorem Core.ageMstart_w (c : Core) : (c.ageMstart).w = c.w := by unfold Core.ageMstart; dsimp only; split <;> (try split) <;> rfl
@[simp] theorem Core.ageMstart_a (c : Core) : (c.ageMstart).a = c.a := by unfold Core.ageMstart; dsimp only; split <;> (try split) <;> rfl
@[simp] theorem Core.ageMstart_am (c : Core) : (c.ageMstart).am = c.am := by unfold Core.ageMstart; dsimp only; split <;> (try split) <;> rfl
@[simp] theorem Core.ageMstart_f (c : Core) : (c.ageMstart).f = c.f := by unfold Core.ageMstart; dsimp only; split <;> (try split) <;> rfl
@[simp] theorem Core.ageMstart_t (c : Core) : (c.ageMstart).t = c.t := by unfold Core.ageMstart; dsimp only; split <;> (try split) <;> rfl
@[simp] theorem Core.ageMstart_ac (c : Core) : (c.ageMstart).ac = c.ac := by unfold Core.ageMstart; dsimp only; split <;> (try split) <;> rfl
@[simp] theorem Core.ageMstart_cst (c : Core) : (c.ageMstart).cst = c.cst := by unfold Core.ageMstart; dsimp only; split <;> (try split) <;> rfl
@[simp] theorem Core.ageMstart_vmode (c : Core) : (c.ageMstart).vmode = c.vmode := by unfold Core.ageMstart; dsimp only; split <;> (try split) <;> rfl
@[simp] theorem Core.ageMstart_fmode (c : Core) : (c.ageMstart).fmode = c.fmode := by unfold Core.ageMstart; dsimp only; split <;> (try split) <;> rfl
@[simp] theorem Core.ageMstart_vm1 (c : Core) : (c.ageMstart).vm1 = c.vm1 := by unfold Core.ageMstart; dsimp only; split <;> (try split) <;> rfl
@[simp] theorem Core.ageMstart_vm2 (c : Core) : (c.ageMstart).vm2 = c.vm2 := by unfold Core.ageMstart; dsimp only; split <;> (try split) <;> rfl
@[simp] theorem Core.ageMstart_fm1 (c : Core) : (c.ageMstart).fm1 = c.fm1 := by unfold Core.ageMstart; dsimp only; split <;> (try split) <;> rfl
@[simp] theorem Core.ageMstart_fm2 (c : Core) : (c.ageMstart).fm2 = c.fm2 := by unfold Core.ageMstart; dsimp only; split <;> (try split) <;> rfl
@[simp] theorem Core.ageMstart_cnt (c : Core) : (c.ageMstart).cnt = c.cnt := by unfold Core.ageMstart; dsimp only; split <;> (try split) <;> rfl
@[simp] theorem Core.ageMstart_lk (c : Core) : (c.ageMstart).lk = c.lk := by unfold Core.ageMstart; dsimp only; split <;> (try split) <;> rfl
@[simp] theorem Core.ageMstart_vprog (c : Core) : (c.ageMstart).vprog = c.vprog := by unfold Core.ageMstart; dsimp only; split <;> (try split) <;> rfl
@[simp] theorem Core.ageMstart_vfc (c : Core) : (c.ageMstart).vfc = c.vfc := by unfold Core.ageMstart; dsimp only; split <;> (try split) <;> rfl
@[simp] theorem Core.ageMstart_vfe (c : Core) : (c.ageMstart).vfe = c.vfe := by unfold Core.ageMstart; dsimp only; split <;> (try split) <;> rfl
@[simp] theorem Core.ageMstart_vfa (c : Core) : (c.ageMstart).vfa = c.vfa := by unfold Core.ageMstart; dsimp only; split <;> (try split) <;> rfl
@[simp] theorem Core.ageMstart_causeS (c : Core) : (c.ageMstart).causeS = c.causeS := by unfold Core.ageMstart; dsimp only; split <;> (try split) <;> rfl
@[simp] theorem Core.ageMstart_causeM (c : Core) : (c.ageMstart).causeM = c.causeM := by unfold Core.ageMstart; dsimp only; split <;> (try split) <;> rfl
@[simp] theorem Core.ageMstart_evb (c : Core) : (c.ageMstart).evb = c.evb := by unfold Core.ageMstart; dsimp only; split <;> (try split) <;> rfl
@[simp] theorem Core.ageMstart_ssb (c : Core) : (c.ageMstart).ssb = c.ssb := by unfold Core.ageMstart; dsimp only; split <;> (try split) <;> rfl
@[simp] theorem Core.ageMstart_gtb (c : Core) : (c.ageMstart).gtb = c.gtb := by unfold Core.ageMstart; dsimp only; split <;> (try split) <;> rfl
@[simp] theorem Core.ageMstart_gtn (c : Core) : (c.ageMstart).gtn = c.gtn := by unfold Core.ageMstart; dsimp only; split <;> (try split) <;> rfl
@[simp] theorem Core.ageMstart_halt (c : Core) : (c.ageMstart).halt = c.halt := by unfold Core.ageMstart; dsimp only; split <;> (try split) <;> rfl
@[simp] theorem Core.ageMstart_sfh (c : Core) : (c.ageMstart).sfh = c.sfh := by unfold Core.ageMstart; dsimp only; split <;> (try split) <;> rfl
@[simp] theorem Core.ageMstart_wctl (c : Core) : (c.ageMstart).wctl = c.wctl := by unfold Core.ageMstart; dsimp only; split <;> (try split) <;> rfl
@[simp] theorem Core.ageMstart_wcnt (c : Core) : (c.ageMstart).wcnt = c.wcnt := by unfold Core.ageMstart; dsimp only; split <;> (try split) <;> rfl
@[simp] theorem Core.ageMstart_ipend (c : Core) : (c.ageMstart).ipend = c.ipend := by unfold Core.ageMstart; dsimp only; split <;> (try split) <;> rfl
@[simp] theorem Core.ageMstart_imask (c : Core) : (c.ageMstart).imask = c.imask := by unfold Core.ageMstart; dsimp only; split <;> (try split) <;> rfl
@[simp] theorem Core.ageMstart_mevb (c : Core) : (c.ageMstart).mevb = c.mevb := by unfold Core.ageMstart; dsimp only; split <;> (try split) <;> rfl
@[simp] theorem Core.ageMstart_msb (c : Core) : (c.ageMstart).msb = c.msb := by unfold Core.ageMstart; dsimp only; split <;> (try split) <;> rfl
@[simp] theorem Core.ageMstart_mgtb (c : Core) : (c.ageMstart).mgtb = c.mgtb := by unfold Core.ageMstart; dsimp only; split <;> (try split) <;> rfl
@[simp] theorem Core.ageMstart_mgtn (c : Core) : (c.ageMstart).mgtn = c.mgtn := by unfold Core.ageMstart; dsimp only; split <;> (try split) <;> rfl
@[simp] theorem Core.ageMstart_mset (c : Core) : (c.ageMstart).mset = c.mset := by unfold Core.ageMstart; dsimp only; split <;> (try split) <;> rfl
@[simp] theorem Core.ageMstart_mflt (c : Core) : (c.ageMstart).mflt = c.mflt := by unfold Core.ageMstart; dsimp only; split <;> (try split) <;> rfl
@[simp] theorem Core.ageMstart_scratch (c : Core) : (c.ageMstart).scratch = c.scratch := by unfold Core.ageMstart; dsimp only; split <;> (try split) <;> rfl
@[simp] theorem Core.ageMstart_resv (c : Core) : (c.ageMstart).resv = c.resv := by unfold Core.ageMstart; dsimp only; split <;> (try split) <;> rfl
@[simp] theorem Core.ageMstart_rep (c : Core) : (c.ageMstart).rep = c.rep := by unfold Core.ageMstart; dsimp only; split <;> (try split) <;> rfl
@[simp] theorem Core.ageMstart_repNew (c : Core) : (c.ageMstart).repNew = c.repNew := by unfold Core.ageMstart; dsimp only; split <;> (try split) <;> rfl
@[simp] theorem Core.ageMstart_stale (c : Core) : (c.ageMstart).stale = c.stale := by unfold Core.ageMstart; dsimp only; split <;> (try split) <;> rfl
@[simp] theorem Core.ageMstart_loads (c : Core) : (c.ageMstart).loads = c.loads := by unfold Core.ageMstart; dsimp only; split <;> (try split) <;> rfl
@[simp] theorem Core.ageMstart_div (c : Core) : (c.ageMstart).div = c.div := by unfold Core.ageMstart; dsimp only; split <;> (try split) <;> rfl
@[simp] theorem Core.ageMstart_vbar (c : Core) : (c.ageMstart).vbar = c.vbar := by unfold Core.ageMstart; dsimp only; split <;> (try split) <;> rfl
@[simp] theorem Core.ageMstart_sbuf (c : Core) : (c.ageMstart).sbuf = c.sbuf := by unfold Core.ageMstart; dsimp only; split <;> (try split) <;> rfl
@[simp] theorem Core.ageMstart_mchk (c : Core) : (c.ageMstart).mchk = c.mchk := by unfold Core.ageMstart; dsimp only; split <;> (try split) <;> rfl
@[simp] theorem Core.ageMstart_fbuf (c : Core) : (c.ageMstart).fbuf = c.fbuf := by unfold Core.ageMstart; dsimp only; split <;> (try split) <;> rfl
@[simp] theorem Core.ageMstart_groups (c : Core) : (c.ageMstart).groups = c.groups := by unfold Core.ageMstart; dsimp only; split <;> (try split) <;> rfl
@[simp] theorem Core.ageMstart_stopped (c : Core) : (c.ageMstart).stopped = c.stopped := by unfold Core.ageMstart; dsimp only; split <;> (try split) <;> rfl
@[simp] theorem Core.ageMstart_bound (c : Core) : (c.ageMstart).bound = c.bound := by unfold Core.ageMstart; dsimp only; split <;> (try split) <;> rfl
@[simp] theorem Core.ageMstart_phase (c : Core) : (c.ageMstart).phase = c.phase := by unfold Core.ageMstart; dsimp only; split <;> (try split) <;> rfl
@[simp] theorem Core.ageMstart_boundPips (c : Core) : (c.ageMstart).boundPips = c.boundPips := by unfold Core.ageMstart; dsimp only; split <;> (try split) <;> rfl
@[simp] theorem Core.ageMstart_bindNo (c : Core) : (c.ageMstart).bindNo = c.bindNo := by unfold Core.ageMstart; dsimp only; split <;> (try split) <;> rfl
@[simp] theorem Core.ageMstart_claim (c : Core) : (c.ageMstart).claim = c.claim := by unfold Core.ageMstart; dsimp only; split <;> (try split) <;> rfl
@[simp] theorem Core.ageMstart_preempt (c : Core) : (c.ageMstart).preempt = c.preempt := by unfold Core.ageMstart; dsimp only; split <;> (try split) <;> rfl
@[simp] theorem Core.ageMstart_out (c : Core) : (c.ageMstart).out = c.out := by unfold Core.ageMstart; dsimp only; split <;> (try split) <;> rfl
@[simp] theorem Core.ageMstart_vecIn (c : Core) : (c.ageMstart).vecIn = c.vecIn := by unfold Core.ageMstart; dsimp only; split <;> (try split) <;> rfl
@[simp] theorem Core.ageMstart_inVec (c : Core) : (c.ageMstart).inVec = c.inVec := by unfold Core.ageMstart; dsimp only; split <;> (try split) <;> rfl
@[simp] theorem Core.ageMstart_rc (c : Core) : (c.ageMstart).rc = c.rc := by unfold Core.ageMstart; dsimp only; split <;> (try split) <;> rfl
@[simp] theorem Core.ageMstart_rcPl (c : Core) : (c.ageMstart).rcPl = c.rcPl := by unfold Core.ageMstart; dsimp only; split <;> (try split) <;> rfl
@[simp] theorem Core.ageMstart_rcSel (c : Core) : (c.ageMstart).rcSel = c.rcSel := by unfold Core.ageMstart; dsimp only; split <;> (try split) <;> rfl
@[simp] theorem Core.ageMstart_rolling (c : Core) : (c.ageMstart).rolling = c.rolling := by unfold Core.ageMstart; dsimp only; split <;> (try split) <;> rfl

/-! ## pass -/

@[simp] theorem Core.pass_pc (c : Core) (len : Nat) : (c.pass len).pc = c.pc := by simp [Core.pass]
@[simp] theorem Core.pass_w (c : Core) (len : Nat) : (c.pass len).w = c.w := by simp [Core.pass]
@[simp] theorem Core.pass_a (c : Core) (len : Nat) : (c.pass len).a = c.a := by simp [Core.pass]
@[simp] theorem Core.pass_am (c : Core) (len : Nat) : (c.pass len).am = c.am := by simp [Core.pass]
@[simp] theorem Core.pass_f (c : Core) (len : Nat) : (c.pass len).f = c.f := by simp [Core.pass]
@[simp] theorem Core.pass_t (c : Core) (len : Nat) : (c.pass len).t = c.t := by simp [Core.pass]
@[simp] theorem Core.pass_ac (c : Core) (len : Nat) : (c.pass len).ac = c.ac := by simp [Core.pass]
@[simp] theorem Core.pass_cst (c : Core) (len : Nat) : (c.pass len).cst = c.cst := by simp [Core.pass]
@[simp] theorem Core.pass_vmode (c : Core) (len : Nat) : (c.pass len).vmode = c.vmode := by simp [Core.pass]
@[simp] theorem Core.pass_fmode (c : Core) (len : Nat) : (c.pass len).fmode = c.fmode := by simp [Core.pass]
@[simp] theorem Core.pass_cnt (c : Core) (len : Nat) : (c.pass len).cnt = c.cnt := by simp [Core.pass]
@[simp] theorem Core.pass_lk (c : Core) (len : Nat) : (c.pass len).lk = c.lk := by simp [Core.pass]
@[simp] theorem Core.pass_vprog (c : Core) (len : Nat) : (c.pass len).vprog = c.vprog := by simp [Core.pass]
@[simp] theorem Core.pass_vfc (c : Core) (len : Nat) : (c.pass len).vfc = c.vfc := by simp [Core.pass]
@[simp] theorem Core.pass_vfe (c : Core) (len : Nat) : (c.pass len).vfe = c.vfe := by simp [Core.pass]
@[simp] theorem Core.pass_vfa (c : Core) (len : Nat) : (c.pass len).vfa = c.vfa := by simp [Core.pass]
@[simp] theorem Core.pass_causeS (c : Core) (len : Nat) : (c.pass len).causeS = c.causeS := by simp [Core.pass]
@[simp] theorem Core.pass_causeM (c : Core) (len : Nat) : (c.pass len).causeM = c.causeM := by simp [Core.pass]
@[simp] theorem Core.pass_evb (c : Core) (len : Nat) : (c.pass len).evb = c.evb := by simp [Core.pass]
@[simp] theorem Core.pass_ssb (c : Core) (len : Nat) : (c.pass len).ssb = c.ssb := by simp [Core.pass]
@[simp] theorem Core.pass_gtb (c : Core) (len : Nat) : (c.pass len).gtb = c.gtb := by simp [Core.pass]
@[simp] theorem Core.pass_gtn (c : Core) (len : Nat) : (c.pass len).gtn = c.gtn := by simp [Core.pass]
@[simp] theorem Core.pass_halt (c : Core) (len : Nat) : (c.pass len).halt = c.halt := by simp [Core.pass]
@[simp] theorem Core.pass_sfh (c : Core) (len : Nat) : (c.pass len).sfh = c.sfh := by simp [Core.pass]
@[simp] theorem Core.pass_wctl (c : Core) (len : Nat) : (c.pass len).wctl = c.wctl := by simp [Core.pass]
@[simp] theorem Core.pass_wcnt (c : Core) (len : Nat) : (c.pass len).wcnt = c.wcnt := by simp [Core.pass]
@[simp] theorem Core.pass_ipend (c : Core) (len : Nat) : (c.pass len).ipend = c.ipend := by simp [Core.pass]
@[simp] theorem Core.pass_imask (c : Core) (len : Nat) : (c.pass len).imask = c.imask := by simp [Core.pass]
@[simp] theorem Core.pass_mevb (c : Core) (len : Nat) : (c.pass len).mevb = c.mevb := by simp [Core.pass]
@[simp] theorem Core.pass_msb (c : Core) (len : Nat) : (c.pass len).msb = c.msb := by simp [Core.pass]
@[simp] theorem Core.pass_mgtb (c : Core) (len : Nat) : (c.pass len).mgtb = c.mgtb := by simp [Core.pass]
@[simp] theorem Core.pass_mgtn (c : Core) (len : Nat) : (c.pass len).mgtn = c.mgtn := by simp [Core.pass]
@[simp] theorem Core.pass_mset (c : Core) (len : Nat) : (c.pass len).mset = c.mset := by simp [Core.pass]
@[simp] theorem Core.pass_mflt (c : Core) (len : Nat) : (c.pass len).mflt = c.mflt := by simp [Core.pass]
@[simp] theorem Core.pass_scratch (c : Core) (len : Nat) : (c.pass len).scratch = c.scratch := by simp [Core.pass]
@[simp] theorem Core.pass_resv (c : Core) (len : Nat) : (c.pass len).resv = c.resv := by simp [Core.pass]
@[simp] theorem Core.pass_rep (c : Core) (len : Nat) : (c.pass len).rep = c.rep := by simp [Core.pass]
@[simp] theorem Core.pass_div (c : Core) (len : Nat) : (c.pass len).div = c.div := by simp [Core.pass]
@[simp] theorem Core.pass_vbar (c : Core) (len : Nat) : (c.pass len).vbar = c.vbar := by simp [Core.pass]
@[simp] theorem Core.pass_sbuf (c : Core) (len : Nat) : (c.pass len).sbuf = c.sbuf := by simp [Core.pass]
@[simp] theorem Core.pass_mchk (c : Core) (len : Nat) : (c.pass len).mchk = c.mchk := by simp [Core.pass]
@[simp] theorem Core.pass_groups (c : Core) (len : Nat) : (c.pass len).groups = c.groups := by simp [Core.pass]
@[simp] theorem Core.pass_stopped (c : Core) (len : Nat) : (c.pass len).stopped = c.stopped := by simp [Core.pass]
@[simp] theorem Core.pass_bound (c : Core) (len : Nat) : (c.pass len).bound = c.bound := by simp [Core.pass]
@[simp] theorem Core.pass_phase (c : Core) (len : Nat) : (c.pass len).phase = c.phase := by simp [Core.pass]
@[simp] theorem Core.pass_boundPips (c : Core) (len : Nat) : (c.pass len).boundPips = c.boundPips := by simp [Core.pass]
@[simp] theorem Core.pass_bindNo (c : Core) (len : Nat) : (c.pass len).bindNo = c.bindNo := by simp [Core.pass]
@[simp] theorem Core.pass_claim (c : Core) (len : Nat) : (c.pass len).claim = c.claim := by simp [Core.pass]
@[simp] theorem Core.pass_preempt (c : Core) (len : Nat) : (c.pass len).preempt = c.preempt := by simp [Core.pass]
@[simp] theorem Core.pass_out (c : Core) (len : Nat) : (c.pass len).out = c.out := by simp [Core.pass]
@[simp] theorem Core.pass_vecIn (c : Core) (len : Nat) : (c.pass len).vecIn = c.vecIn := by simp [Core.pass]
@[simp] theorem Core.pass_rcPl (c : Core) (len : Nat) : (c.pass len).rcPl = c.rcPl := by simp [Core.pass]
@[simp] theorem Core.pass_rcSel (c : Core) (len : Nat) : (c.pass len).rcSel = c.rcSel := by simp [Core.pass]
@[simp] theorem Core.pass_rolling (c : Core) (len : Nat) : (c.pass len).rolling = c.rolling := by simp [Core.pass]

/-! ## retire -/

@[simp] theorem Core.retire_w (c : Core) (len : Nat) : (c.retire len).w = c.w := by simp [Core.retire]
@[simp] theorem Core.retire_a (c : Core) (len : Nat) : (c.retire len).a = c.a := by simp [Core.retire]
@[simp] theorem Core.retire_am (c : Core) (len : Nat) : (c.retire len).am = c.am := by simp [Core.retire]
@[simp] theorem Core.retire_f (c : Core) (len : Nat) : (c.retire len).f = c.f := by simp [Core.retire]
@[simp] theorem Core.retire_t (c : Core) (len : Nat) : (c.retire len).t = c.t := by simp [Core.retire]
@[simp] theorem Core.retire_ac (c : Core) (len : Nat) : (c.retire len).ac = c.ac := by simp [Core.retire]
@[simp] theorem Core.retire_cst (c : Core) (len : Nat) : (c.retire len).cst = c.cst := by simp [Core.retire]
@[simp] theorem Core.retire_vmode (c : Core) (len : Nat) : (c.retire len).vmode = c.vmode := by simp [Core.retire]
@[simp] theorem Core.retire_fmode (c : Core) (len : Nat) : (c.retire len).fmode = c.fmode := by simp [Core.retire]
@[simp] theorem Core.retire_cnt (c : Core) (len : Nat) : (c.retire len).cnt = c.cnt := by simp [Core.retire]
@[simp] theorem Core.retire_lk (c : Core) (len : Nat) : (c.retire len).lk = c.lk := by simp [Core.retire]
@[simp] theorem Core.retire_vprog (c : Core) (len : Nat) : (c.retire len).vprog = c.vprog := by simp [Core.retire]
@[simp] theorem Core.retire_vfc (c : Core) (len : Nat) : (c.retire len).vfc = c.vfc := by simp [Core.retire]
@[simp] theorem Core.retire_vfe (c : Core) (len : Nat) : (c.retire len).vfe = c.vfe := by simp [Core.retire]
@[simp] theorem Core.retire_vfa (c : Core) (len : Nat) : (c.retire len).vfa = c.vfa := by simp [Core.retire]
@[simp] theorem Core.retire_causeS (c : Core) (len : Nat) : (c.retire len).causeS = c.causeS := by simp [Core.retire]
@[simp] theorem Core.retire_causeM (c : Core) (len : Nat) : (c.retire len).causeM = c.causeM := by simp [Core.retire]
@[simp] theorem Core.retire_evb (c : Core) (len : Nat) : (c.retire len).evb = c.evb := by simp [Core.retire]
@[simp] theorem Core.retire_ssb (c : Core) (len : Nat) : (c.retire len).ssb = c.ssb := by simp [Core.retire]
@[simp] theorem Core.retire_gtb (c : Core) (len : Nat) : (c.retire len).gtb = c.gtb := by simp [Core.retire]
@[simp] theorem Core.retire_gtn (c : Core) (len : Nat) : (c.retire len).gtn = c.gtn := by simp [Core.retire]
@[simp] theorem Core.retire_halt (c : Core) (len : Nat) : (c.retire len).halt = c.halt := by simp [Core.retire]
@[simp] theorem Core.retire_sfh (c : Core) (len : Nat) : (c.retire len).sfh = c.sfh := by simp [Core.retire]
@[simp] theorem Core.retire_wctl (c : Core) (len : Nat) : (c.retire len).wctl = c.wctl := by simp [Core.retire]
@[simp] theorem Core.retire_wcnt (c : Core) (len : Nat) : (c.retire len).wcnt = c.wcnt := by simp [Core.retire]
@[simp] theorem Core.retire_ipend (c : Core) (len : Nat) : (c.retire len).ipend = c.ipend := by simp [Core.retire]
@[simp] theorem Core.retire_imask (c : Core) (len : Nat) : (c.retire len).imask = c.imask := by simp [Core.retire]
@[simp] theorem Core.retire_mevb (c : Core) (len : Nat) : (c.retire len).mevb = c.mevb := by simp [Core.retire]
@[simp] theorem Core.retire_msb (c : Core) (len : Nat) : (c.retire len).msb = c.msb := by simp [Core.retire]
@[simp] theorem Core.retire_mgtb (c : Core) (len : Nat) : (c.retire len).mgtb = c.mgtb := by simp [Core.retire]
@[simp] theorem Core.retire_mgtn (c : Core) (len : Nat) : (c.retire len).mgtn = c.mgtn := by simp [Core.retire]
@[simp] theorem Core.retire_mset (c : Core) (len : Nat) : (c.retire len).mset = c.mset := by simp [Core.retire]
@[simp] theorem Core.retire_mflt (c : Core) (len : Nat) : (c.retire len).mflt = c.mflt := by simp [Core.retire]
@[simp] theorem Core.retire_scratch (c : Core) (len : Nat) : (c.retire len).scratch = c.scratch := by simp [Core.retire]
@[simp] theorem Core.retire_resv (c : Core) (len : Nat) : (c.retire len).resv = c.resv := by simp [Core.retire]
@[simp] theorem Core.retire_div (c : Core) (len : Nat) : (c.retire len).div = c.div := by simp [Core.retire]
@[simp] theorem Core.retire_vbar (c : Core) (len : Nat) : (c.retire len).vbar = c.vbar := by simp [Core.retire]
@[simp] theorem Core.retire_sbuf (c : Core) (len : Nat) : (c.retire len).sbuf = c.sbuf := by simp [Core.retire]
@[simp] theorem Core.retire_mchk (c : Core) (len : Nat) : (c.retire len).mchk = c.mchk := by simp [Core.retire]
@[simp] theorem Core.retire_groups (c : Core) (len : Nat) : (c.retire len).groups = c.groups := by simp [Core.retire]
@[simp] theorem Core.retire_stopped (c : Core) (len : Nat) : (c.retire len).stopped = c.stopped := by simp [Core.retire]
@[simp] theorem Core.retire_bound (c : Core) (len : Nat) : (c.retire len).bound = c.bound := by simp [Core.retire]
@[simp] theorem Core.retire_phase (c : Core) (len : Nat) : (c.retire len).phase = c.phase := by simp [Core.retire]
@[simp] theorem Core.retire_boundPips (c : Core) (len : Nat) : (c.retire len).boundPips = c.boundPips := by simp [Core.retire]
@[simp] theorem Core.retire_bindNo (c : Core) (len : Nat) : (c.retire len).bindNo = c.bindNo := by simp [Core.retire]
@[simp] theorem Core.retire_claim (c : Core) (len : Nat) : (c.retire len).claim = c.claim := by simp [Core.retire]
@[simp] theorem Core.retire_preempt (c : Core) (len : Nat) : (c.retire len).preempt = c.preempt := by simp [Core.retire]
@[simp] theorem Core.retire_out (c : Core) (len : Nat) : (c.retire len).out = c.out := by simp [Core.retire]
@[simp] theorem Core.retire_vecIn (c : Core) (len : Nat) : (c.retire len).vecIn = c.vecIn := by simp [Core.retire]
@[simp] theorem Core.retire_rcPl (c : Core) (len : Nat) : (c.retire len).rcPl = c.rcPl := by simp [Core.retire]
@[simp] theorem Core.retire_rcSel (c : Core) (len : Nat) : (c.retire len).rcSel = c.rcSel := by simp [Core.retire]
@[simp] theorem Core.retire_rolling (c : Core) (len : Nat) : (c.retire len).rolling = c.rolling := by simp [Core.retire]

/-! ## setPair -/

@[simp] theorem Core.setPair_pc (c : Core) (d : BitVec 5) (v : Dbl) : (c.setPair d v).pc = c.pc := by simp [Core.setPair]
@[simp] theorem Core.setPair_a (c : Core) (d : BitVec 5) (v : Dbl) : (c.setPair d v).a = c.a := by simp [Core.setPair]
@[simp] theorem Core.setPair_am (c : Core) (d : BitVec 5) (v : Dbl) : (c.setPair d v).am = c.am := by simp [Core.setPair]
@[simp] theorem Core.setPair_f (c : Core) (d : BitVec 5) (v : Dbl) : (c.setPair d v).f = c.f := by simp [Core.setPair]
@[simp] theorem Core.setPair_t (c : Core) (d : BitVec 5) (v : Dbl) : (c.setPair d v).t = c.t := by simp [Core.setPair]
@[simp] theorem Core.setPair_ac (c : Core) (d : BitVec 5) (v : Dbl) : (c.setPair d v).ac = c.ac := by simp [Core.setPair]
@[simp] theorem Core.setPair_cst (c : Core) (d : BitVec 5) (v : Dbl) : (c.setPair d v).cst = c.cst := by simp [Core.setPair]
@[simp] theorem Core.setPair_vmode (c : Core) (d : BitVec 5) (v : Dbl) : (c.setPair d v).vmode = c.vmode := by simp [Core.setPair]
@[simp] theorem Core.setPair_fmode (c : Core) (d : BitVec 5) (v : Dbl) : (c.setPair d v).fmode = c.fmode := by simp [Core.setPair]
@[simp] theorem Core.setPair_vm1 (c : Core) (d : BitVec 5) (v : Dbl) : (c.setPair d v).vm1 = c.vm1 := by simp [Core.setPair]
@[simp] theorem Core.setPair_vm2 (c : Core) (d : BitVec 5) (v : Dbl) : (c.setPair d v).vm2 = c.vm2 := by simp [Core.setPair]
@[simp] theorem Core.setPair_fm1 (c : Core) (d : BitVec 5) (v : Dbl) : (c.setPair d v).fm1 = c.fm1 := by simp [Core.setPair]
@[simp] theorem Core.setPair_fm2 (c : Core) (d : BitVec 5) (v : Dbl) : (c.setPair d v).fm2 = c.fm2 := by simp [Core.setPair]
@[simp] theorem Core.setPair_cnt (c : Core) (d : BitVec 5) (v : Dbl) : (c.setPair d v).cnt = c.cnt := by simp [Core.setPair]
@[simp] theorem Core.setPair_lk (c : Core) (d : BitVec 5) (v : Dbl) : (c.setPair d v).lk = c.lk := by simp [Core.setPair]
@[simp] theorem Core.setPair_mh (c : Core) (d : BitVec 5) (v : Dbl) : (c.setPair d v).mh = c.mh := by simp [Core.setPair]
@[simp] theorem Core.setPair_ml (c : Core) (d : BitVec 5) (v : Dbl) : (c.setPair d v).ml = c.ml := by simp [Core.setPair]
@[simp] theorem Core.setPair_vprog (c : Core) (d : BitVec 5) (v : Dbl) : (c.setPair d v).vprog = c.vprog := by simp [Core.setPair]
@[simp] theorem Core.setPair_vfc (c : Core) (d : BitVec 5) (v : Dbl) : (c.setPair d v).vfc = c.vfc := by simp [Core.setPair]
@[simp] theorem Core.setPair_vfe (c : Core) (d : BitVec 5) (v : Dbl) : (c.setPair d v).vfe = c.vfe := by simp [Core.setPair]
@[simp] theorem Core.setPair_vfa (c : Core) (d : BitVec 5) (v : Dbl) : (c.setPair d v).vfa = c.vfa := by simp [Core.setPair]
@[simp] theorem Core.setPair_causeS (c : Core) (d : BitVec 5) (v : Dbl) : (c.setPair d v).causeS = c.causeS := by simp [Core.setPair]
@[simp] theorem Core.setPair_causeM (c : Core) (d : BitVec 5) (v : Dbl) : (c.setPair d v).causeM = c.causeM := by simp [Core.setPair]
@[simp] theorem Core.setPair_evb (c : Core) (d : BitVec 5) (v : Dbl) : (c.setPair d v).evb = c.evb := by simp [Core.setPair]
@[simp] theorem Core.setPair_ssb (c : Core) (d : BitVec 5) (v : Dbl) : (c.setPair d v).ssb = c.ssb := by simp [Core.setPair]
@[simp] theorem Core.setPair_gtb (c : Core) (d : BitVec 5) (v : Dbl) : (c.setPair d v).gtb = c.gtb := by simp [Core.setPair]
@[simp] theorem Core.setPair_gtn (c : Core) (d : BitVec 5) (v : Dbl) : (c.setPair d v).gtn = c.gtn := by simp [Core.setPair]
@[simp] theorem Core.setPair_halt (c : Core) (d : BitVec 5) (v : Dbl) : (c.setPair d v).halt = c.halt := by simp [Core.setPair]
@[simp] theorem Core.setPair_sfh (c : Core) (d : BitVec 5) (v : Dbl) : (c.setPair d v).sfh = c.sfh := by simp [Core.setPair]
@[simp] theorem Core.setPair_wctl (c : Core) (d : BitVec 5) (v : Dbl) : (c.setPair d v).wctl = c.wctl := by simp [Core.setPair]
@[simp] theorem Core.setPair_wcnt (c : Core) (d : BitVec 5) (v : Dbl) : (c.setPair d v).wcnt = c.wcnt := by simp [Core.setPair]
@[simp] theorem Core.setPair_ipend (c : Core) (d : BitVec 5) (v : Dbl) : (c.setPair d v).ipend = c.ipend := by simp [Core.setPair]
@[simp] theorem Core.setPair_imask (c : Core) (d : BitVec 5) (v : Dbl) : (c.setPair d v).imask = c.imask := by simp [Core.setPair]
@[simp] theorem Core.setPair_mevb (c : Core) (d : BitVec 5) (v : Dbl) : (c.setPair d v).mevb = c.mevb := by simp [Core.setPair]
@[simp] theorem Core.setPair_msb (c : Core) (d : BitVec 5) (v : Dbl) : (c.setPair d v).msb = c.msb := by simp [Core.setPair]
@[simp] theorem Core.setPair_mgtb (c : Core) (d : BitVec 5) (v : Dbl) : (c.setPair d v).mgtb = c.mgtb := by simp [Core.setPair]
@[simp] theorem Core.setPair_mgtn (c : Core) (d : BitVec 5) (v : Dbl) : (c.setPair d v).mgtn = c.mgtn := by simp [Core.setPair]
@[simp] theorem Core.setPair_mset (c : Core) (d : BitVec 5) (v : Dbl) : (c.setPair d v).mset = c.mset := by simp [Core.setPair]
@[simp] theorem Core.setPair_mflt (c : Core) (d : BitVec 5) (v : Dbl) : (c.setPair d v).mflt = c.mflt := by simp [Core.setPair]
@[simp] theorem Core.setPair_scratch (c : Core) (d : BitVec 5) (v : Dbl) : (c.setPair d v).scratch = c.scratch := by simp [Core.setPair]
@[simp] theorem Core.setPair_resv (c : Core) (d : BitVec 5) (v : Dbl) : (c.setPair d v).resv = c.resv := by simp [Core.setPair]
@[simp] theorem Core.setPair_rep (c : Core) (d : BitVec 5) (v : Dbl) : (c.setPair d v).rep = c.rep := by simp [Core.setPair]
@[simp] theorem Core.setPair_repNew (c : Core) (d : BitVec 5) (v : Dbl) : (c.setPair d v).repNew = c.repNew := by simp [Core.setPair]
@[simp] theorem Core.setPair_stale (c : Core) (d : BitVec 5) (v : Dbl) : (c.setPair d v).stale = c.stale := by simp [Core.setPair]
@[simp] theorem Core.setPair_mstart (c : Core) (d : BitVec 5) (v : Dbl) : (c.setPair d v).mstart = c.mstart := by simp [Core.setPair]
@[simp] theorem Core.setPair_div (c : Core) (d : BitVec 5) (v : Dbl) : (c.setPair d v).div = c.div := by simp [Core.setPair]
@[simp] theorem Core.setPair_vbar (c : Core) (d : BitVec 5) (v : Dbl) : (c.setPair d v).vbar = c.vbar := by simp [Core.setPair]
@[simp] theorem Core.setPair_sbuf (c : Core) (d : BitVec 5) (v : Dbl) : (c.setPair d v).sbuf = c.sbuf := by simp [Core.setPair]
@[simp] theorem Core.setPair_mchk (c : Core) (d : BitVec 5) (v : Dbl) : (c.setPair d v).mchk = c.mchk := by simp [Core.setPair]
@[simp] theorem Core.setPair_fbuf (c : Core) (d : BitVec 5) (v : Dbl) : (c.setPair d v).fbuf = c.fbuf := by simp [Core.setPair]
@[simp] theorem Core.setPair_groups (c : Core) (d : BitVec 5) (v : Dbl) : (c.setPair d v).groups = c.groups := by simp [Core.setPair]
@[simp] theorem Core.setPair_stopped (c : Core) (d : BitVec 5) (v : Dbl) : (c.setPair d v).stopped = c.stopped := by simp [Core.setPair]
@[simp] theorem Core.setPair_bound (c : Core) (d : BitVec 5) (v : Dbl) : (c.setPair d v).bound = c.bound := by simp [Core.setPair]
@[simp] theorem Core.setPair_phase (c : Core) (d : BitVec 5) (v : Dbl) : (c.setPair d v).phase = c.phase := by simp [Core.setPair]
@[simp] theorem Core.setPair_boundPips (c : Core) (d : BitVec 5) (v : Dbl) : (c.setPair d v).boundPips = c.boundPips := by simp [Core.setPair]
@[simp] theorem Core.setPair_bindNo (c : Core) (d : BitVec 5) (v : Dbl) : (c.setPair d v).bindNo = c.bindNo := by simp [Core.setPair]
@[simp] theorem Core.setPair_claim (c : Core) (d : BitVec 5) (v : Dbl) : (c.setPair d v).claim = c.claim := by simp [Core.setPair]
@[simp] theorem Core.setPair_preempt (c : Core) (d : BitVec 5) (v : Dbl) : (c.setPair d v).preempt = c.preempt := by simp [Core.setPair]
@[simp] theorem Core.setPair_out (c : Core) (d : BitVec 5) (v : Dbl) : (c.setPair d v).out = c.out := by simp [Core.setPair]
@[simp] theorem Core.setPair_vecIn (c : Core) (d : BitVec 5) (v : Dbl) : (c.setPair d v).vecIn = c.vecIn := by simp [Core.setPair]
@[simp] theorem Core.setPair_inVec (c : Core) (d : BitVec 5) (v : Dbl) : (c.setPair d v).inVec = c.inVec := by simp [Core.setPair]
@[simp] theorem Core.setPair_rc (c : Core) (d : BitVec 5) (v : Dbl) : (c.setPair d v).rc = c.rc := by simp [Core.setPair]
@[simp] theorem Core.setPair_rcPl (c : Core) (d : BitVec 5) (v : Dbl) : (c.setPair d v).rcPl = c.rcPl := by simp [Core.setPair]
@[simp] theorem Core.setPair_rcSel (c : Core) (d : BitVec 5) (v : Dbl) : (c.setPair d v).rcSel = c.rcSel := by simp [Core.setPair]
@[simp] theorem Core.setPair_rolling (c : Core) (d : BitVec 5) (v : Dbl) : (c.setPair d v).rolling = c.rolling := by simp [Core.setPair]

/-! ## Registers -/

theorem wKey_inj {pl : Priv} {m n : BitVec 5} (h : wKey pl m = wKey pl n) : m = n := by
  revert m n
  cases pl <;> decide

@[simp] theorem Core.wr_zero (c : Core) : c.wr 0 = 0 := by simp [Core.wr]

@[simp] theorem Core.wr_setW_same (c : Core) (n : BitVec 5) (v : Word) : (c.setW n v).wr n = if n = 0 then 0 else v := by
  unfold Core.wr Core.setW
  split <;> simp [Core.cancel]

theorem Core.wr_setW_other (c : Core) {m n : BitVec 5} (v : Word) (h : m ≠ n) : (c.setW n v).wr m = c.wr m := by
  unfold Core.wr Core.setW
  split
  · rfl
  · split
    · rfl
    · have : wKey c.cst.pl m ≠ wKey c.cst.pl n := fun e => h (wKey_inj e)
      simp [Core.cancel, SMap.get_set_other _ _ _ this]

theorem Core.w_setW_other (c : Core) (n : BitVec 5) (v : Word) {key : Nat} (h : key ≠ wKey c.cst.pl n) :
    SMap.get 0 (c.setW n v).w key = SMap.get 0 c.w key := by
  unfold Core.setW
  split
  · rfl
  · simp [SMap.get_set_other _ _ _ h]

@[simp] theorem Core.ar_setA_same (c : Core) (n : BitVec 3) (v : Dbl) : (c.setA n v).ar n = v := by
  simp [Core.ar, Core.setA]

theorem Core.a_setA_other (c : Core) (n : BitVec 3) (v : Dbl) {j : Nat} (h : j ≠ n.toNat) :
    SMap.get 0 (c.setA n v).a j = SMap.get 0 c.a j := by
  simp [Core.setA, SMap.get_set_other _ _ _ h]

@[simp] theorem Core.fr_setF_same (c : Core) (n : Nat) (v : Dbl) : (c.setF n v).fr n = v := by
  simp [Core.fr, Core.setF]

theorem Core.f_setF_other (c : Core) (n : Nat) (v : Dbl) {j : Nat} (h : j ≠ n) :
    SMap.get 0 (c.setF n v).f j = SMap.get 0 c.f j := by
  simp [Core.setF, SMap.get_set_other _ _ _ h]

theorem Core.retire_pc (c : Core) (len : Nat) (h : c.rep = none) : (c.retire len).pc = c.pc + BitVec.ofNat 40 len := by
  simp [Core.retire, h]

theorem Core.ageMstart_mul (c : Core) (h : c.mstart = []) : c.ageMstart.mh = c.mh ∧ c.ageMstart.ml = c.ml := by
  simp [Core.ageMstart, h]

theorem Core.retire_mul (c : Core) (len : Nat) (h : c.mstart = []) :
    (c.retire len).mh = c.mh ∧ (c.retire len).ml = c.ml := by
  simpa [Core.retire, Core.pass] using c.ageMstart_mul h

end Sys2Proof.Machine

namespace Sys2Proof.Safety

open Sys2Proof.Machine

/-! ## Frames -/

theorem SysKept_retire (c : Core) (len : Nat) : SysKept c (c.retire len) := by
  constructor
  all_goals try simp
  exact fun h => c.retire_mul len h

theorem SysKept.setW {c e : Core} (h : SysKept c e) (n : BitVec 5) (v : Word) : SysKept c (e.setW n v) := by
  cases h; constructor <;> simp_all

theorem SysKept.setA {c e : Core} (h : SysKept c e) (n : BitVec 3) (v : Dbl) : SysKept c (e.setA n v) := by
  cases h; constructor <;> simp_all

theorem SysKept.setF {c e : Core} (h : SysKept c e) (n : Nat) (v : Dbl) : SysKept c (e.setF n v) := by
  cases h; constructor <;> simp_all

theorem Frame_retire (c : Core) (len : Nat) : Frame c (c.retire len) [] [] [] := by
  constructor
  all_goals try simp
  exact SysKept_retire c len

theorem Frame.setW {c e : Core} {ws : List (BitVec 5)} {as : List (BitVec 3)} {fs : List Nat} (h : Frame c e ws as fs)
    (hp : e.cst.pl = c.cst.pl) (n : BitVec 5) (v : Word) : Frame c (e.setW n v) (n :: ws) as fs := by
  obtain ⟨hw, ha, hf, hm, ht, hc, hs⟩ := h
  constructor
  · intro key hk
    rw [e.w_setW_other n v (by rw [hp]; exact hk n (by simp))]
    exact hw key (fun r hr => hk r (by simp [hr]))
  · simpa using ha
  · simpa using hf
  · simpa using hm
  · simpa using ht
  · simpa using hc
  · exact hs.setW n v

theorem Frame.setA {c e : Core} {ws : List (BitVec 5)} {as : List (BitVec 3)} {fs : List Nat} (h : Frame c e ws as fs)
    (n : BitVec 3) (v : Dbl) : Frame c (e.setA n v) ws (n :: as) fs := by
  obtain ⟨hw, ha, hf, hm, ht, hc, hs⟩ := h
  constructor
  · simpa using hw
  · intro j hj
    rw [e.a_setA_other n v (hj n (by simp))]
    exact ha j (fun r hr => hj r (by simp [hr]))
  · simpa using hf
  · simpa using hm
  · simpa using ht
  · simpa using hc
  · exact hs.setA n v

theorem Frame.setF {c e : Core} {ws : List (BitVec 5)} {as : List (BitVec 3)} {fs : List Nat} (h : Frame c e ws as fs)
    (n : Nat) (v : Dbl) : Frame c (e.setF n v) ws as (n :: fs) := by
  obtain ⟨hw, ha, hf, hm, ht, hc, hs⟩ := h
  constructor
  · simpa using hw
  · simpa using ha
  · intro j hj
    rw [e.f_setF_other n v (by simp at hj; exact hj.1)]
    exact hf j (by simp at hj; exact hj.2)
  · simpa using hm
  · simpa using ht
  · simpa using hc
  · exact hs.setF n v

end Sys2Proof.Safety

namespace Sys2Proof.Machine

open Sys2Proof.Safety

/-! ## Instructions -/

theorem State.instr_ready {s : State} {k : Nat} (h : Ready s k) (body : Core → Out) : s.instr k body = body (s.core k) := by
  obtain ⟨hw, hf, hr⟩ := h
  have hc : s.clusterOn k = true := by
    unfold State.atWork at hw
    simp at hw
    exact hw.1.1.1.1.1
  unfold State.instr
  simp [hc, hw, hf, hr]

/-- Where core k cannot run its next instruction, a command that is one does nothing. -/
theorem State.instr_held {s : State} {k : Nat} (hc : s.clusterOn k = true) (h : (s.atWork k && (s.core k).free) = false)
    (body : Core → Out) : s.instr k body = ok s := by
  unfold State.instr
  simp [hc, h]

/-- An instruction for a core that the device does not have. -/
theorem State.instr_noUnit {s : State} {k : Nat} (hc : s.clusterOn k = false) (body : Core → Out) : s.instr k body = noUnit := by
  unfold State.instr
  simp [hc]

end Sys2Proof.Machine
end

