-- ==== Sys2Proof/Laws/Dispatch.lean ====
section
/-! SUPPORT. What exec calls for each command. -/

namespace Sys2Proof.Machine

@[simp] theorem exec_add (k : Nat) (d rs t : BitVec 5) (s : State) : exec (.add k d rs t) s = execAdd k d rs t s := rfl
@[simp] theorem exec_sub (k : Nat) (d rs t : BitVec 5) (s : State) : exec (.sub k d rs t) s = execSub k d rs t s := rfl
@[simp] theorem exec_adc (k : Nat) (d rs t : BitVec 5) (s : State) : exec (.adc k d rs t) s = execAdc k d rs t s := rfl
@[simp] theorem exec_sbc (k : Nat) (d rs t : BitVec 5) (s : State) : exec (.sbc k d rs t) s = execSbc k d rs t s := rfl
@[simp] theorem exec_and (k : Nat) (d rs t : BitVec 5) (s : State) : exec (.and k d rs t) s = execAnd k d rs t s := rfl
@[simp] theorem exec_or (k : Nat) (d rs t : BitVec 5) (s : State) : exec (.or k d rs t) s = execOr k d rs t s := rfl
@[simp] theorem exec_xor (k : Nat) (d rs t : BitVec 5) (s : State) : exec (.xor k d rs t) s = execXor k d rs t s := rfl
@[simp] theorem exec_mul (k : Nat) (d rs t : BitVec 5) (s : State) : exec (.mul k d rs t) s = execMul k d rs t s := rfl
@[simp] theorem exec_mulw (k : Nat) (d rs t : BitVec 5) (s : State) : exec (.mulw k d rs t) s = execMulw k d rs t s := rfl
@[simp] theorem exec_shl (k : Nat) (d rs t : BitVec 5) (s : State) : exec (.shl k d rs t) s = execShl k d rs t s := rfl
@[simp] theorem exec_shr (k : Nat) (d rs t : BitVec 5) (s : State) : exec (.shr k d rs t) s = execShr k d rs t s := rfl
@[simp] theorem exec_sha (k : Nat) (d rs t : BitVec 5) (s : State) : exec (.sha k d rs t) s = execSha k d rs t s := rfl
@[simp] theorem exec_lw (k : Nat) (d : BitVec 5) (e : MemEa) (s : State) : exec (.lw k d e) s = execLw k d e s := rfl
@[simp] theorem exec_sw (k : Nat) (rs : BitVec 5) (e : MemEa) (s : State) : exec (.sw k rs e) s = execSw k rs e s := rfl
@[simp] theorem exec_ld (k : Nat) (d : BitVec 5) (e : MemEa) (s : State) : exec (.ld k d e) s = execLd k d e s := rfl
@[simp] theorem exec_sd (k : Nat) (rs : BitVec 5) (e : MemEa) (s : State) : exec (.sd k rs e) s = execSd k rs e s := rfl
@[simp] theorem exec_addi (k : Nat) (d rs : BitVec 5) (imm : Word) (s : State) : exec (.addi k d rs imm) s = execAddi k d rs imm s := rfl
@[simp] theorem exec_subi (k : Nat) (d rs : BitVec 5) (imm : Word) (s : State) : exec (.subi k d rs imm) s = execSubi k d rs imm s := rfl
@[simp] theorem exec_andi (k : Nat) (d rs : BitVec 5) (imm : Word) (s : State) : exec (.andi k d rs imm) s = execAndi k d rs imm s := rfl
@[simp] theorem exec_ori (k : Nat) (d rs : BitVec 5) (imm : Word) (s : State) : exec (.ori k d rs imm) s = execOri k d rs imm s := rfl
@[simp] theorem exec_xori (k : Nat) (d rs : BitVec 5) (imm : Word) (s : State) : exec (.xori k d rs imm) s = execXori k d rs imm s := rfl
@[simp] theorem exec_movi (k : Nat) (d : BitVec 5) (imm : Word) (s : State) : exec (.movi k d imm) s = execMovi k d imm s := rfl
@[simp] theorem exec_adds (k : Nat) (d rs t : BitVec 5) (sat : BitVec 2) (s : State) : exec (.adds k d rs t sat) s = execAdds k d rs t sat s := rfl
@[simp] theorem exec_subs (k : Nat) (d rs t : BitVec 5) (sat : BitVec 2) (s : State) : exec (.subs k d rs t sat) s = execSubs k d rs t sat s := rfl
@[simp] theorem exec_neg (k : Nat) (d rs : BitVec 5) (sat : BitVec 2) (s : State) : exec (.neg k d rs sat) s = execNeg k d rs sat s := rfl
@[simp] theorem exec_abs (k : Nat) (d rs : BitVec 5) (sat : BitVec 2) (s : State) : exec (.abs k d rs sat) s = execAbs k d rs sat s := rfl
@[simp] theorem exec_shls (k : Nat) (d rs t : BitVec 5) (sat : BitVec 2) (s : State) : exec (.shls k d rs t sat) s = execShls k d rs t sat s := rfl
@[simp] theorem exec_shli (k : Nat) (d rs : BitVec 5) (c : BitVec 9) (s : State) : exec (.shli k d rs c) s = execShli k d rs c s := rfl
@[simp] theorem exec_shri (k : Nat) (d rs : BitVec 5) (c : BitVec 9) (s : State) : exec (.shri k d rs c) s = execShri k d rs c s := rfl
@[simp] theorem exec_shai (k : Nat) (d rs : BitVec 5) (c : BitVec 9) (s : State) : exec (.shai k d rs c) s = execShai k d rs c s := rfl
@[simp] theorem exec_shlsi (k : Nat) (d rs : BitVec 5) (c : BitVec 9) (sat : BitVec 2) (s : State) : exec (.shlsi k d rs c sat) s = execShlsi k d rs c sat s := rfl
@[simp] theorem exec_shar (k : Nat) (d rs : BitVec 5) (c : BitVec 9) (o : Opt) (s : State) : exec (.shar k d rs c o) s = execShar k d rs c o s := rfl
@[simp] theorem exec_mulu (k : Nat) (d rs t : BitVec 5) (sat : BitVec 2) (s : State) : exec (.mulu k d rs t sat) s = execMulu k d rs t sat s := rfl
@[simp] theorem exec_mulq (k : Nat) (d rs t : BitVec 5) (o : Opt) (s : State) : exec (.mulq k d rs t o) s = execMulq k d rs t o s := rfl
@[simp] theorem exec_mulwu (k : Nat) (d rs t : BitVec 5) (s : State) : exec (.mulwu k d rs t) s = execMulwu k d rs t s := rfl
@[simp] theorem exec_mstart (k : Nat) (rs t : BitVec 5) (s : State) : exec (.mstart k rs t) s = execMstart k rs t s := rfl
@[simp] theorem exec_mstartProductWrite (k : Nat) (s : State) : exec (.mstartProductWrite k) s = execMstartProductWrite k s := rfl
@[simp] theorem exec_div (k : Nat) (d rs t : BitVec 5) (sat : BitVec 2) (s : State) : exec (.div k d rs t sat) s = execDiv k d rs t sat s := rfl
@[simp] theorem exec_divu (k : Nat) (d rs t : BitVec 5) (s : State) : exec (.divu k d rs t) s = execDivu k d rs t s := rfl
@[simp] theorem exec_divq (k : Nat) (d rs t : BitVec 5) (sat : BitVec 2) (s : State) : exec (.divq k d rs t sat) s = execDivq k d rs t sat s := rfl
@[simp] theorem exec_divw (k : Nat) (d rs t : BitVec 5) (sat : BitVec 2) (s : State) : exec (.divw k d rs t sat) s = execDivw k d rs t sat s := rfl
@[simp] theorem exec_divwu (k : Nat) (d rs t : BitVec 5) (sat : BitVec 2) (s : State) : exec (.divwu k d rs t sat) s = execDivwu k d rs t sat s := rfl
@[simp] theorem exec_divisionComplete (k : Nat) (s : State) : exec (.divisionComplete k) s = execDivisionComplete k s := rfl
@[simp] theorem exec_min (k : Nat) (d rs t : BitVec 5) (s : State) : exec (.min k d rs t) s = execMin k d rs t s := rfl
@[simp] theorem exec_max (k : Nat) (d rs t : BitVec 5) (s : State) : exec (.max k d rs t) s = execMax k d rs t s := rfl
@[simp] theorem exec_minu (k : Nat) (d rs t : BitVec 5) (s : State) : exec (.minu k d rs t) s = execMinu k d rs t s := rfl
@[simp] theorem exec_maxu (k : Nat) (d rs t : BitVec 5) (s : State) : exec (.maxu k d rs t) s = execMaxu k d rs t s := rfl
@[simp] theorem exec_lq (k : Nat) (d : BitVec 5) (e : Mem2) (s : State) : exec (.lq k d e) s = execLq k d e s := rfl
@[simp] theorem exec_sq (k : Nat) (rs : BitVec 5) (e : Mem2) (s : State) : exec (.sq k rs e) s = execSq k rs e s := rfl
@[simp] theorem exec_la (k : Nat) (d : BitVec 3) (e : Mem2) (s : State) : exec (.la k d e) s = execLa k d e s := rfl
@[simp] theorem exec_sa (k : Nat) (rs : BitVec 3) (e : Mem2) (s : State) : exec (.sa k rs e) s = execSa k rs e s := rfl
@[simp] theorem exec_lf (k : Nat) (d : BitVec 5) (e : Mem2) (s : State) : exec (.lf k d e) s = execLf k d e s := rfl
@[simp] theorem exec_sf (k : Nat) (rs : BitVec 5) (e : Mem2) (s : State) : exec (.sf k rs e) s = execSf k rs e s := rfl
@[simp] theorem exec_lfw (k : Nat) (d : BitVec 5) (e : Mem2) (s : State) : exec (.lfw k d e) s = execLfw k d e s := rfl
@[simp] theorem exec_sfw (k : Nat) (rs : BitVec 5) (e : Mem2) (s : State) : exec (.sfw k rs e) s = execSfw k rs e s := rfl
@[simp] theorem exec_lwx (k : Nat) (d : BitVec 5) (a : BitVec 3) (s : State) : exec (.lwx k d a) s = execLwx k d a s := rfl
@[simp] theorem exec_swx (k : Nat) (d rs : BitVec 5) (a : BitVec 3) (s : State) : exec (.swx k d rs a) s = execSwx k d rs a s := rfl
@[simp] theorem exec_vld (k : Nat) (d : BitVec 3) (e : Mem2) (s : State) : exec (.vld k d e) s = execVld k d e s := rfl
@[simp] theorem exec_vst (k : Nat) (rs : BitVec 3) (e : Mem2) (s : State) : exec (.vst k rs e) s = execVst k rs e s := rfl
@[simp] theorem exec_vld2 (k : Nat) (d : BitVec 3) (e : Mem2) (s : State) : exec (.vld2 k d e) s = execVld2 k d e s := rfl
@[simp] theorem exec_vld3 (k : Nat) (d : BitVec 3) (e : Mem2) (s : State) : exec (.vld3 k d e) s = execVld3 k d e s := rfl
@[simp] theorem exec_vld4 (k : Nat) (d : BitVec 3) (e : Mem2) (s : State) : exec (.vld4 k d e) s = execVld4 k d e s := rfl
@[simp] theorem exec_vgath (k : Nat) (d a i : BitVec 3) (s : State) : exec (.vgath k d a i) s = execVgath k d a i s := rfl
@[simp] theorem exec_vscat (k : Nat) (rs a i : BitVec 3) (s : State) : exec (.vscat k rs a i) s = execVscat k rs a i s := rfl
@[simp] theorem exec_xadd (k : Nat) (d rs : BitVec 5) (a : BitVec 3) (s : State) : exec (.xadd k d rs a) s = execXadd k d rs a s := rfl
@[simp] theorem exec_adda (k : Nat) (a b : BitVec 3) (n : BitVec 5) (s : State) : exec (.adda k a b n) s = execAdda k a b n s := rfl
@[simp] theorem exec_addai (k : Nat) (a b : BitVec 3) (imm : Word) (s : State) : exec (.addai k a b imm) s = execAddai k a b imm s := rfl
@[simp] theorem exec_lal (k : Nat) (a : BitVec 3) (imm : Word) (s : State) : exec (.lal k a imm) s = execLal k a imm s := rfl
@[simp] theorem exec_lah (k : Nat) (a : BitVec 3) (imm : Word) (s : State) : exec (.lah k a imm) s = execLah k a imm s := rfl
@[simp] theorem exec_mtal (k : Nat) (a : BitVec 3) (n : BitVec 5) (s : State) : exec (.mtal k a n) s = execMtal k a n s := rfl
@[simp] theorem exec_mtah (k : Nat) (a : BitVec 3) (n : BitVec 5) (s : State) : exec (.mtah k a n) s = execMtah k a n s := rfl
@[simp] theorem exec_mfal (k : Nat) (n : BitVec 5) (a : BitVec 3) (s : State) : exec (.mfal k n a) s = execMfal k n a s := rfl
@[simp] theorem exec_mfah (k : Nat) (n : BitVec 5) (a : BitVec 3) (s : State) : exec (.mfah k n a) s = execMfah k n a s := rfl
@[simp] theorem exec_mtam (k : Nat) (a : BitVec 3) (n : BitVec 5) (s : State) : exec (.mtam k a n) s = execMtam k a n s := rfl
@[simp] theorem exec_mfam (k : Nat) (n : BitVec 5) (a : BitVec 3) (s : State) : exec (.mfam k n a) s = execMfam k n a s := rfl
@[simp] theorem exec_upda (k : Nat) (a : BitVec 3) (imm : Word) (s : State) : exec (.upda k a imm) s = execUpda k a imm s := rfl
@[simp] theorem exec_mova (k : Nat) (a b : BitVec 3) (s : State) : exec (.mova k a b) s = execMova k a b s := rfl
@[simp] theorem exec_beq (k : Nat) (rs t : BitVec 5) (o : Word) (s : State) : exec (.beq k rs t o) s = execBeq k rs t o s := rfl
@[simp] theorem exec_bne (k : Nat) (rs t : BitVec 5) (o : Word) (s : State) : exec (.bne k rs t o) s = execBne k rs t o s := rfl
@[simp] theorem exec_blt (k : Nat) (rs t : BitVec 5) (o : Word) (s : State) : exec (.blt k rs t o) s = execBlt k rs t o s := rfl
@[simp] theorem exec_bge (k : Nat) (rs t : BitVec 5) (o : Word) (s : State) : exec (.bge k rs t o) s = execBge k rs t o s := rfl
@[simp] theorem exec_bltu (k : Nat) (rs t : BitVec 5) (o : Word) (s : State) : exec (.bltu k rs t o) s = execBltu k rs t o s := rfl
@[simp] theorem exec_bgeu (k : Nat) (rs t : BitVec 5) (o : Word) (s : State) : exec (.bgeu k rs t o) s = execBgeu k rs t o s := rfl
@[simp] theorem exec_bcs (k : Nat) (o : Word) (s : State) : exec (.bcs k o) s = execBcs k o s := rfl
@[simp] theorem exec_bcc (k : Nat) (o : Word) (s : State) : exec (.bcc k o) s = execBcc k o s := rfl
@[simp] theorem exec_bmi (k : Nat) (o : Word) (s : State) : exec (.bmi k o) s = execBmi k o s := rfl
@[simp] theorem exec_bpl (k : Nat) (o : Word) (s : State) : exec (.bpl k o) s = execBpl k o s := rfl
@[simp] theorem exec_bzs (k : Nat) (o : Word) (s : State) : exec (.bzs k o) s = execBzs k o s := rfl
@[simp] theorem exec_bzc (k : Nat) (o : Word) (s : State) : exec (.bzc k o) s = execBzc k o s := rfl
@[simp] theorem exec_b (k : Nat) (o : Word) (s : State) : exec (.b k o) s = execB k o s := rfl
@[simp] theorem exec_j (k : Nat) (o : BitVec 30) (s : State) : exec (.j k o) s = execJ k o s := rfl
@[simp] theorem exec_jal (k : Nat) (o : BitVec 30) (s : State) : exec (.jal k o) s = execJal k o s := rfl
@[simp] theorem exec_dbnz (k : Nat) (rs : BitVec 5) (o : Word) (s : State) : exec (.dbnz k rs o) s = execDbnz k rs o s := rfl
@[simp] theorem exec_repi (k : Nat) (imm : Word) (s : State) : exec (.repi k imm) s = execRepi k imm s := rfl
@[simp] theorem exec_rep (k : Nat) (rs : BitVec 5) (s : State) : exec (.rep k rs) s = execRep k rs s := rfl
@[simp] theorem exec_nop (k : Nat) (s : State) : exec (.nop k) s = execNop k s := rfl
@[simp] theorem exec_sync (k : Nat) (s : State) : exec (.sync k) s = execSync k s := rfl
@[simp] theorem exec_isync (k : Nat) (s : State) : exec (.isync k) s = execIsync k s := rfl
@[simp] theorem exec_ret (k : Nat) (s : State) : exec (.ret k) s = execRet k s := rfl
@[simp] theorem exec_jr (k : Nat) (a : BitVec 3) (s : State) : exec (.jr k a) s = execJr k a s := rfl
@[simp] theorem exec_jalr (k : Nat) (a : BitVec 3) (s : State) : exec (.jalr k a) s = execJalr k a s := rfl
@[simp] theorem exec_mfc (k : Nat) (d n : BitVec 5) (s : State) : exec (.mfc k d n) s = execMfc k d n s := rfl
@[simp] theorem exec_mtc (k : Nat) (n rs : BitVec 5) (s : State) : exec (.mtc k n rs) s = execMtc k n rs s := rfl
@[simp] theorem exec_vfcDiscard (k : Nat) (rs : BitVec 5) (s : State) : exec (.vfcDiscard k rs) s = execVfcDiscard k rs s := rfl
@[simp] theorem exec_vprogWrite (k : Nat) (rs : BitVec 5) (s : State) : exec (.vprogWrite k rs) s = execVprogWrite k rs s := rfl
@[simp] theorem exec_signal (k : Nat) (c : BitVec 5) (s : State) : exec (.signal k c) s = execSignal k c s := rfl
@[simp] theorem exec_gate (k : Nat) (g : BitVec 10) (s : State) : exec (.gate k g) s = execGate k g s := rfl
@[simp] theorem exec_bkpt (k : Nat) (code : BitVec 10) (s : State) : exec (.bkpt k code) s = execBkpt k code s := rfl
@[simp] theorem exec_rfe (k : Nat) (s : State) : exec (.rfe k) s = execRfe k s := rfl
@[simp] theorem exec_rfg (k : Nat) (s : State) : exec (.rfg k) s = execRfg k s := rfl
@[simp] theorem exec_wait (k : Nat) (d rs t : BitVec 5) (s : State) : exec (.wait k d rs t) s = execWait k d rs t s := rfl
@[simp] theorem exec_fadd (k : Nat) (wd : Bool) (d rs t : BitVec 5) (s : State) : exec (.fadd k wd d rs t) s = execFadd k wd d rs t s := rfl
@[simp] theorem exec_fsub (k : Nat) (wd : Bool) (d rs t : BitVec 5) (s : State) : exec (.fsub k wd d rs t) s = execFsub k wd d rs t s := rfl
@[simp] theorem exec_fmul (k : Nat) (wd : Bool) (d rs t : BitVec 5) (s : State) : exec (.fmul k wd d rs t) s = execFmul k wd d rs t s := rfl
@[simp] theorem exec_fdiv (k : Nat) (wd : Bool) (d rs t : BitVec 5) (s : State) : exec (.fdiv k wd d rs t) s = execFdiv k wd d rs t s := rfl
@[simp] theorem exec_fsqrt (k : Nat) (wd : Bool) (d rs : BitVec 5) (s : State) : exec (.fsqrt k wd d rs) s = execFsqrt k wd d rs s := rfl
@[simp] theorem exec_fmin (k : Nat) (wd : Bool) (d rs t : BitVec 5) (s : State) : exec (.fmin k wd d rs t) s = execFmin k wd d rs t s := rfl
@[simp] theorem exec_fmax (k : Nat) (wd : Bool) (d rs t : BitVec 5) (s : State) : exec (.fmax k wd d rs t) s = execFmax k wd d rs t s := rfl
@[simp] theorem exec_fabs (k : Nat) (wd : Bool) (d rs : BitVec 5) (s : State) : exec (.fabs k wd d rs) s = execFabs k wd d rs s := rfl
@[simp] theorem exec_fneg (k : Nat) (wd : Bool) (d rs : BitVec 5) (s : State) : exec (.fneg k wd d rs) s = execFneg k wd d rs s := rfl
@[simp] theorem exec_fmov (k : Nat) (wd : Bool) (d rs : BitVec 5) (s : State) : exec (.fmov k wd d rs) s = execFmov k wd d rs s := rfl
@[simp] theorem exec_fcmp (k : Nat) (wd : Bool) (wx rs t : BitVec 5) (cond : BitVec 3) (s : State) : exec (.fcmp k wd wx rs t cond) s = execFcmp k wd wx rs t cond s := rfl
@[simp] theorem exec_fcvt (k : Nat) (wd : Bool) (d rs : BitVec 5) (s : State) : exec (.fcvt k wd d rs) s = execFcvt k wd d rs s := rfl
@[simp] theorem exec_ftow (k : Nat) (wd : Bool) (wx rs : BitVec 5) (code : BitVec 3) (tz : Bool) (s : State) : exec (.ftow k wd wx rs code tz) s = execFtow k wd wx rs code tz s := rfl
@[simp] theorem exec_ffrw (k : Nat) (wd : Bool) (d wx : BitVec 5) (code : BitVec 3) (s : State) : exec (.ffrw k wd d wx code) s = execFfrw k wd d wx code s := rfl
@[simp] theorem exec_fmfw (k : Nat) (wd : Bool) (wx rs : BitVec 5) (s : State) : exec (.fmfw k wd wx rs) s = execFmfw k wd wx rs s := rfl
@[simp] theorem exec_fmtw (k : Nat) (wd : Bool) (d wx : BitVec 5) (s : State) : exec (.fmtw k wd d wx) s = execFmtw k wd d wx s := rfl
@[simp] theorem exec_sadd (k : Nat) (f : SvForm) (d a b : BitVec 3) (sat : BitVec 2) (s : State) : exec (.sadd k f d a b sat) s = execSadd k f d a b sat s := rfl
@[simp] theorem exec_ssub (k : Nat) (f : SvForm) (d a b : BitVec 3) (sat : BitVec 2) (s : State) : exec (.ssub k f d a b sat) s = execSsub k f d a b sat s := rfl
@[simp] theorem exec_sand (k : Nat) (f : SvForm) (d a b : BitVec 3) (s : State) : exec (.sand k f d a b) s = execSand k f d a b s := rfl
@[simp] theorem exec_sor (k : Nat) (f : SvForm) (d a b : BitVec 3) (s : State) : exec (.sor k f d a b) s = execSor k f d a b s := rfl
@[simp] theorem exec_sxor (k : Nat) (f : SvForm) (d a b : BitVec 3) (s : State) : exec (.sxor k f d a b) s = execSxor k f d a b s := rfl
@[simp] theorem exec_sshl (k : Nat) (f : SvForm) (d a : BitVec 3) (p : BitVec 8) (s : State) : exec (.sshl k f d a p) s = execSshl k f d a p s := rfl
@[simp] theorem exec_sshr (k : Nat) (f : SvForm) (d a : BitVec 3) (p : BitVec 8) (s : State) : exec (.sshr k f d a p) s = execSshr k f d a p s := rfl
@[simp] theorem exec_ssha (k : Nat) (f : SvForm) (d a : BitVec 3) (p : BitVec 8) (s : State) : exec (.ssha k f d a p) s = execSsha k f d a p s := rfl
@[simp] theorem exec_sshls (k : Nat) (f : SvForm) (d a : BitVec 3) (p : BitVec 8) (sat : BitVec 2) (s : State) : exec (.sshls k f d a p sat) s = execSshls k f d a p sat s := rfl
@[simp] theorem exec_scmp (k : Nat) (f : SvForm) (d a b : BitVec 3) (cond : BitVec 3) (s : State) : exec (.scmp k f d a b cond) s = execScmp k f d a b cond s := rfl
@[simp] theorem exec_ssel (k : Nat) (f : SvForm) (d m a b : BitVec 3) (s : State) : exec (.ssel k f d m a b) s = execSsel k f d m a b s := rfl
@[simp] theorem exec_smin (k : Nat) (f : SvForm) (d a b : BitVec 3) (s : State) : exec (.smin k f d a b) s = execSmin k f d a b s := rfl
@[simp] theorem exec_smax (k : Nat) (f : SvForm) (d a b : BitVec 3) (s : State) : exec (.smax k f d a b) s = execSmax k f d a b s := rfl
@[simp] theorem exec_sabs (k : Nat) (f : SvForm) (d a : BitVec 3) (sat : BitVec 2) (s : State) : exec (.sabs k f d a sat) s = execSabs k f d a sat s := rfl
@[simp] theorem exec_sneg (k : Nat) (f : SvForm) (d a : BitVec 3) (sat : BitVec 2) (s : State) : exec (.sneg k f d a sat) s = execSneg k f d a sat s := rfl
@[simp] theorem exec_ssrs (k : Nat) (f : SvForm) (d a : BitVec 3) (p : BitVec 6) (hi : Bool) (o : Opt) (s : State) : exec (.ssrs k f d a p hi o) s = execSsrs k f d a p hi o s := rfl
@[simp] theorem exec_ssrsp (k : Nat) (d a : BitVec 3) (p : BitVec 6) (h : SvHalf) (o : Opt) (s : State) : exec (.ssrsp k d a p h o) s = execSsrsp k d a p h o s := rfl
@[simp] theorem exec_smulq (k : Nat) (f : SvForm) (d a b : BitVec 3) (o : Opt) (s : State) : exec (.smulq k f d a b o) s = execSmulq k f d a b o s := rfl
@[simp] theorem exec_smulwL (k : Nat) (f : SvForm) (d a b : BitVec 3) (s : State) : exec (.smulwL k f d a b) s = execSmulwL k f d a b s := rfl
@[simp] theorem exec_smulwH (k : Nat) (f : SvForm) (d a b : BitVec 3) (s : State) : exec (.smulwH k f d a b) s = execSmulwH k f d a b s := rfl
@[simp] theorem exec_sdot (k : Nat) (f : SvForm) (d a b : BitVec 3) (s : State) : exec (.sdot k f d a b) s = execSdot k f d a b s := rfl
@[simp] theorem exec_sdota (k : Nat) (f : SvForm) (d a b : BitVec 3) (sat : BitVec 2) (s : State) : exec (.sdota k f d a b sat) s = execSdota k f d a b sat s := rfl
@[simp] theorem exec_sfadd (k : Nat) (f : SvForm) (d a b : BitVec 3) (s : State) : exec (.sfadd k f d a b) s = execSfadd k f d a b s := rfl
@[simp] theorem exec_sfsub (k : Nat) (f : SvForm) (d a b : BitVec 3) (s : State) : exec (.sfsub k f d a b) s = execSfsub k f d a b s := rfl
@[simp] theorem exec_sfmul (k : Nat) (f : SvForm) (d a b : BitVec 3) (s : State) : exec (.sfmul k f d a b) s = execSfmul k f d a b s := rfl
@[simp] theorem exec_scvt (k : Nat) (f : SvForm) (d a : BitVec 3) (code : BitVec 3) (tz : Bool) (hi : Bool) (s : State) : exec (.scvt k f d a code tz hi) s = execScvt k f d a code tz hi s := rfl
@[simp] theorem exec_sspl (k : Nat) (f : SvForm) (d : BitVec 3) (rs : BitVec 5) (s : State) : exec (.sspl k f d rs) s = execSspl k f d rs s := rfl
@[simp] theorem exec_smtl (k : Nat) (d j : BitVec 3) (rs : BitVec 5) (s : State) : exec (.smtl k d j rs) s = execSmtl k d j rs s := rfl
@[simp] theorem exec_smfl (k : Nat) (rs : BitVec 5) (a j : BitVec 3) (s : State) : exec (.smfl k rs a j) s = execSmfl k rs a j s := rfl
@[simp] theorem exec_smov (k : Nat) (d a : BitVec 3) (s : State) : exec (.smov k d a) s = execSmov k d a s := rfl
@[simp] theorem exec_chain (k : Nat) (n : BitVec 3) (rsv : BitVec 4) (c : BitVec 5) (s : State) : exec (.chain k n rsv c) s = execChain k n rsv c s := rfl
@[simp] theorem exec_vbar (k : Nat) (s : State) : exec (.vbar k) s = execVbar k s := rfl
@[simp] theorem exec_vbarCompletion (k : Nat) (s : State) : exec (.vbarCompletion k) s = execVbarCompletion k s := rfl
@[simp] theorem exec_mtt (k : Nat) (t : BitVec 4) (w : BitVec 3) (rs : BitVec 5) (s : State) : exec (.mtt k t w rs) s = execMtt k t w rs s := rfl
@[simp] theorem exec_mft (k : Nat) (d : BitVec 5) (t : BitVec 4) (w : BitVec 3) (s : State) : exec (.mft k d t w) s = execMft k d t w s := rfl
@[simp] theorem exec_mtac (k : Nat) (m : BitVec 2) (l : BitVec 3) (p : BitVec 2) (rs : BitVec 5) (s : State) : exec (.mtac k m l p rs) s = execMtac k m l p rs s := rfl
@[simp] theorem exec_mfac (k : Nat) (d : BitVec 5) (m : BitVec 2) (l : BitVec 3) (p : BitVec 2) (s : State) : exec (.mfac k d m l p) s = execMfac k d m l p s := rfl
@[simp] theorem exec_queuedGroupStart (k : Nat) (s : State) : exec (.queuedGroupStart k) s = execQueuedGroupStart k s := rfl
@[simp] theorem exec_groupStep (k : Nat) (s : State) : exec (.groupStep k) s = execGroupStep k s := rfl
@[simp] theorem exec_elementCommit (k : Nat) (s : State) : exec (.elementCommit k) s = execElementCommit k s := rfl
@[simp] theorem exec_groupRetire (k : Nat) (s : State) : exec (.groupRetire k) s = execGroupRetire k s := rfl
@[simp] theorem exec_groupFault (k : Nat) (s : State) : exec (.groupFault k) s = execGroupFault k s := rfl
@[simp] theorem exec_groupPreemptStop (k : Nat) (s : State) : exec (.groupPreemptStop k) s = execGroupPreemptStop k s := rfl
@[simp] theorem exec_loadDataReturn (k : Nat) (s : State) : exec (.loadDataReturn k) s = execLoadDataReturn k s := rfl
@[simp] theorem exec_storePerformed (k : Nat) (s : State) : exec (.storePerformed k) s = execStorePerformed k s := rfl
@[simp] theorem exec_fetchRefillReturn (k : Nat) (a : Dbl) (s : State) : exec (.fetchRefillReturn k a) s = execFetchRefillReturn k a s := rfl
@[simp] theorem exec_interruptTaken (k : Nat) (s : State) : exec (.interruptTaken k) s = execInterruptTaken k s := rfl
@[simp] theorem exec_clIpost (who : Master) (k : Nat) (v : Word) (s : State) : exec (.clIpost who k v) s = execClIpost who k v s := rfl
@[simp] theorem exec_clMflt (who : Master) (k : Nat) (v : Word) (s : State) : exec (.clMflt who k v) s = execClMflt who k v s := rfl
@[simp] theorem exec_watchdogWarning (k : Nat) (s : State) : exec (.watchdogWarning k) s = execWatchdogWarning k s := rfl
@[simp] theorem exec_watchdogExpiry (k : Nat) (s : State) : exec (.watchdogExpiry k) s = execWatchdogExpiry k s := rfl
@[simp] theorem exec_wdogCntWrite (k : Nat) (rs : BitVec 5) (s : State) : exec (.wdogCntWrite k rs) s = execWdogCntWrite k rs s := rfl
@[simp] theorem exec_alloc (who : Master) (s : State) : exec (.alloc who) s = execAlloc who s := rfl
@[simp] theorem exec_activate (who : Master) (s : State) : exec (.activate who) s = execActivate who s := rfl
@[simp] theorem exec_suspend (who : Master) (s : State) : exec (.suspend who) s = execSuspend who s := rfl
@[simp] theorem exec_wake (who : Master) (s : State) : exec (.wake who) s = execWake who s := rfl
@[simp] theorem exec_resumeContext (who : Master) (s : State) : exec (.resumeContext who) s = execResumeContext who s := rfl
@[simp] theorem exec_release (who : Master) (s : State) : exec (.release who) s = execRelease who s := rfl
@[simp] theorem exec_ctxCmdBadop (who : Master) (op : BitVec 4) (s : State) : exec (.ctxCmdBadop who op) s = execCtxCmdBadop who op s := rfl
@[simp] theorem exec_ctxCmdCompletion (who : Master) (s : State) : exec (.ctxCmdCompletion who) s = execCtxCmdCompletion who s := rfl
@[simp] theorem exec_deadlineReached (c : BitVec 20) (s : State) : exec (.deadlineReached c) s = execDeadlineReached c s := rfl
@[simp] theorem exec_bindDecision (k : Nat) (s : State) : exec (.bindDecision k) s = execBindDecision k s := rfl
@[simp] theorem exec_sliceExpiry (k : Nat) (s : State) : exec (.sliceExpiry k) s = execSliceExpiry k s := rfl
@[simp] theorem exec_victimBoundary (k : Nat) (s : State) : exec (.victimBoundary k) s = execVictimBoundary k s := rfl
@[simp] theorem exec_restoreComplete (k : Nat) (s : State) : exec (.restoreComplete k) s = execRestoreComplete k s := rfl
@[simp] theorem exec_saveComplete (k : Nat) (s : State) : exec (.saveComplete k) s = execSaveComplete k s := rfl
@[simp] theorem exec_queueRebuild (s : State) : exec (.queueRebuild) s = execQueueRebuild s := rfl
@[simp] theorem exec_inboxDelivery (s : State) : exec (.inboxDelivery) s = execInboxDelivery s := rfl
@[simp] theorem exec_boardAccessGrant (n : Nat) (reqs : List BoardReq) (s : State) : exec (.boardAccessGrant n reqs) s = execBoardAccessGrant n reqs s := rfl
@[simp] theorem exec_scrubRowDue (n : Nat) (s : State) : exec (.scrubRowDue n) s = execScrubRowDue n s := rfl
@[simp] theorem exec_scrubTurn (n : Nat) (s : State) : exec (.scrubTurn n) s = execScrubTurn n s := rfl
@[simp] theorem exec_storeScrubWord (st : StoreId) (s : State) : exec (.storeScrubWord st) s = execStoreScrubWord st s := rfl
@[simp] theorem exec_castleGo (who : Master) (n : Nat) (v : Word) (s : State) : exec (.castleGo who n v) s = execCastleGo who n v s := rfl
@[simp] theorem exec_castleCopyRow (n : Nat) (s : State) : exec (.castleCopyRow n) s = execCastleCopyRow n s := rfl
@[simp] theorem exec_castleSwitchover (n : Nat) (s : State) : exec (.castleSwitchover n) s = execCastleSwitchover n s := rfl
@[simp] theorem exec_rgnPreqNap (who : Master) (n : Nat) (v : Word) (s : State) : exec (.rgnPreqNap who n v) s = execRgnPreqNap who n v s := rfl
@[simp] theorem exec_rgnPreqOff (who : Master) (n : Nat) (v : Word) (s : State) : exec (.rgnPreqOff who n v) s = execRgnPreqOff who n v s := rfl
@[simp] theorem exec_rgnPreqAutomatic (who : Master) (n : Nat) (v : Word) (s : State) : exec (.rgnPreqAutomatic who n v) s = execRgnPreqAutomatic who n v s := rfl
@[simp] theorem exec_vacate (who : Master) (n : Nat) (v : Word) (s : State) : exec (.vacate who n v) s = execVacate who n v s := rfl
@[simp] theorem exec_hold (who : Master) (n : Nat) (v : Word) (s : State) : exec (.hold who n v) s = execHold who n v s := rfl
@[simp] theorem exec_requestedStateEntry (n : Nat) (s : State) : exec (.requestedStateEntry n) s = execRequestedStateEntry n s := rfl
@[simp] theorem exec_regionIdleEntry (n : Nat) (s : State) : exec (.regionIdleEntry n) s = execRegionIdleEntry n s := rfl
@[simp] theorem exec_regionNapEntry (n : Nat) (s : State) : exec (.regionNapEntry n) s = execRegionNapEntry n s := rfl
@[simp] theorem exec_regionLogicUp (n : Nat) (s : State) : exec (.regionLogicUp n) s = execRegionLogicUp n s := rfl
@[simp] theorem exec_zeroFillDone (n : Nat) (s : State) : exec (.zeroFillDone n) s = execZeroFillDone n s := rfl
@[simp] theorem exec_rgnVf (who : Master) (n : Nat) (v : Word) (s : State) : exec (.rgnVf who n v) s = execRgnVf who n v s := rfl
@[simp] theorem exec_voltageRampStep (n : Nat) (s : State) : exec (.voltageRampStep n) s = execVoltageRampStep n s := rfl
@[simp] theorem exec_rgnTurns (who : Master) (n : Nat) (v : Word) (s : State) : exec (.rgnTurns who n v) s = execRgnTurns who n v s := rfl
@[simp] theorem exec_rgnEccFlip (who : Master) (n : Nat) (v : Word) (s : State) : exec (.rgnEccFlip who n v) s = execRgnEccFlip who n v s := rfl
@[simp] theorem exec_fabricPieceGrant (d p : Nat) (reqs : List PieceReq) (s : State) : exec (.fabricPieceGrant d p reqs) s = execFabricPieceGrant d p reqs s := rfl
@[simp] theorem exec_fabricPortClockStop (d p : Nat) (s : State) : exec (.fabricPortClockStop d p) s = execFabricPortClockStop d p s := rfl
@[simp] theorem exec_dmaStart (who : Master) (n : Nat) (s : State) : exec (.dmaStart who n) s = execDmaStart who n s := rfl
@[simp] theorem exec_dmaStop (who : Master) (n : Nat) (s : State) : exec (.dmaStop who n) s = execDmaStop who n s := rfl
@[simp] theorem exec_dmaClear (who : Master) (n : Nat) (s : State) : exec (.dmaClear who n) s = execDmaClear who n s := rfl
@[simp] theorem exec_dmaKill (who : Master) (n : Nat) (s : State) : exec (.dmaKill who n) s = execDmaKill who n s := rfl
@[simp] theorem exec_dmaShadowWrite (who : Master) (n : Nat) (off : BitVec 4) (v : Word) (s : State) : exec (.dmaShadowWrite who n off v) s = execDmaShadowWrite who n off v s := rfl
@[simp] theorem exec_dmaReadReturn (n : Nat) (hds : List (BitVec 32)) (ep : HostCpl) (s : State) : exec (.dmaReadReturn n hds ep) s = execDmaReadReturn n hds ep s := rfl
@[simp] theorem exec_dmaWriteResponse (n : Nat) (s : State) : exec (.dmaWriteResponse n) s = execDmaWriteResponse n s := rfl
@[simp] theorem exec_dmaCompletion (n : Nat) (s : State) : exec (.dmaCompletion n) s = execDmaCompletion n s := rfl
@[simp] theorem exec_dmaHalt (n : Nat) (s : State) : exec (.dmaHalt n) s = execDmaHalt n s := rfl
@[simp] theorem exec_hbmRead (who : Master) (a : Dbl) (cnt : Nat) (s : State) : exec (.hbmRead who a cnt) s = execHbmRead who a cnt s := rfl
@[simp] theorem exec_hbmWholeBlockWrite (who : Master) (a : Dbl) (ws : List Word) (s : State) : exec (.hbmWholeBlockWrite who a ws) s = execHbmWholeBlockWrite who a ws s := rfl
@[simp] theorem exec_hbmReadModifyWrite (who : Master) (a : Dbl) (ws : List Word) (s : State) : exec (.hbmReadModifyWrite who a ws) s = execHbmReadModifyWrite who a ws s := rfl
@[simp] theorem exec_hbmScrubBlock (h : Nat) (s : State) : exec (.hbmScrubBlock h) s = execHbmScrubBlock h s := rfl
@[simp] theorem exec_lnkPnCtl (who : Master) (p : Nat) (v : Word) (s : State) : exec (.lnkPnCtl who p v) s = execLnkPnCtl who p v s := rfl
@[simp] theorem exec_ethernetFrameReceive (p sub : Nat) (f : EthFrame) (s : State) : exec (.ethernetFrameReceive p sub f) s = execEthernetFrameReceive p sub f s := rfl
@[simp] theorem exec_bosumMsgReceive (p : Nat) (f : BosumFrame) (s : State) : exec (.bosumMsgReceive p f) s = execBosumMsgReceive p f s := rfl
@[simp] theorem exec_bosumSigReceive (p : Nat) (f : BosumFrame) (s : State) : exec (.bosumSigReceive p f) s = execBosumSigReceive p f s := rfl
@[simp] theorem exec_bosumCtrlReceive (p : Nat) (f : BosumFrame) (s : State) : exec (.bosumCtrlReceive p f) s = execBosumCtrlReceive p f s := rfl
@[simp] theorem exec_bosumNakReceive (p : Nat) (f : BosumFrame) (s : State) : exec (.bosumNakReceive p f) s = execBosumNakReceive p f s := rfl
@[simp] theorem exec_bosumInitReceive (p : Nat) (f : BosumFrame) (s : State) : exec (.bosumInitReceive p f) s = execBosumInitReceive p f s := rfl
@[simp] theorem exec_replayTimeout (p : Nat) (s : State) : exec (.replayTimeout p) s = execReplayTimeout p s := rfl
@[simp] theorem exec_ctrlFrameSend (p : Nat) (s : State) : exec (.ctrlFrameSend p) s = execCtrlFrameSend p s := rfl
@[simp] theorem exec_initFrameSend (p : Nat) (s : State) : exec (.initFrameSend p) s = execInitFrameSend p s := rfl
@[simp] theorem exec_pcsBlockLockLoss (p sub : Nat) (s : State) : exec (.pcsBlockLockLoss p sub) s = execPcsBlockLockLoss p sub s := rfl
@[simp] theorem exec_frameTransmit (p sub : Nat) (s : State) : exec (.frameTransmit p sub) s = execFrameTransmit p sub s := rfl
@[simp] theorem exec_lnkTxsig (who : Master) (g : Dbl) (s : State) : exec (.lnkTxsig who g) s = execLnkTxsig who g s := rfl
@[simp] theorem exec_lnkFtIdx (who : Master) (v : Word) (s : State) : exec (.lnkFtIdx who v) s = execLnkFtIdx who v s := rfl
@[simp] theorem exec_lnkFtCmdWr (who : Master) (s : State) : exec (.lnkFtCmdWr who) s = execLnkFtCmdWr who s := rfl
@[simp] theorem exec_ptpTodRead (who : Master) (s : State) : exec (.ptpTodRead who) s = execPtpTodRead who s := rfl
@[simp] theorem exec_ptpSet (who : Master) (v : Word) (s : State) : exec (.ptpSet who v) s = execPtpSet who v s := rfl
@[simp] theorem exec_ptpAdj (who : Master) (v : Word) (s : State) : exec (.ptpAdj who v) s = execPtpAdj who v s := rfl
@[simp] theorem exec_ptpCtlCap (who : Master) (v : Word) (s : State) : exec (.ptpCtlCap who v) s = execPtpCtlCap who v s := rfl
@[simp] theorem exec_tmrNextWrite (who : Master) (t : Nat) (v : Word) (s : State) : exec (.tmrNextWrite who t v) s = execTmrNextWrite who t v s := rfl
@[simp] theorem exec_timerEvent (t : Nat) (s : State) : exec (.timerEvent t) s = execTimerEvent t s := rfl
@[simp] theorem exec_ppsInEdge (s : State) : exec (.ppsInEdge) s = execPpsInEdge s := rfl
@[simp] theorem exec_ppsOutRise (s : State) : exec (.ppsOutRise) s = execPpsOutRise s := rfl
@[simp] theorem exec_ppsOutFall (s : State) : exec (.ppsOutFall) s = execPpsOutFall s := rfl
@[simp] theorem exec_syncerrUpdate (s : State) : exec (.syncerrUpdate) s = execSyncerrUpdate s := rfl
@[simp] theorem exec_pipNowRead (who : Master) (s : State) : exec (.pipNowRead who) s = execPipNowRead who s := rfl
@[simp] theorem exec_hostBarRead (bar : Bar) (off : Nat) (cnt : Nat) (s : State) : exec (.hostBarRead bar off cnt) s = execHostBarRead bar off cnt s := rfl
@[simp] theorem exec_hostBarWrite (bar : Bar) (off : Nat) (ds : List HostDword) (s : State) : exec (.hostBarWrite bar off ds) s = execHostBarWrite bar off ds s := rfl
@[simp] theorem exec_hostKpost (who : Master) (v : Word) (s : State) : exec (.hostKpost who v) s = execHostKpost who v s := rfl
@[simp] theorem exec_mailboxPost (who : Master) (len : BitVec 12) (s : State) : exec (.mailboxPost who len) s = execMailboxPost who len s := rfl
@[simp] theorem exec_mailboxRelease (who : Master) (s : State) : exec (.mailboxRelease who) s = execMailboxRelease who s := rfl
@[simp] theorem exec_hostDmaTimeout (n : Nat) (s : State) : exec (.hostDmaTimeout n) s = execHostDmaTimeout n s := rfl
@[simp] theorem exec_functionLevelReset (s : State) : exec (.functionLevelReset) s = execFunctionLevelReset s := rfl
@[simp] theorem exec_pcieHotReset (s : State) : exec (.pcieHotReset) s = execPcieHotReset s := rfl
@[simp] theorem exec_pcieLinkDown (s : State) : exec (.pcieLinkDown) s = execPcieLinkDown s := rfl
@[simp] theorem exec_pcieLinkUp (width : BitVec 3) (speed : BitVec 3) (s : State) : exec (.pcieLinkUp width speed) s = execPcieLinkUp width speed s := rfl
@[simp] theorem exec_intLdgDataRead (who : Master) (s : State) : exec (.intLdgDataRead who) s = execIntLdgDataRead who s := rfl
@[simp] theorem exec_intLdgDataWrite (who : Master) (v : Word) (s : State) : exec (.intLdgDataWrite who v) s = execIntLdgDataWrite who v s := rfl
@[simp] theorem exec_intLdgCtlErase (who : Master) (s : State) : exec (.intLdgCtlErase who) s = execIntLdgCtlErase who s := rfl
@[simp] theorem exec_ledgerProgramDone (s : State) : exec (.ledgerProgramDone) s = execLedgerProgramDone s := rfl
@[simp] theorem exec_ledgerEraseDone (s : State) : exec (.ledgerEraseDone) s = execLedgerEraseDone s := rfl
@[simp] theorem exec_marginMeasurement (n : Nat) (q : BitVec 7) (m : BitVec 10) (s : State) : exec (.marginMeasurement n q m) s = execMarginMeasurement n q m s := rfl
@[simp] theorem exec_thermalThrottleStep (n : Nat) (temp : BitVec 12) (s : State) : exec (.thermalThrottleStep n temp) s = execThermalThrottleStep n temp s := rfl
@[simp] theorem exec_powerCapLower (r : PowerReading) (s : State) : exec (.powerCapLower r) s = execPowerCapLower r s := rfl
@[simp] theorem exec_powerCapRestore (r : PowerReading) (s : State) : exec (.powerCapRestore r) s = execPowerCapRestore r s := rfl
@[simp] theorem exec_inputCurrentClamp (i : BitVec 13) (s : State) : exec (.inputCurrentClamp i) s = execInputCurrentClamp i s := rfl
@[simp] theorem exec_vinOutOfRange (v : Nat) (s : State) : exec (.vinOutOfRange v) s = execVinOutOfRange v s := rfl
@[simp] theorem exec_vinWarning (v : Nat) (s : State) : exec (.vinWarning v) s = execVinWarning v s := rfl
@[simp] theorem exec_inputPowerArrival (v : Nat) (s : State) : exec (.inputPowerArrival v) s = execInputPowerArrival v s := rfl
@[simp] theorem exec_thermtrip (temp : BitVec 12) (s : State) : exec (.thermtrip temp) s = execThermtrip temp s := rfl
@[simp] theorem exec_rollRegion (who : Master) (tgt : BitVec 7) (s : State) : exec (.rollRegion who tgt) s = execRollRegion who tgt s := rfl
@[simp] theorem exec_rollCluster (who : Master) (tgt : BitVec 7) (s : State) : exec (.rollCluster who tgt) s = execRollCluster who tgt s := rfl
@[simp] theorem exec_rollIoDie (who : Master) (s : State) : exec (.rollIoDie who) s = execRollIoDie who s := rfl
@[simp] theorem exec_rollEnd (tgt : RollTarget) (bad : Option (BitVec 7)) (s : State) : exec (.rollEnd tgt bad) s = execRollEnd tgt bad s := rfl
@[simp] theorem exec_enterStandby (who : Master) (s : State) : exec (.enterStandby who) s = execEnterStandby who s := rfl
@[simp] theorem exec_standbyEntry (s : State) : exec (.standbyEntry) s = execStandbyEntry s := rfl
@[simp] theorem exec_returnToActive (who : Master) (s : State) : exec (.returnToActive who) s = execReturnToActive who s := rfl
@[simp] theorem exec_activeReached (s : State) : exec (.activeReached) s = execActiveReached s := rfl
@[simp] theorem exec_porstNAssert (s : State) : exec (.porstNAssert) s = execPorstNAssert s := rfl
@[simp] theorem exec_porstNRelease (sadr : BitVec 3) (tmode : BitVec 2) (s : State) : exec (.porstNRelease sadr tmode) s = execPorstNRelease sadr tmode s := rfl
@[simp] theorem exec_wrstNAssert (s : State) : exec (.wrstNAssert) s = execWrstNAssert s := rfl
@[simp] theorem exec_uartWakeByte (b : BitVec 8) (s : State) : exec (.uartWakeByte b) s = execUartWakeByte b s := rfl
@[simp] theorem exec_fusesSensed (s : State) : exec (.fusesSensed) s = execFusesSensed s := rfl
@[simp] theorem exec_hubPllLock (s : State) : exec (.hubPllLock) s = execHubPllLock s := rfl
@[simp] theorem exec_ioDieRollDone (pass : Bool) (s : State) : exec (.ioDieRollDone pass) s = execIoDieRollDone pass s := rfl
@[simp] theorem exec_contextStoreCleared (s : State) : exec (.contextStoreCleared) s = execContextStoreCleared s := rfl
@[simp] theorem exec_hbmFillDone (s : State) : exec (.hbmFillDone) s = execHbmFillDone s := rfl
@[simp] theorem exec_imageVerified (a b : FlashSlot) (s : State) : exec (.imageVerified a b) s = execImageVerified a b s := rfl
@[simp] theorem exec_lifeCycleProgramDone (s : State) : exec (.lifeCycleProgramDone) s = execLifeCycleProgramDone s := rfl
@[simp] theorem exec_ident (r : MonReq) (s : State) : exec (.ident r) s = execIdent r s := rfl
@[simp] theorem exec_status (r : MonReq) (s : State) : exec (.status r) s = execStatus r s := rfl
@[simp] theorem exec_authStart (r : MonReq) (role : BitVec 8) (qh : List (BitVec 8)) (s : State) : exec (.authStart r role qh) s = execAuthStart r role qh s := rfl
@[simp] theorem exec_authProve (r : MonReq) (ph sig : List (BitVec 8)) (s : State) : exec (.authProve r ph sig) s = execAuthProve r ph sig s := rfl
@[simp] theorem exec_authEnd (r : MonReq) (s : State) : exec (.authEnd r) s = execAuthEnd r s := rfl
@[simp] theorem exec_mread (r : MonReq) (a : Dbl) (cnt : BitVec 16) (s : State) : exec (.mread r a cnt) s = execMread r a cnt s := rfl
@[simp] theorem exec_mwrite (r : MonReq) (a : Dbl) (cnt : BitVec 16) (ws : List Word) (s : State) : exec (.mwrite r a cnt ws) s = execMwrite r a cnt ws s := rfl
@[simp] theorem exec_halt (r : MonReq) (k : BitVec 8) (s : State) : exec (.halt r k) s = execHalt r k s := rfl
@[simp] theorem exec_step (r : MonReq) (k : BitVec 8) (s : State) : exec (.step r k) s = execStep r k s := rfl
@[simp] theorem exec_resume (r : MonReq) (k : BitVec 8) (s : State) : exec (.resume r k) s = execResume r k s := rfl
@[simp] theorem exec_cread (r : MonReq) (k : BitVec 8) (sel : Word) (s : State) : exec (.cread r k sel) s = execCread r k sel s := rfl
@[simp] theorem exec_cwrite (r : MonReq) (k : BitVec 8) (sel : Word) (v : Dbl) (s : State) : exec (.cwrite r k sel v) s = execCwrite r k sel v s := rfl
@[simp] theorem exec_replan (r : MonReq) (s : State) : exec (.replan r) s = execReplan r s := rfl
@[simp] theorem exec_resetWarm (r : MonReq) (s : State) : exec (.resetWarm r) s = execResetWarm r s := rfl
@[simp] theorem exec_resetCold (r : MonReq) (s : State) : exec (.resetCold r) s = execResetCold r s := rfl
@[simp] theorem exec_powerStandby (r : MonReq) (s : State) : exec (.powerStandby r) s = execPowerStandby r s := rfl
@[simp] theorem exec_powerActive (r : MonReq) (s : State) : exec (.powerActive r) s = execPowerActive r s := rfl
@[simp] theorem exec_powerOff (r : MonReq) (s : State) : exec (.powerOff r) s = execPowerOff r s := rfl
@[simp] theorem exec_enroll (r : MonReq) (key : List (BitVec 8)) (s : State) : exec (.enroll r key) s = execEnroll r key s := rfl
@[simp] theorem exec_lcset (r : MonReq) (target : BitVec 8) (s : State) : exec (.lcset r target) s = execLcset r target s := rfl
@[simp] theorem exec_monitorFrameDiscard (ch : Channel) (bytes : List (BitVec 8)) (s : State) : exec (.monitorFrameDiscard ch bytes) s = execMonitorFrameDiscard ch bytes s := rfl
@[simp] theorem exec_sessionTimeout (ch : Channel) (s : State) : exec (.sessionTimeout ch) s = execSessionTimeout ch s := rfl
@[simp] theorem exec_authLockoutEnd (ch : Channel) (s : State) : exec (.authLockoutEnd ch) s = execAuthLockoutEnd ch s := rfl
@[simp] theorem exec_clRcHalt (who : Master) (k : Nat) (s : State) : exec (.clRcHalt who k) s = execClRcHalt who k s := rfl
@[simp] theorem exec_clRcStep (who : Master) (k : Nat) (s : State) : exec (.clRcStep who k) s = execClRcStep who k s := rfl
@[simp] theorem exec_clRcResume (who : Master) (k : Nat) (s : State) : exec (.clRcResume who k) s = execClRcResume who k s := rfl
@[simp] theorem exec_coreHalted (k : Nat) (s : State) : exec (.coreHalted k) s = execCoreHalted k s := rfl
@[simp] theorem exec_clRcData (who : Master) (k : Nat) (w : Option Dbl) (s : State) : exec (.clRcData who k w) s = execClRcData who k w s := rfl
@[simp] theorem exec_dbgDataRead (who : Master) (s : State) : exec (.dbgDataRead who) s = execDbgDataRead who s := rfl
@[simp] theorem exec_dbgDataWrite (who : Master) (v : Word) (s : State) : exec (.dbgDataWrite who v) s = execDbgDataWrite who v s := rfl
@[simp] theorem exec_debugAccessDone (s : State) : exec (.debugAccessDone) s = execDebugAccessDone s := rfl
@[simp] theorem exec_clearFaults (s : State) : exec (.clearFaults) s = execClearFaults s := rfl
@[simp] theorem exec_capability (s : State) : exec (.capability) s = execCapability s := rfl
@[simp] theorem exec_statusWord (s : State) : exec (.statusWord) s = execStatusWord s := rfl
@[simp] theorem exec_statusInput (s : State) : exec (.statusInput) s = execStatusInput s := rfl
@[simp] theorem exec_statusTemperature (s : State) : exec (.statusTemperature) s = execStatusTemperature s := rfl
@[simp] theorem exec_readVin (s : State) : exec (.readVin) s = execReadVin s := rfl
@[simp] theorem exec_readIin (s : State) : exec (.readIin) s = execReadIin s := rfl
@[simp] theorem exec_readTemperature1 (s : State) : exec (.readTemperature1) s = execReadTemperature1 s := rfl
@[simp] theorem exec_readTemperature2 (temp : BitVec 12) (s : State) : exec (.readTemperature2 temp) s = execReadTemperature2 temp s := rfl
@[simp] theorem exec_readPin (s : State) : exec (.readPin) s = execReadPin s := rfl
@[simp] theorem exec_pmbusRevision (s : State) : exec (.pmbusRevision) s = execPmbusRevision s := rfl
@[simp] theorem exec_mfrId (s : State) : exec (.mfrId) s = execMfrId s := rfl
@[simp] theorem exec_mfrModel (s : State) : exec (.mfrModel) s = execMfrModel s := rfl
@[simp] theorem exec_alertResponseAddress (s : State) : exec (.alertResponseAddress) s = execAlertResponseAddress s := rfl
@[simp] theorem exec_pmbusUnsupportedCommand (code : BitVec 8) (s : State) : exec (.pmbusUnsupportedCommand code) s = execPmbusUnsupportedCommand code s := rfl
@[simp] theorem exec_registerWrite (who : Master) (a : Dbl) (v : Word) (s : State) : exec (.registerWrite who a v) s = execRegisterWrite who a v s := rfl
@[simp] theorem exec_pcsBlockLockGain (p sub : Nat) (s : State) : exec (.pcsBlockLockGain p sub) s = execPcsBlockLockGain p sub s := rfl
@[simp] theorem exec_wrstNRelease (s : State) : exec (.wrstNRelease) s = execWrstNRelease s := rfl
@[simp] theorem exec_internalResetHoldEnd (s : State) : exec (.internalResetHoldEnd) s = execInternalResetHoldEnd s := rfl
@[simp] theorem exec_vinInRange5Ms (s : State) : exec (.vinInRange5Ms) s = execVinInRange5Ms s := rfl
@[simp] theorem exec_currentClampEnd (i : BitVec 13) (s : State) : exec (.currentClampEnd i) s = execCurrentClampEnd i s := rfl
@[simp] theorem exec_pendingMchkTaken (k : Nat) (s : State) : exec (.pendingMchkTaken k) s = execPendingMchkTaken k s := rfl
@[simp] theorem exec_pcieConfigurationWrite (c : CfgWrite) (d3 : Bool) (s : State) : exec (.pcieConfigurationWrite c d3) s = execPcieConfigurationWrite c d3 s := rfl
@[simp] theorem exec_msiXTableWrite (vec : BitVec 6) (dw : BitVec 2) (v : BitVec 32) (s : State) : exec (.msiXTableWrite vec dw v) s = execMsiXTableWrite vec dw v s := rfl
@[simp] theorem exec_storedBitError (e : ErrSite) (s : State) : exec (.storedBitError e) s = execStoredBitError e s := rfl
@[simp] theorem exec_illegalInstruction (k : Nat) (s : State) : exec (.illegalInstruction k) s = execIllegalInstruction k s := rfl
@[simp] theorem exec_fetchFault (k : Nat) (s : State) : exec (.fetchFault k) s = execFetchFault k s := rfl

end Sys2Proof.Machine
end

