-- ==== Sys2Proof/Laws/Ecc.lean ====
section
/-! SUPPORT. The sums of the memory code: of no bits, of two words together, and the word that an unlisted cell holds. -/

namespace Sys2Proof.Machine

theorem xorRun_zero {w : Nat} (step : BitVec w → BitVec w) (p : BitVec w) (n : Nat) : xorRun step p 0 n = 0 := by
  induction n generalizing p with
  | zero => rfl
  | succ n ih => simp [xorRun, ih]

theorem xor_mod_two (x y : Nat) : (x ^^^ y) % 2 = (x % 2 + y % 2) % 2 := by
  have h : (x ^^^ y).testBit 0 = (x.testBit 0 ^^ y.testBit 0) := Nat.testBit_xor ..
  simp only [Nat.testBit_zero] at h
  rcases Nat.mod_two_eq_zero_or_one x with hx | hx <;> rcases Nat.mod_two_eq_zero_or_one y with hy | hy <;>
    rcases Nat.mod_two_eq_zero_or_one (x ^^^ y) with hz | hz <;> simp [hx, hy, hz] at h ⊢

/-- The sum over the bits of two words is the sum of the two sums. -/
theorem xorRun_xor {w : Nat} (step : BitVec w → BitVec w) (p : BitVec w) (x y n : Nat) :
    xorRun step p (x ^^^ y) n = xorRun step p x n ^^^ xorRun step p y n := by
  induction n generalizing p x y with
  | zero => simp [xorRun]
  | succ n ih =>
    have h : (x ^^^ y) / 2 = (x / 2) ^^^ (y / 2) := Nat.xor_div_two
    have b := xor_mod_two x y
    simp only [xorRun, h, ih]
    rcases Nat.mod_two_eq_zero_or_one x with hx | hx <;> rcases Nat.mod_two_eq_zero_or_one y with hy | hy <;>
      simp only [b, hx, hy] <;> simp only [← BitVec.xor_assoc] <;>
      first
      | (simp [BitVec.xor_comm, BitVec.xor_assoc]; done)
      | (simp [BitVec.xor_comm, BitVec.xor_assoc]; rw [← BitVec.xor_assoc p, BitVec.xor_self, BitVec.zero_xor])

@[simp] theorem syndrome_s0 (x : BitVec 31) (row : Nat) : (syndrome x row).1 = oddBits x.toNat 31 := rfl

/-- The word of an unlisted cell. -/
theorem encode_zero (row : Nat) : encode 0 row = (BitVec.ofBool (oddBits (foldRow row).toNat 10) ++ (0 : Word)) ++ foldRow row := by
  have k : checkBits 0 = 0 := by decide
  have o : oddBits (0 : Word).toNat 20 = false := by decide
  have z : (0 : BitVec 10) ^^^ foldRow row = foldRow row := BitVec.zero_xor
  simp only [encode, k, o, z, Bool.false_xor]

/-- Bits above a word's own add nothing. -/
theorem xorRun_of_lt {w : Nat} (step : BitVec w → BitVec w) (p : BitVec w) (x m d : Nat) (h : x < 2 ^ m) :
    xorRun step p x (m + d) = xorRun step p x m := by
  induction m generalizing p x with
  | zero =>
    rw [show x = 0 by omega, xorRun_zero, xorRun_zero]
  | succ m ih =>
    rw [show m + 1 + d = (m + d) + 1 by omega]
    simp only [xorRun]
    rw [ih]
    omega

theorem oddBits_xor (x y n : Nat) : oddBits (x ^^^ y) n = (oddBits x n ^^ oddBits y n) := by
  have h : ∀ a b : BitVec 1, ((a ^^^ b) == 1) = ((a == 1) ^^ (b == 1)) := by decide
  simp only [oddBits, xorRun_xor, h]

theorem or_eq_xor_of_lt (m n : Nat) (h : n < 2 ^ m) : (2 ^ m ||| n) = (2 ^ m ^^^ n) := by
  apply Nat.eq_of_testBit_eq
  intro i
  rw [Nat.testBit_or, Nat.testBit_xor, Nat.testBit_two_pow]
  by_cases e : m = i
  · subst e
    rw [Nat.testBit_lt_two_pow h]
    simp
  · simp [e]

/-- The stored word of an unlisted cell, as a number. -/
theorem encode_zero_toNat (row : Nat) :
    (encode 0 row).toNat = (if oddBits (foldRow row).toNat 10 then 2 ^ 30 else 0) ^^^ (foldRow row).toNat := by
  have l := (foldRow row).isLt
  rw [encode_zero, BitVec.toNat_append]
  cases oddBits (foldRow row).toNat 10
  · simp
  · have z : (BitVec.ofBool true ++ (0 : Word)).toNat = 2 ^ 20 := by decide
    rw [z]
    exact or_eq_xor_of_lt 30 _ (by omega)

/-- An unlisted cell reads 0 without a correction. -/
theorem decode_zero (row : Nat) : decode (0 ^^^ encode 0 row) row = .good 0 0 := by
  have e : (0 : BitVec 31) ^^^ encode 0 row = encode 0 row := BitVec.zero_xor
  have l := (foldRow row).isLt
  have x := encode_zero_toNat row
  have u : (unfold31 (encode 0 row) row).toNat % 2 ^ 30 = 0 := by
    simp only [unfold31, BitVec.toNat_xor, x, BitVec.truncate_eq_setWidth, BitVec.toNat_setWidth]
    rw [Nat.mod_eq_of_lt (show (foldRow row).toNat < 2 ^ 31 by omega), Nat.xor_assoc, Nat.xor_self]
    cases oddBits (foldRow row).toNat 10 <;> decide
  have o : oddBits (encode 0 row).toNat 31 = false := by
    rw [x, oddBits_xor]
    have f : oddBits (foldRow row).toNat 31 = oddBits (foldRow row).toNat 10 := by
      simp only [oddBits, xorRun_of_lt _ _ _ 10 21 (foldRow row).isLt]
    rw [f]
    cases oddBits (foldRow row).toNat 10 <;> decide
  have d : cellData (encode 0 row) = 0 := by
    apply BitVec.eq_of_toNat_eq
    simp only [cellData, BitVec.extractLsb'_toNat, x, Nat.shiftRight_xor_distrib]
    rw [show (foldRow row).toNat >>> 10 = 0 by rw [Nat.shiftRight_eq_div_pow]; omega]
    cases oddBits (foldRow row).toNat 10 <;> decide
  rw [e]
  simp only [decode, syndrome, u, o, xorRun_zero, decodeSyn, d, if_true]
  rfl

end Sys2Proof.Machine
end

