-- ==== Sys2Proof/Laws/Held.lean ====
section
/-! SUPPORT. What no operation but a few resets and life-cycle commands changes: the queue of commands, the canonical form of
the tables, the life-cycle fuses, and which parts the device has. Held v s says that s has these as v gives them. -/

namespace Sys2Proof.Machine

open Sys2Proof.Safety

/-- The values that stand: whether the tables are canonical, the queue, and the fuses. -/
structure Fixed where
  canon : Prop
  pending : List Instr
  lc : BitVec 3
  fuse : FuseOp
  disabled : List Nat
  gx : Bool

/-- The values that a state has. -/
def State.fixed (s : State) : Fixed := ⟨Canonical s, s.pending, s.dev.lc, s.dev.fuseOp, s.dev.disabled, s.dev.gx4816⟩

/-- A device has the life-cycle fuses and the parts that v gives. -/
def Dev.Held (v : Fixed) (d : Dev) : Prop := d.lc = v.lc ∧ d.fuseOp = v.fuse ∧ d.disabled = v.disabled ∧ d.gx4816 = v.gx

/-- A state has what v gives. -/
def Held (v : Fixed) (s : State) : Prop := (v.canon → Canonical s) ∧ s.pending = v.pending ∧ s.dev.Held v

theorem held_self (s : State) : Held s.fixed s := ⟨fun h => h, rfl, rfl, rfl, rfl, rfl⟩

variable {v : Fixed} {s : State}

theorem Held.dev_held (h : Held v s) : s.dev.Held v := h.2.2

/-- A record update that leaves the tables' form, the queue and the fuses. -/
theorem Held.lit {draws cores regions mem hbm walkers walkWb sched dmas ports lnk ptp timers pip host int rolls pwr dev dbg monU monM
    fabrics keeper outs} (h : Held v s) (hm : SMap.wf 0 s.mem = true → SMap.wf 0 mem = true) (hh : SMap.wf 0 s.hbm = true → SMap.wf 0 hbm = true)
    (hc : SMap.wf {} s.cores = true → SMap.wf {} cores = true) (hr : SMap.wf {} s.regions = true → SMap.wf {} regions = true)
    (hd : SMap.wf {} s.dmas = true → SMap.wf {} dmas = true) (hp : SMap.wf {} s.ports = true → SMap.wf {} ports = true)
    (ht : SMap.wf {} s.timers = true → SMap.wf {} timers = true) (hv : s.dev.Held v → dev.Held v) :
    Held v ⟨s.pending, draws, cores, regions, mem, hbm, walkers, walkWb, sched, dmas, ports, lnk, ptp, timers, pip, host, int, rolls,
      pwr, dev, dbg, monU, monM, fabrics, keeper, outs⟩ :=
  ⟨fun c => ⟨hm (h.1 c).mem, hh (h.1 c).hbm, hc (h.1 c).cores, hr (h.1 c).regions, hd (h.1 c).dmas, hp (h.1 c).ports, ht (h.1 c).timers⟩,
    h.2.1, hv h.2.2⟩

/-- A record update of other fields. -/
theorem Held.upd {draws walkers walkWb sched lnk ptp pip host int rolls pwr dbg monU monM fabrics keeper outs} (h : Held v s) :
    Held v ⟨s.pending, draws, s.cores, s.regions, s.mem, s.hbm, walkers, walkWb, sched, s.dmas, s.ports, lnk, ptp, s.timers, pip, host,
      int, rolls, pwr, s.dev, dbg, monU, monM, fabrics, keeper, outs⟩ :=
  h.lit id id id id id id id id

/-- A record update of the device that leaves its fuses. -/
theorem Held.updDev {d : Dev} (h : Held v s) (hd : d.lc = s.dev.lc ∧ d.fuseOp = s.dev.fuseOp ∧ d.disabled = s.dev.disabled
    ∧ d.gx4816 = s.dev.gx4816) : Held v { s with dev := d } :=
  h.lit id id id id id id id (fun e => ⟨hd.1.trans e.1, hd.2.1.trans e.2.1, hd.2.2.1.trans e.2.2.1, hd.2.2.2.trans e.2.2.2⟩)

theorem Held.setCore (k : Nat) (c : Core) (h : Held v s) : Held v (s.setCore k c) :=
  h.lit id id (SMap.wf_set _ _ _ _) id id id id id
theorem Held.setRgn (k : Nat) (r : Region) (h : Held v s) : Held v (s.setRgn k r) :=
  h.lit id id id (SMap.wf_set _ _ _ _) id id id id
theorem Held.setChan (k : Nat) (d : Dma) (h : Held v s) : Held v (s.setChan k d) :=
  h.lit id id id id (SMap.wf_set _ _ _ _) id id id
theorem Held.setPort (k : Nat) (x : Port) (h : Held v s) : Held v (s.setPort k x) :=
  h.lit id id id id id (SMap.wf_set _ _ _ _) id id
theorem Held.setTmr (k : Nat) (x : Timer) (h : Held v s) : Held v (s.setTmr k x) :=
  h.lit id id id id id id (SMap.wf_set _ _ _ _) id
theorem Held.onRgn (n : Nat) (f : Region → Region) (h : Held v s) : Held v (s.onRgn n f) := h.setRgn n _
theorem Held.onCore (n : Nat) (f : Core → Core) (h : Held v s) : Held v (s.onCore n f) := h.setCore n _
theorem Held.draw (w : Nat) (h : Held v s) : Held v (s.draw w).2 := h.upd
theorem Held.drawBool (h : Held v s) : Held v s.drawBool.2 := h.upd
theorem Held.keeperIrq (i : KeeperIrq) (h : Held v s) : Held v (s.keeperIrq i) := h.upd
theorem Held.countCe (u : Nat) (h : Held v s) : Held v (s.countCe u) := h.upd
theorem Held.countUe (u : Nat) (h : Held v s) : Held v (s.countUe u) := h.upd
theorem Held.setFabric (d : Nat) (f : Fabric) (h : Held v s) : Held v (s.setFabric d f) := h.upd

/-- A fold of operations that each keep what v gives. -/
theorem Held.foldl {α : Type} (f : State → α → State) (hf : ∀ s x, Held v s → Held v (f s x)) (l : List α) (h : Held v s) :
    Held v (l.foldl f s) := by
  induction l generalizing s with
  | nil => exact h
  | cons x l ih => exact ih (hf s x h)

/-! ## The states in results -/

theorem held_fst {α : Type} {p : State × α} {t : State} {x : α} (e : p = (t, x)) (h : Held v p.1) : Held v t := by subst e; exact h
theorem held_snd {α : Type} {p : α × State} {t : State} {x : α} (e : p = (x, t)) (h : Held v p.2) : Held v t := by subst e; exact h

/-- The state of an outcome. -/
inductive OutHeld (v : Fixed) : Out → Prop
  | next {t : State} (h : Held v t) : OutHeld v (.next t)
  | fault (f : Fault) : OutHeld v (.fault f)
  | refused (r : Refusal) : OutHeld v (.refused r)

/-- The state of an option. -/
def OptHeld (v : Fixed) (o : Option State) : Prop := match o with | some t => Held v t | none => True

/-- The state beside a value in an option. -/
def OptFst {α : Type} (v : Fixed) (o : Option (State × α)) : Prop := match o with | some t => Held v t.1 | none => True

/-- The state of a gate. -/
def GateHeld (v : Fixed) (g : Gate) : Prop := match g with | .go t => Held v t | .wait t => Held v t | .refuse t => Held v t

/-- The state of a bus access. -/
def BusHeld {α : Type} (v : Fixed) (b : Bus α) : Prop := match b with | .hold t => Held v t | .bad t _ => Held v t | .done t _ => Held v t

theorem out_ok {t : State} (h : Held v t) : OutHeld v (ok t) := .next h
theorem out_next {t : State} (h : Held v t) : OutHeld v (.next t) := .next h
theorem out_noUnit : OutHeld v noUnit := .fault _
theorem out_fault (f : Fault) : OutHeld v (.fault f) := .fault f
theorem out_refused (r : Refusal) : OutHeld v (.refused r) := .refused r
theorem out_ite {c : Prop} [Decidable c] {a b : Out} (ha : OutHeld v a) (hb : OutHeld v b) : OutHeld v (if c then a else b) := by
  split
  · exact ha
  · exact hb
theorem out_of {o : Out} {t : State} (e : o = .next t) (h : OutHeld v o) : Held v t := by subst e; cases h; assumption
theorem opt_some {t : State} (h : Held v t) : OptHeld v (some t) := h
theorem opt_none : OptHeld v none := trivial
theorem opt_of {o : Option State} {t : State} (e : o = some t) (h : OptHeld v o) : Held v t := by subst e; exact h
theorem optFst_some {α : Type} {t : State} {x : α} (h : Held v t) : OptFst v (some (t, x)) := h
theorem optFst_some' {α : Type} {p : State × α} (h : Held v p.1) : OptFst v (some p) := h
theorem optFst_none {α : Type} : OptFst v (none : Option (State × α)) := trivial
theorem optFst_map {α : Type} (o : Option α) (h : Held v s) : OptFst v (o.map (fun x => (s, x))) := by cases o <;> simp [OptFst, h]
theorem optFst_of {α : Type} {o : Option (State × α)} {t : State} {x : α} (e : o = some (t, x)) (h : OptFst v o) : Held v t := by
  subst e; exact h
theorem gate_go {t : State} (h : Held v t) : GateHeld v (.go t) := h
theorem gate_wait {t : State} (h : Held v t) : GateHeld v (.wait t) := h
theorem gate_refuse {t : State} (h : Held v t) : GateHeld v (.refuse t) := h
theorem go_of {g : Gate} {t : State} (e : g = .go t) (h : GateHeld v g) : Held v t := by subst e; exact h
theorem wait_of {g : Gate} {t : State} (e : g = .wait t) (h : GateHeld v g) : Held v t := by subst e; exact h
theorem refuse_of {g : Gate} {t : State} (e : g = .refuse t) (h : GateHeld v g) : Held v t := by subst e; exact h
theorem bus_hold {α : Type} {t : State} (h : Held v t) : BusHeld v (.hold t : Bus α) := h
theorem bus_bad {α : Type} {t : State} (x : BusErr) (h : Held v t) : BusHeld v (.bad t x : Bus α) := h
theorem bus_done {α : Type} {t : State} (x : α) (h : Held v t) : BusHeld v (.done t x) := h
theorem hold_of {α : Type} {b : Bus α} {t : State} (e : b = .hold t) (h : BusHeld v b) : Held v t := by subst e; exact h
theorem bad_of {α : Type} {b : Bus α} {t : State} {x : BusErr} (e : b = .bad t x) (h : BusHeld v b) : Held v t := by subst e; exact h
theorem done_of {α : Type} {b : Bus α} {t : State} {x : α} (e : b = .done t x) (h : BusHeld v b) : Held v t := by subst e; exact h

theorem opt_findSome {α : Type} {f : α → Option State} (hf : ∀ x, OptHeld v (f x)) (l : List α) : OptHeld v (l.findSome? f) := by
  induction l with
  | nil => trivial
  | cons x l ih =>
    have e := hf x
    cases hx : f x <;> simp only [List.findSome?_cons, hx] at e ⊢ <;> assumption
theorem optFst_findSome {α β : Type} {f : α → Option (State × β)} (hf : ∀ x, OptFst v (f x)) (l : List α) :
    OptFst v (l.findSome? f) := by
  induction l with
  | nil => trivial
  | cons x l ih =>
    have e := hf x
    cases hx : f x <;> simp only [List.findSome?_cons, hx] at e ⊢ <;> assumption

/-- The state of what a drain leaves. -/
def DrainHeld (v : Fixed) (r : Drain) : Prop :=
  match r with
  | .hold t => Held v t
  | .done t _ => Held v t

theorem drain_hold {t : State} (h : Held v t) : DrainHeld v (.hold t : Drain) := h
theorem drain_hold_of {r : Drain} {t : State} (e : r = .hold t) (h : DrainHeld v r) : Held v t := by subst e; exact h
theorem drain_done {t : State} {x1 : Option LoadFail} (h : Held v t) : DrainHeld v (.done t x1 : Drain) := h
theorem drain_done_of {r : Drain} {t : State} {x1 : Option LoadFail} (e : r = .done t x1) (h : DrainHeld v r) : Held v t := by subst e; exact h

/-- The state of what performing a store leaves. -/
def PerfHeld (v : Fixed) (r : Perf) : Prop :=
  match r with
  | .hold t => Held v t
  | .done t => Held v t

theorem perf_hold {t : State} (h : Held v t) : PerfHeld v (.hold t : Perf) := h
theorem perf_hold_of {r : Perf} {t : State} (e : r = .hold t) (h : PerfHeld v r) : Held v t := by subst e; exact h
theorem perf_done {t : State} (h : Held v t) : PerfHeld v (.done t : Perf) := h
theorem perf_done_of {r : Perf} {t : State} (e : r = .done t) (h : PerfHeld v r) : Held v t := by subst e; exact h

/-- The state of what a push leaves. -/
def PushHeld (v : Fixed) (r : Push) : Prop :=
  match r with
  | .hold t => Held v t
  | .fail _ => True
  | .done t => Held v t

theorem push_hold {t : State} (h : Held v t) : PushHeld v (.hold t : Push) := h
theorem push_hold_of {r : Push} {t : State} (e : r = .hold t) (h : PushHeld v r) : Held v t := by subst e; exact h
theorem push_fail {x0 : Dbl} : PushHeld v (.fail x0 : Push) := trivial
theorem push_done {t : State} (h : Held v t) : PushHeld v (.done t : Push) := h
theorem push_done_of {r : Push} {t : State} (e : r = .done t) (h : PushHeld v r) : Held v t := by subst e; exact h

/-- The state of what a read leaves. -/
def RdHeld (v : Fixed) (r : Rd) : Prop :=
  match r with
  | .hold t => Held v t
  | .got t _ => Held v t

theorem rd_hold {t : State} (h : Held v t) : RdHeld v (.hold t : Rd) := h
theorem rd_hold_of {r : Rd} {t : State} (e : r = .hold t) (h : RdHeld v r) : Held v t := by subst e; exact h
theorem rd_got {t : State} {x1 : LdData} (h : Held v t) : RdHeld v (.got t x1 : Rd) := h
theorem rd_got_of {r : Rd} {t : State} {x1 : LdData} (e : r = .got t x1) (h : RdHeld v r) : Held v t := by subst e; exact h

/-- The state of what reading an element leaves. -/
def ElReadHeld (v : Fixed) (r : ElRead) : Prop :=
  match r with
  | .hold t => Held v t
  | .bad t _ _ => Held v t
  | .got t _ => Held v t

theorem elread_hold {t : State} (h : Held v t) : ElReadHeld v (.hold t : ElRead) := h
theorem elread_hold_of {r : ElRead} {t : State} (e : r = .hold t) (h : ElReadHeld v r) : Held v t := by subst e; exact h
theorem elread_bad {t : State} {x1 : Nat} {x2 : Int} (h : Held v t) : ElReadHeld v (.bad t x1 x2 : ElRead) := h
theorem elread_bad_of {r : ElRead} {t : State} {x1 : Nat} {x2 : Int} (e : r = .bad t x1 x2) (h : ElReadHeld v r) : Held v t := by subst e; exact h
theorem elread_got {t : State} {x1 : List Word} (h : Held v t) : ElReadHeld v (.got t x1 : ElRead) := h
theorem elread_got_of {r : ElRead} {t : State} {x1 : List Word} (e : r = .got t x1) (h : ElReadHeld v r) : Held v t := by subst e; exact h

/-- The state of what reading a frame leaves. -/
def FrameHeld (v : Fixed) (r : FrameRd) : Prop :=
  match r with
  | .hold t => Held v t
  | .fail t _ => Held v t
  | .got t _ _ => Held v t

theorem frame_hold {t : State} (h : Held v t) : FrameHeld v (.hold t : FrameRd) := h
theorem frame_hold_of {r : FrameRd} {t : State} (e : r = .hold t) (h : FrameHeld v r) : Held v t := by subst e; exact h
theorem frame_fail {t : State} {x1 : Dbl} (h : Held v t) : FrameHeld v (.fail t x1 : FrameRd) := h
theorem frame_fail_of {r : FrameRd} {t : State} {x1 : Dbl} (e : r = .fail t x1) (h : FrameHeld v r) : Held v t := by subst e; exact h
theorem frame_got {t : State} {x1 : Dbl} {x2 : List Word} (h : Held v t) : FrameHeld v (.got t x1 x2 : FrameRd) := h
theorem frame_got_of {r : FrameRd} {t : State} {x1 : Dbl} {x2 : List Word} (e : r = .got t x1 x2) (h : FrameHeld v r) : Held v t := by subst e; exact h

/-- The state of what an access of the debug master leaves. -/
def DbgHeld (v : Fixed) (r : DbgRes) : Prop :=
  match r with
  | .hold t => Held v t
  | .bad t _ => Held v t
  | .done t _ => Held v t

theorem dbg_hold {t : State} (h : Held v t) : DbgHeld v (.hold t : DbgRes) := h
theorem dbg_hold_of {r : DbgRes} {t : State} (e : r = .hold t) (h : DbgHeld v r) : Held v t := by subst e; exact h
theorem dbg_bad {t : State} {x1 : BitVec 4} (h : Held v t) : DbgHeld v (.bad t x1 : DbgRes) := h
theorem dbg_bad_of {r : DbgRes} {t : State} {x1 : BitVec 4} (e : r = .bad t x1) (h : DbgHeld v r) : Held v t := by subst e; exact h
theorem dbg_done {t : State} {x1 : Word} (h : Held v t) : DbgHeld v (.done t x1 : DbgRes) := h
theorem dbg_done_of {r : DbgRes} {t : State} {x1 : Word} (e : r = .done t x1) (h : DbgHeld v r) : Held v t := by subst e; exact h

/-- The state of what re-issuing groups leaves. -/
def ReissueHeld (v : Fixed) (r : Reissue) : Prop :=
  match r with
  | .hold t => Held v t
  | .done t => Held v t

theorem reissue_hold {t : State} (h : Held v t) : ReissueHeld v (.hold t : Reissue) := h
theorem reissue_hold_of {r : Reissue} {t : State} (e : r = .hold t) (h : ReissueHeld v r) : Held v t := by subst e; exact h
theorem reissue_done {t : State} (h : Held v t) : ReissueHeld v (.done t : Reissue) := h
theorem reissue_done_of {r : Reissue} {t : State} (e : r = .done t) (h : ReissueHeld v r) : Held v t := by subst e; exact h

/-- The state of what a fetch leaves. -/
def FetchHeld (v : Fixed) (r : FetchB) : Prop :=
  match r with
  | .hold t => Held v t
  | .ok t _ => Held v t
  | .bad t _ _ _ _ => Held v t

theorem fetch_hold {t : State} (h : Held v t) : FetchHeld v (.hold t : FetchB) := h
theorem fetch_hold_of {r : FetchB} {t : State} (e : r = .hold t) (h : FetchHeld v r) : Held v t := by subst e; exact h
theorem fetch_ok {t : State} {x1 : List Word} (h : Held v t) : FetchHeld v (.ok t x1 : FetchB) := h
theorem fetch_ok_of {r : FetchB} {t : State} {x1 : List Word} (e : r = .ok t x1) (h : FetchHeld v r) : Held v t := by subst e; exact h
theorem fetch_bad {t : State} {x1 : Nat} {x2 : Nat} {x3 : Dbl} {x4 : Nat} (h : Held v t) : FetchHeld v (.bad t x1 x2 x3 x4 : FetchB) := h
theorem fetch_bad_of {r : FetchB} {t : State} {x1 : Nat} {x2 : Nat} {x3 : Dbl} {x4 : Nat} (e : r = .bad t x1 x2 x3 x4) (h : FetchHeld v r) : Held v t := by subst e; exact h

/-- The state of what fetching a word leaves. -/
def FetchWHeld (v : Fixed) (r : FetchW) : Prop :=
  match r with
  | .hold t => Held v t
  | .bad t _ _ => Held v t
  | .ok t _ => Held v t

theorem fetchw_hold {t : State} (h : Held v t) : FetchWHeld v (.hold t) := h
theorem fetchw_hold_of {r : FetchW} {t : State} (e : r = .hold t) (h : FetchWHeld v r) : Held v t := by subst e; exact h
theorem fetchw_bad {t : State} {a b : Nat} (h : Held v t) : FetchWHeld v (.bad t a b) := h
theorem fetchw_bad_of {r : FetchW} {t : State} {a b : Nat} (e : r = .bad t a b) (h : FetchWHeld v r) : Held v t := by subst e; exact h
theorem fetchw_ok {t : State} {w : Word} (h : Held v t) : FetchWHeld v (.ok t w) := h
theorem fetchw_ok_of {r : FetchW} {t : State} {w : Word} (e : r = .ok t w) (h : FetchWHeld v r) : Held v t := by subst e; exact h

end Sys2Proof.Machine
end

