-- ==== Sys2Proof/Laws/HeldBase.lean ====
section
/-! SUPPORT. What the operations of Machine/Base.lean leave as it is. -/

namespace Sys2Proof.Machine

variable {v : Fixed} {s : State}

theorem Held.logEvent (kind : Nat) (mem : Nat) (num : Nat) (who : LogWho) (a : Nat) (syn : Word) (sq : Nat) (h : Held v s) : Held v (State.logEvent s kind mem num who a syn sq) := by
  unfold State.logEvent
  repeat' first
    | with_reducible assumption
    | with_reducible apply Held.keeperIrq
    | dsimp only
    | split
    | with_reducible apply Held.upd

end Sys2Proof.Machine
end

