-- ==== Sys2Proof/Laws/HeldMem.lean ====
section
/-! SUPPORT. What the operations of Machine/Mem.lean leave as it is. -/

namespace Sys2Proof.Machine

variable {v : Fixed} {s : State}

theorem Held.logAt (kind : Nat) (who : LogWho) (a : Nat) (l : Loc) (syn : Word) (h : Held v s) : Held v (State.logAt s kind who a l syn) := by
  unfold State.logAt
  repeat' first | with_reducible assumption | with_reducible apply Held.logEvent

theorem Held.putStored (a : Nat) (row : Nat) (x : BitVec 31) (h : Held v s) : Held v (State.putStored s a row x) := by
  unfold State.putStored
  repeat' first
    | with_reducible assumption
    | with_reducible exact id
    | with_reducible exact SMap.wf_set _ _ _ _
    | with_reducible apply Held.lit

theorem Held.readSram (who : LogWho) (a : Nat) (l : Loc) (h : Held v s) : Held v (State.readSram s who a l).1 := by
  unfold State.readSram
  repeat' first
    | with_reducible assumption
    | with_reducible apply Held.logAt
    | with_reducible apply Held.countUe
    | with_reducible apply Held.countCe
    | dsimp only
    | split

theorem Held.clearResv (a : Nat) (h : Held v s) : Held v (State.clearResv s a) := by
  unfold State.clearResv
  repeat' first
    | with_reducible assumption
    | with_reducible exact id
    | with_reducible exact SMap.wf_map _ _ _
    | with_reducible apply Held.lit

theorem Held.writeBoard (n : Nat) (off : Nat) (v0 : Word) (slot015 : Bool) (h : Held v s) : Held v (State.writeBoard s n off v0 slot015) := by
  unfold State.writeBoard
  repeat' first
    | with_reducible assumption
    | with_reducible apply Held.clearResv
    | with_reducible apply Held.putStored
    | with_reducible apply Held.setRgn
    | dsimp only
    | split
    | with_reducible apply Held.upd

theorem Held.putCell (a : Nat) (x : BitVec 31) (h : Held v s) : Held v (State.putCell s a x) := by
  unfold State.putCell
  repeat' first | with_reducible assumption | with_reducible apply Held.putStored | with_reducible apply Held.onRgn | split

theorem Held.writeStore (a : Nat) (l : Loc) (v0 : Word) (h : Held v s) : Held v (State.writeStore s a l v0) := by
  unfold State.writeStore
  repeat' first | with_reducible assumption | with_reducible apply Held.putStored | with_reducible apply Held.upd

theorem Held.scramble (z0 : List Nat) (h : Held v s) : Held v (State.scramble s z0) := by
  induction z0 generalizing s  with
  | nil =>
    unfold State.scramble
    repeat' first | with_reducible assumption
  | cons x0 l0 ih =>
    unfold State.scramble
    repeat' first
      | with_reducible assumption
      | with_reducible apply ih
      | with_reducible apply Held.writeBoard
      | with_reducible apply Held.draw
      | split

theorem Held.freeLanes (k : Nat) (z1 : List Nat) (h : Held v s) : Held v (State.freeLanes s k z1) := by
  induction z1 generalizing s k with
  | nil =>
    unfold State.freeLanes
    repeat' first | with_reducible assumption
  | cons x0 l0 ih =>
    unfold State.freeLanes
    repeat' first
      | with_reducible assumption
      | with_reducible apply ih
      | with_reducible apply Held.draw
      | with_reducible apply Held.onCore

theorem Held.coefWritten (l : Loc) (h : Held v s) : Held v (State.coefWritten s l) := by
  unfold State.coefWritten
  repeat' first
    | with_reducible assumption
    | with_reducible apply Held.freeLanes
    | with_reducible apply Held.scramble
    | with_reducible apply Held.onCore
    | dsimp only
    | split

theorem Held.putBlock (h0 : Nat) (b : Nat) (x : BitVec 512) (h : Held v s) : Held v (State.putBlock s h0 b x) := by
  unfold State.putBlock
  repeat' first
    | with_reducible assumption
    | with_reducible exact id
    | with_reducible exact SMap.wf_set _ _ _ _
    | with_reducible apply Held.lit

theorem Held.blockFixed (who : LogWho) (a : Nat) (l : Loc) (n : Nat) (h : Held v s) : Held v (State.blockFixed s who a l n) := by
  unfold State.blockFixed
  repeat' first | with_reducible assumption | with_reducible apply Held.logAt | with_reducible apply Held.countCe | split

theorem Held.readBlock (who : LogWho) (h0 : Nat) (b : Nat) (a : Nat) (quiet : Bool) (h : Held v s) : Held v (State.readBlock s who h0 b a quiet).1 := by
  unfold State.readBlock
  repeat' first
    | with_reducible assumption
    | with_reducible apply Held.blockFixed
    | with_reducible apply Held.putBlock
    | with_reducible apply Held.logAt
    | with_reducible apply Held.countUe
    | dsimp only
    | split

theorem Held.hbmWhole (h0 : Nat) (b : Nat) (ws : List Word) (h : Held v s) : Held v (State.hbmWhole s h0 b ws) := by
  unfold State.hbmWhole
  repeat' first | with_reducible assumption | with_reducible apply Held.putBlock

theorem Held.hbmRmw (who : LogWho) (h0 : Nat) (b : Nat) (w : Nat) (ws : List Word) (h : Held v s) : Held v (State.hbmRmw s who h0 b w ws).1 := by
  unfold State.hbmRmw
  repeat' first
    | with_reducible assumption
    | with_reducible apply Held.readBlock
    | with_reducible apply Held.putBlock
    | dsimp only
    | split

theorem Held.hbmWrite (who : LogWho) (k n off : Nat) (l : List Word) (h : Held v s) : Held v (s.hbmWrite who k n off l).1 := by
  induction n generalizing s off l with
  | zero => exact h
  | succ n ih =>
    cases l with
    | nil => exact h
    | cons x l =>
      have hr : Held v (if ((x :: l).take (24 - off % 24)).length = 24 then
          (s.hbmWhole k (off / 24) ((x :: l).take (24 - off % 24)), none)
        else s.hbmRmw who k (off / 24) (off % 24) ((x :: l).take (24 - off % 24))).1 := by
        split
        · exact h.hbmWhole _ _ _
        · exact h.hbmRmw _ _ _ _ _
      rw [State.hbmWrite]
      split
      · exact hr
      · split
        · exact held_fst (by assumption) (ih _ _ hr)
        · exact held_fst (by assumption) (ih _ _ hr)

theorem Held.readLoc (who : LogWho) (a : Nat) (l : Loc) (quiet : Bool) (h : Held v s) : Held v (State.readLoc s who a l quiet).1 := by
  unfold State.readLoc
  repeat' first
    | with_reducible assumption
    | with_reducible apply Held.readBlock
    | with_reducible apply Held.readSram
    | dsimp only
    | split

theorem Held.writeLoc (a : Nat) (l : Loc) (v0 : Word) (h : Held v s) : Held v (State.writeLoc s a l v0) := by
  unfold State.writeLoc
  repeat' first
    | with_reducible assumption
    | with_reducible apply Held.coefWritten
    | with_reducible apply Held.writeStore
    | with_reducible apply Held.writeBoard
    | split

theorem Held.writeLocs (a : Nat) (l : List Word) (h : Held v s) : Held v (s.writeLocs a l) := by
  induction l generalizing s a with
  | nil => exact h
  | cons x l ih => exact ih _ (h.writeLoc _ _ _)

theorem Held.regionGate (who : LogWho) (n : Nat) (a : Nat) (l : Loc) (h : Held v s) : GateHeld v (State.regionGate s who n a l) := by
  unfold State.regionGate
  repeat' first
    | with_reducible assumption
    | with_reducible apply gate_go
    | with_reducible apply gate_wait
    | with_reducible apply gate_refuse
    | with_reducible apply Held.logAt
    | with_reducible apply Held.onRgn
    | dsimp only
    | split

theorem Held.gate (who : LogWho) (a : Nat) (l : Loc) (h : Held v s) : GateHeld v (State.gate s who a l) := by
  unfold State.gate
  repeat' first
    | with_reducible assumption
    | with_reducible apply gate_go
    | with_reducible apply gate_refuse
    | with_reducible apply Held.regionGate
    | with_reducible apply Held.logAt
    | split

theorem Held.setCb (c : Nat) (w : Nat) (v0 : Word) (h : Held v s) : Held v (State.setCb s c w v0) := by
  unfold State.setCb
  repeat' first | with_reducible assumption | with_reducible apply Held.writeStore

end Sys2Proof.Machine
end

