-- ==== Sys2Proof/Laws/HeldSched.lean ====
section
/-! SUPPORT. What the operations of Machine/Sched.lean leave as it is. -/

namespace Sys2Proof.Machine

variable {v : Fixed} {s : State}

theorem Held.cbRead (who : LogWho) (c : Nat) (w : Nat) (h : Held v s) : Held v (State.cbRead s who c w).1 := by
  unfold State.cbRead
  repeat' first
    | with_reducible assumption
    | with_reducible apply Held.readSram
    | with_reducible refine held_fst (by with_reducible assumption) ?_
    | split

theorem Held.setCtxState (c : Nat) (st : Nat) (h : Held v s) : Held v (State.setCtxState s c st) := by
  unfold State.setCtxState
  repeat' first
    | with_reducible assumption
    | with_reducible apply Held.cbRead
    | with_reducible apply Held.setCb
    | with_reducible refine held_fst (by with_reducible assumption) ?_
    | split

theorem Held.cbSeen (c : Nat) (z1 : List Nat) (h : Held v s) : Held v (State.cbSeen s c z1).1 := by
  induction z1 generalizing s c with
  | nil =>
    unfold State.cbSeen
    repeat' first | with_reducible assumption
  | cons x0 l0 ih =>
    unfold State.cbSeen
    repeat' first
      | with_reducible assumption
      | with_reducible apply ih
      | with_reducible apply Held.cbRead
      | with_reducible refine held_fst (by with_reducible assumption) ?_
      | split

theorem Held.setFcause (c : Nat) (f : Nat) (h : Held v s) : Held v (State.setFcause s c f) := by
  unfold State.setFcause
  repeat' first
    | with_reducible assumption
    | with_reducible apply Held.cbRead
    | with_reducible apply Held.setCb
    | with_reducible refine held_fst (by with_reducible assumption) ?_
    | split

theorem Held.enqueue (c : Nat) (head : Bool) (h : Held v s) : Held v (State.enqueue s c head) := by
  unfold State.enqueue
  repeat' first | with_reducible assumption | dsimp only | split | with_reducible apply Held.upd

theorem Held.dequeue (c : Nat) (h : Held v s) : Held v (State.dequeue s c) := by
  unfold State.dequeue
  repeat' first | with_reducible assumption | dsimp only | with_reducible apply Held.upd

theorem Held.countIn (v0 : Word) (h : Held v s) : Held v (State.countIn s v0) := by
  unfold State.countIn
  repeat' first | with_reducible assumption | dsimp only | split | with_reducible apply Held.upd

theorem Held.countOut (v0 : Word) (h : Held v s) : Held v (State.countOut s v0) := by
  unfold State.countOut
  repeat' first | with_reducible assumption | dsimp only | split | with_reducible apply Held.upd

theorem Held.recount (old : Word) (new : Word) (h : Held v s) : Held v (State.recount s old new) := by
  unfold State.recount
  repeat' first
    | with_reducible assumption
    | with_reducible apply Held.countOut
    | with_reducible apply Held.countIn
    | dsimp only
    | split

theorem Held.ctxWriteWord (a off : Nat) (w : Word) (h : Held v s) : Held v (s.ctxWriteWord a off w) := by
  have hp : ∀ (t : State) (o x : Word), Held v t → Held v ((if off % 32 = 0 then t.recount o x else t).writeStore a (.ctx off) x) := by
    intro t o x ht
    split
    · exact (ht.recount _ _).writeStore _ _ _
    · exact ht.writeStore _ _ _
  unfold State.ctxWriteWord
  dsimp only
  split
  · exact hp _ _ _ h
  · exact hp _ _ _ (h.draw _)

theorem Held.writeSoft (a : Nat) (l : Loc) (w : Word) (h : Held v s) : Held v (s.writeSoft a l w) := by
  cases l <;> unfold State.writeSoft <;> first | exact h.ctxWriteWord _ _ _ | exact h.writeLoc _ _ _

theorem Held.writeSofts (a : Nat) (l : List Word) (h : Held v s) : Held v (s.writeSofts a l) := by
  induction l generalizing s a with
  | nil => exact h
  | cons x l ih => exact ih _ (h.writeSoft _ _ _)

theorem Held.requestPreempt (k : Nat) (why : LeaveKind) (h : Held v s) : Held v (State.requestPreempt s k why) := by
  unfold State.requestPreempt
  repeat' first | with_reducible assumption | with_reducible apply Held.onCore

theorem Held.preemptFor (c : Nat) (h : Held v s) : Held v (State.preemptFor s c) := by
  unfold State.preemptFor
  repeat' first | with_reducible assumption | with_reducible apply Held.requestPreempt | dsimp only | split

theorem Held.toReady (c : Nat) (head : Bool) (h : Held v s) : Held v (State.toReady s c head) := by
  unfold State.toReady
  repeat' first
    | with_reducible assumption
    | with_reducible apply Held.preemptFor
    | with_reducible apply Held.enqueue
    | with_reducible apply Held.setCtxState

theorem Held.toFaulted (c : Nat) (f : Nat) (h : Held v s) : Held v (State.toFaulted s c f) := by
  unfold State.toFaulted
  repeat' first
    | with_reducible assumption
    | with_reducible apply Held.setFcause
    | with_reducible apply Held.setCtxState
    | with_reducible apply Held.keeperIrq

theorem Held.setCause (c : Nat) (k : Nat) (st : Nat) (h : Held v s) : Held v (State.setCause s c k st) := by
  unfold State.setCause
  repeat' first
    | with_reducible assumption
    | with_reducible apply Held.toReady
    | with_reducible apply Held.cbRead
    | with_reducible apply Held.setCb
    | with_reducible refine held_fst (by with_reducible assumption) ?_
    | dsimp only
    | split

theorem Held.mergeCause (c : Nat) (k : Nat) (h : Held v s) : Held v (State.mergeCause s c k) := by
  unfold State.mergeCause
  repeat' first
    | with_reducible assumption
    | with_reducible apply Held.setCause
    | with_reducible apply Held.cbRead
    | with_reducible refine held_fst (by with_reducible assumption) ?_
    | split

theorem Held.wakeCtx (c : Nat) (k : Nat) (h : Held v s) : Held v (State.wakeCtx s c k) := by
  unfold State.wakeCtx
  repeat' first
    | with_reducible assumption
    | with_reducible apply Held.setCause
    | with_reducible apply Held.cbRead
    | with_reducible refine held_fst (by with_reducible assumption) ?_
    | split

theorem Held.clearCauses (c : Nat) (m : Nat) (h : Held v s) : Held v (State.clearCauses s c m) := by
  unfold State.clearCauses
  repeat' first | with_reducible assumption | with_reducible apply Held.setCb

theorem Held.setStat (b : Nat) (found : Nat) (result : Nat) (h : Held v s) : Held v (State.setStat s b found result) := by
  unfold State.setStat
  repeat' first | with_reducible assumption | dsimp only | with_reducible apply Held.upd

theorem Held.zeroBlock (c n : Nat) (h : Held v s) : Held v (s.zeroBlock c n) := by
  induction n with
  | zero => exact h
  | succ n ih => exact ih.setCb _ _ _

theorem Held.toDormant (c : Nat) (h : Held v s) : Held v (State.toDormant s c) := by
  unfold State.toDormant
  repeat' first
    | with_reducible assumption
    | with_reducible apply Held.countOut
    | with_reducible apply Held.dequeue
    | with_reducible apply Held.setCtxState
    | split

theorem Held.hold (h0 : HeldCmd) (found : Nat) (h : Held v s) : Held v (State.hold s h0 found) := by
  unfold State.hold
  repeat' first | with_reducible assumption | with_reducible apply Held.setStat | dsimp only | with_reducible apply Held.upd

theorem Held.forgetWait (c : Nat) (h : Held v s) : Held v (State.forgetWait s c) := by
  unfold State.forgetWait
  repeat' first | with_reducible assumption | dsimp only | with_reducible apply Held.upd

theorem Held.doCmd (b : Nat) (op : BitVec 4) (c : Nat) (h : Held v s) : Held v (State.doCmd s b op c) := by
  unfold State.doCmd
  repeat' first
    | with_reducible assumption
    | with_reducible apply Held.forgetWait
    | with_reducible apply Held.hold
    | with_reducible apply Held.toDormant
    | with_reducible apply Held.zeroBlock
    | with_reducible apply Held.setStat
    | with_reducible apply Held.mergeCause
    | with_reducible apply Held.toReady
    | with_reducible apply Held.requestPreempt
    | with_reducible apply Held.countOut
    | with_reducible apply Held.countIn
    | with_reducible apply Held.setFcause
    | with_reducible apply Held.setCtxState
    | with_reducible apply Held.cbRead
    | with_reducible apply Held.draw
    | with_reducible refine held_fst (by with_reducible assumption) ?_
    | dsimp only
    | split

theorem Held.ctxCmd (b : Nat) (op : BitVec 4) (h : Held v s) : Held v (State.ctxCmd s b op) := by
  unfold State.ctxCmd
  repeat' first
    | with_reducible assumption
    | with_reducible apply Held.doCmd
    | with_reducible apply Held.hold
    | dsimp only
    | split

theorem Held.suspendEnd (c : Nat) (h : Held v s) : Held v (State.suspendEnd s c) := by
  unfold State.suspendEnd
  repeat' first | with_reducible assumption | with_reducible apply Held.toDormant | split

theorem Held.ctxComplete (b : Nat) (h : Held v s) : Held v (State.ctxComplete s b) := by
  unfold State.ctxComplete
  repeat' first
    | with_reducible assumption
    | with_reducible apply Held.suspendEnd
    | with_reducible apply Held.doCmd
    | with_reducible apply Held.setStat
    | dsimp only
    | split
    | with_reducible apply Held.upd

theorem Held.msixSend (v0 : Nat) (h : Held v s) : Held v (State.msixSend s v0) := by
  unfold State.msixSend
  repeat' first | with_reducible assumption | dsimp only | split | with_reducible apply Held.upd

theorem Held.msixRelease (v0 : Nat) (h : Held v s) : Held v (State.msixRelease s v0) := by
  unfold State.msixRelease
  repeat' first
    | with_reducible assumption
    | with_reducible apply Held.msixSend
    | dsimp only
    | split
    | with_reducible apply Held.upd

theorem Held.aerSet (b : Nat) (h : Held v s) : Held v (State.aerSet s b) := by
  unfold State.aerSet
  repeat' first | with_reducible assumption | dsimp only | with_reducible apply Held.upd

theorem Held.hostIrq (n : Nat) (h : Held v s) : Held v (State.hostIrq s n) := by
  unfold State.hostIrq
  repeat' first | with_reducible assumption | with_reducible apply Held.msixSend | dsimp only | split

theorem Held.pick (n : Nat) (z1 : List Nat) (h : Held v s) : Held v (State.pick s n z1).1 := by
  induction z1 generalizing s n with
  | nil =>
    unfold State.pick
    repeat' first | with_reducible assumption
  | cons x0 l0 ih =>
    unfold State.pick
    repeat' first | with_reducible assumption | with_reducible apply ih | with_reducible apply Held.cbSeen | dsimp only | split

theorem Held.chooseFrom (n : Nat) (z1 : Nat) (h : Held v s) : Held v (State.chooseFrom s n z1).1 := by
  induction z1 generalizing s n with
  | zero =>
    unfold State.chooseFrom
    repeat' first | with_reducible assumption
  | succ n0 ih =>
    unfold State.chooseFrom
    repeat' first
      | with_reducible assumption
      | with_reducible apply ih
      | with_reducible apply Held.pick
      | with_reducible refine held_fst (by with_reducible assumption) ?_
      | dsimp only
      | split

theorem Held.unclaim (k : Nat) (h : Held v s) : Held v (State.unclaim s k) := by
  unfold State.unclaim
  repeat' first | with_reducible assumption | dsimp only | split | with_reducible apply Held.upd

end Sys2Proof.Machine
end

