-- ==== Sys2Proof/Laws/HeldLinks.lean ====
section
/-! SUPPORT. What the operations of Machine/Links.lean leave as it is. -/

namespace Sys2Proof.Machine

variable {v : Fixed} {s : State}

theorem Held.onPort (p : Nat) (f : Port → Port) (h : Held v s) : Held v (State.onPort s p f) := by
  unfold State.onPort
  repeat' first
    | with_reducible assumption
    | with_reducible apply Held.hostIrq
    | with_reducible apply Held.setPort
    | dsimp only
    | split

theorem Held.bosumDown (p : Nat) (h : Held v s) : Held v (State.bosumDown s p) := by
  unfold State.bosumDown
  repeat' first
    | with_reducible assumption
    | with_reducible apply Held.hostIrq
    | with_reducible apply Held.keeperIrq
    | with_reducible apply Held.setPort

theorem Held.replay (p : Nat) (h : Held v s) : Held v (State.replay s p) := by
  unfold State.replay
  repeat' first
    | with_reducible assumption
    | with_reducible apply Held.bosumDown
    | with_reducible apply Held.onPort
    | dsimp only
    | split

theorem Held.tryLinkUp (p : Nat) (h : Held v s) : Held v (State.tryLinkUp s p) := by
  unfold State.tryLinkUp
  repeat' first | with_reducible assumption | with_reducible apply Held.onPort | dsimp only | split

theorem Held.freeBuf (b : Option (Nat × Bool × Nat)) (h : Held v s) : Held v (State.freeBuf s b) := by
  unfold State.freeBuf
  repeat' first | with_reducible assumption | with_reducible apply Held.onPort | split

theorem Held.deliver (d : Delivery) (h : Held v s) : Held v (State.deliver s d) := by
  unfold State.deliver
  repeat' first | with_reducible assumption | dsimp only | with_reducible apply Held.upd

theorem Held.nobox  (h : Held v s) : Held v (State.nobox s) := by
  unfold State.nobox
  repeat' first | with_reducible assumption | dsimp only | with_reducible apply Held.upd

theorem Held.queueBosum (p : Nat) (f : BosumFrame) (h : Held v s) : Held v (State.queueBosum s p f) := by
  unfold State.queueBosum
  repeat' first | with_reducible assumption | with_reducible apply Held.setPort

theorem Held.routeFrame (f : BosumFrame) (origin : Bool) (port : Nat) (buf : Option (Nat × Bool × Nat)) (h : Held v s) : Held v (State.routeFrame s f origin port buf) := by
  unfold State.routeFrame
  repeat' first
    | with_reducible assumption
    | with_reducible apply Held.queueBosum
    | with_reducible apply Held.deliver
    | with_reducible apply Held.freeBuf
    | with_reducible apply Held.wakeCtx
    | dsimp only
    | split
    | with_reducible apply Held.upd

theorem Held.bosumData (p : Nat) (f : BosumFrame) (h : Held v s) : Held v (State.bosumData s p f) := by
  unfold State.bosumData
  repeat' first
    | with_reducible assumption
    | with_reducible apply Held.routeFrame
    | with_reducible apply Held.onPort
    | dsimp only
    | split

theorem Held.classify (p : Nat) (sub : Nat) (f : EthFrame) (h : Held v s) : Held v (State.classify s p sub f) := by
  unfold State.classify
  repeat' first
    | with_reducible assumption
    | with_reducible apply Held.deliver
    | with_reducible apply Held.onPort
    | dsimp only
    | split

theorem Held.ringWrite (h0 : Nat) (lg : Nat) (k : Nat) (z3 : List Word) (h : Held v s) : Held v (State.ringWrite s h0 lg k z3) := by
  induction z3 generalizing s h0 lg k with
  | nil =>
    unfold State.ringWrite
    repeat' first | with_reducible assumption
  | cons x0 l0 ih =>
    unfold State.ringWrite
    repeat' first | with_reducible assumption | with_reducible apply ih | with_reducible apply Held.writeLoc

theorem Held.readHeader (a : Nat) (z1 : Nat) (h : Held v s) : Held v (State.readHeader s a z1).1 := by
  induction z1 generalizing s a with
  | zero =>
    unfold State.readHeader
    repeat' first | with_reducible assumption
  | succ n0 ih =>
    unfold State.readHeader
    repeat' first
      | with_reducible assumption
      | with_reducible apply ih
      | with_reducible apply Held.readLoc
      | with_reducible refine held_fst (by with_reducible assumption) ?_
      | split

theorem Held.flowCount (i : Nat) (d : Delivery) (h : Held v s) : Held v (State.flowCount s i d).1 := by
  unfold State.flowCount
  repeat' first | with_reducible assumption | dsimp only | split | with_reducible apply Held.upd

theorem Held.inboxPut (d : Delivery) (h0 : Nat) (lg : Nat) (wr : Word) (rd : Word) (drops : Word) (h : Held v s) : Held v (State.inboxPut s d h0 lg wr rd drops) := by
  unfold State.inboxPut
  repeat' first
    | with_reducible assumption
    | with_reducible apply Held.flowCount
    | with_reducible apply Held.ringWrite
    | with_reducible apply Held.mergeCause
    | with_reducible apply Held.writeLoc
    | dsimp only
    | split

theorem Held.dispatch  (h : Held v s) : Held v (State.dispatch s) := by
  unfold State.dispatch
  repeat' first
    | with_reducible assumption
    | with_reducible apply Held.inboxPut
    | with_reducible apply Held.readHeader
    | with_reducible apply Held.nobox
    | with_reducible apply Held.freeBuf
    | with_reducible apply Held.cbRead
    | with_reducible apply Held.gate
    | with_reducible refine held_fst (by with_reducible assumption) ?_
    | with_reducible refine go_of (by with_reducible assumption) ?_
    | with_reducible refine wait_of (by with_reducible assumption) ?_
    | with_reducible refine refuse_of (by with_reducible assumption) ?_
    | dsimp only
    | split
    | with_reducible apply Held.upd

theorem Held.bumpSeq (t : Nat) (h : Held v s) : Held v (State.bumpSeq s t) := by
  unfold State.bumpSeq
  repeat' first | with_reducible assumption | dsimp only | split | with_reducible apply Held.upd

theorem Held.preemptAt (p : Nat) (sub : Nat) (i : Nat) (h : Held v s) : Held v (State.preemptAt s p sub i) := by
  unfold State.preemptAt
  repeat' first
    | with_reducible assumption
    | with_reducible apply Held.draw
    | with_reducible apply Held.setPort
    | dsimp only
    | split

theorem Held.transmit (p : Nat) (sub : Nat) (h : Held v s) : Held v (State.transmit s p sub) := by
  unfold State.transmit
  repeat' first
    | with_reducible assumption
    | with_reducible apply Held.preemptAt
    | with_reducible apply Held.deliver
    | with_reducible apply Held.onPort
    | dsimp only
    | split

theorem Held.portOff (p : Nat) (h : Held v s) : Held v (State.portOff s p) := by
  unfold State.portOff
  repeat' first | with_reducible assumption | with_reducible apply Held.bosumDown | with_reducible apply Held.onPort | split

theorem Held.writeLnkCtl (p : Nat) (v0 : Word) (h : Held v s) : Held v (State.writeLnkCtl s p v0) := by
  unfold State.writeLnkCtl
  repeat' first
    | with_reducible assumption
    | with_reducible apply Held.portOff
    | with_reducible apply Held.onPort
    | dsimp only
    | split

end Sys2Proof.Machine
end

