-- ==== Sys2Proof/Laws/HeldDma.lean ====
section
/-! SUPPORT. What the operations of Machine/Dma.lean leave as it is. -/

namespace Sys2Proof.Machine

variable {v : Fixed} {s : State}

theorem Held.promoted (n : Nat) (st : DmaState) (h : Held v s) : Held v (State.promoted s n st) := by
  unfold State.promoted
  repeat' first | with_reducible assumption | with_reducible apply Held.setChan

theorem Held.hostErr (b : Nat) (a : Nat) (h : Held v s) : Held v (State.hostErr s b a) := by
  unfold State.hostErr
  repeat' first | with_reducible assumption | dsimp only | split | with_reducible apply Held.upd

theorem Held.dmaNotify (n : Nat) (ctl : Word) (ctx : Word) (h : Held v s) : Held v (State.dmaNotify s n ctl ctx) := by
  unfold State.dmaNotify
  repeat' first
    | with_reducible assumption
    | with_reducible apply Held.hostIrq
    | with_reducible apply Held.wakeCtx
    | dsimp only
    | split

theorem Held.dmaWords (n : Nat) (z1 : Nat) (z2 : Int) (z3 : Bool) (h : Held v s) : Held v (State.dmaWords s n z1 z2 z3).1 := by
  induction z1 generalizing s n z2 z3 with
  | zero =>
    unfold State.dmaWords
    repeat' first | with_reducible assumption
  | succ n0 ih =>
    unfold State.dmaWords
    repeat' first
      | with_reducible assumption
      | with_reducible apply ih
      | with_reducible apply Held.readLoc
      | with_reducible refine held_fst (by with_reducible assumption) ?_
      | dsimp only
      | split

theorem Held.dmaBeat (n : Nat) (k : Nat) (a : Int) (hds : List (BitVec 32)) (ep : HostCpl) (h : Held v s) : Held v (State.dmaBeat s n k a hds ep).1 := by
  unfold State.dmaBeat
  repeat' first
    | with_reducible assumption
    | with_reducible apply Held.dmaWords
    | with_reducible apply Held.hostErr
    | with_reducible apply Held.aerSet
    | with_reducible apply Held.gate
    | with_reducible refine go_of (by with_reducible assumption) ?_
    | with_reducible refine wait_of (by with_reducible assumption) ?_
    | with_reducible refine refuse_of (by with_reducible assumption) ?_
    | dsimp only
    | split

theorem Held.presentRead (n : Nat) (d : Dma) (h : Held v s) : Held v (State.presentRead s n d) := by
  unfold State.presentRead
  repeat' first
    | with_reducible assumption
    | with_reducible apply Held.hostErr
    | with_reducible apply Held.setChan
    | dsimp only
    | split

theorem Held.presentReads (n : Nat) (z1 : Nat) (h : Held v s) : Held v (State.presentReads s n z1) := by
  induction z1 generalizing s n with
  | zero =>
    unfold State.presentReads
    repeat' first | with_reducible assumption
  | succ n0 ih =>
    unfold State.presentReads
    repeat' first
      | with_reducible assumption
      | with_reducible apply ih
      | with_reducible apply Held.presentRead
      | dsimp only
      | split

theorem Held.readOn (n : Nat) (h : Held v s) : Held v (State.readOn s n) := by
  unfold State.readOn
  repeat' first | with_reducible assumption | with_reducible apply Held.presentReads

theorem Held.promote (n : Nat) (st : DmaState) (h : Held v s) : Held v (State.promote s n st) := by
  unfold State.promote
  repeat' first | with_reducible assumption | with_reducible apply Held.readOn | with_reducible apply Held.promoted

theorem Held.dmaTrigger (n : Nat) (h : Held v s) : Held v (State.dmaTrigger s n) := by
  unfold State.dmaTrigger
  repeat' first
    | with_reducible assumption
    | with_reducible apply Held.promote
    | with_reducible apply Held.readOn
    | with_reducible apply Held.setChan
    | dsimp only
    | split

theorem Held.dmaEvent (die : Nat) (kind : Nat) (num : Nat) (h : Held v s) : Held v (State.dmaEvent s die kind num) := by
  unfold State.dmaEvent
  repeat' first
    | with_reducible assumption
    | with_reducible apply Held.dmaTrigger
    | with_reducible apply Held.foldl
    | intro _ _ _
    | dsimp only
    | split

theorem Held.dmaRead (n : Nat) (hds : List (BitVec 32)) (ep : HostCpl) (h : Held v s) : Held v (State.dmaRead s n hds ep) := by
  unfold State.dmaRead
  repeat' first
    | with_reducible assumption
    | with_reducible apply Held.readOn
    | with_reducible apply Held.dmaBeat
    | with_reducible apply Held.setChan
    | with_reducible refine held_fst (by with_reducible assumption) ?_
    | dsimp only
    | split

theorem Held.drawWords (z0 : List Word) (h : Held v s) : Held v (State.drawWords s z0).1 := by
  induction z0 generalizing s  with
  | nil =>
    unfold State.drawWords
    repeat' first | with_reducible assumption
  | cons x0 l0 ih =>
    unfold State.drawWords
    repeat' first | with_reducible assumption | with_reducible apply ih | with_reducible apply Held.draw

theorem Held.lateWrite (n : Nat) (a : Nat) (v0 : Word) (h : Held v s) : Held v (State.lateWrite s n a v0) := by
  unfold State.lateWrite
  repeat' first
    | with_reducible assumption
    | with_reducible apply Held.writeSoft
    | with_reducible apply Held.gate
    | with_reducible apply Held.hbmWrite
    | with_reducible refine go_of (by with_reducible assumption) ?_
    | with_reducible refine wait_of (by with_reducible assumption) ?_
    | with_reducible refine refuse_of (by with_reducible assumption) ?_
    | dsimp only
    | split

theorem Held.maybeWrite (n : Nat) (a : Nat) (z2 : List Word) (h : Held v s) : Held v (State.maybeWrite s n a z2) := by
  induction z2 generalizing s n a with
  | nil =>
    unfold State.maybeWrite
    repeat' first | with_reducible assumption
  | cons x0 l0 ih =>
    unfold State.maybeWrite
    repeat' first
      | with_reducible assumption
      | with_reducible apply ih
      | with_reducible apply Held.lateWrite
      | with_reducible apply Held.drawBool
      | split

theorem Held.dmaFrame (d : Dma) (e : DmaWrite) (h : Held v s) : GateHeld v (State.dmaFrame s d e) := by
  unfold State.dmaFrame
  repeat' first
    | with_reducible assumption
    | with_reducible apply gate_go
    | with_reducible apply gate_wait
    | with_reducible apply gate_refuse
    | with_reducible apply Held.bumpSeq
    | with_reducible apply Held.routeFrame
    | with_reducible apply Held.setPort
    | dsimp only
    | split

theorem Held.hostWrite (hi : Word) (a : Int) (z2 : List Word) (h : Held v s) : Held v (State.hostWrite s hi a z2) := by
  induction z2 generalizing s hi a with
  | nil =>
    unfold State.hostWrite
    repeat' first | with_reducible assumption
  | cons x0 l0 ih =>
    unfold State.hostWrite
    repeat' first | with_reducible assumption | with_reducible apply ih | dsimp only | with_reducible apply Held.upd

theorem Held.dmaPut (n : Nat) (d : Dma) (e : DmaWrite) (ws : List Word) (h : Held v s) : Held v (State.dmaPut s n d e ws).1 := by
  unfold State.dmaPut
  repeat' first
    | with_reducible assumption
    | with_reducible apply Held.hostWrite
    | with_reducible apply Held.dmaFrame
    | with_reducible apply Held.hostErr
    | with_reducible apply Held.writeSofts
    | with_reducible apply Held.gate
    | with_reducible apply Held.hbmWrite
    | with_reducible refine go_of (by with_reducible assumption) ?_
    | with_reducible refine wait_of (by with_reducible assumption) ?_
    | with_reducible refine refuse_of (by with_reducible assumption) ?_
    | dsimp only
    | split

theorem Held.dmaWriteResp (n : Nat) (h : Held v s) : Held v (State.dmaWriteResp s n) := by
  unfold State.dmaWriteResp
  repeat' first
    | with_reducible assumption
    | with_reducible apply Held.dmaPut
    | with_reducible apply Held.maybeWrite
    | with_reducible apply Held.drawWords
    | with_reducible apply Held.setChan
    | with_reducible refine held_fst (by with_reducible assumption) ?_
    | dsimp only
    | split

theorem Held.dmaComplete (n : Nat) (h : Held v s) : Held v (State.dmaComplete s n) := by
  unfold State.dmaComplete
  repeat' first
    | with_reducible assumption
    | with_reducible apply Held.dmaEvent
    | with_reducible apply Held.promote
    | with_reducible apply Held.dmaNotify
    | with_reducible apply Held.keeperIrq
    | with_reducible apply Held.setChan
    | dsimp only
    | split

theorem Held.dmaHalt (n : Nat) (h : Held v s) : Held v (State.dmaHalt s n) := by
  unfold State.dmaHalt
  repeat' first
    | with_reducible assumption
    | with_reducible apply Held.dmaNotify
    | with_reducible apply Held.logAt
    | with_reducible apply Held.keeperIrq
    | with_reducible apply Held.setChan
    | dsimp only
    | split

theorem Held.abortWrites (n : Nat) (h : Held v s) : Held v (State.abortWrites s n) := by
  unfold State.abortWrites
  repeat' first
    | with_reducible assumption
    | with_reducible apply Held.logAt
    | with_reducible apply Held.draw
    | with_reducible apply Held.setChan
    | dsimp only
    | split

theorem Held.dmaKill (n : Nat) (h : Held v s) : Held v (State.dmaKill s n) := by
  unfold State.dmaKill
  repeat' first
    | with_reducible assumption
    | with_reducible apply Held.abortWrites
    | with_reducible apply Held.dmaHalt
    | with_reducible apply Held.setChan
    | dsimp only
    | split

theorem Held.dmaCmd (n : Nat) (v0 : Word) (mayKill : Bool) (h : Held v s) : Held v (State.dmaCmd s n v0 mayKill) := by
  unfold State.dmaCmd
  repeat' first
    | with_reducible assumption
    | with_reducible apply Held.dmaKill
    | with_reducible apply Held.dmaTrigger
    | with_reducible apply Held.setChan
    | dsimp only
    | split

theorem Held.dmaTimeout (n : Nat) (h : Held v s) : Held v (State.dmaTimeout s n) := by
  unfold State.dmaTimeout
  repeat' first
    | with_reducible assumption
    | with_reducible apply Held.hostErr
    | with_reducible apply Held.aerSet
    | with_reducible apply Held.setChan
    | dsimp only
    | split

theorem Held.dmaRegWrite (n : Nat) (off : Nat) (v0 : Word) (mayKill : Bool) (h : Held v s) : Held v (State.dmaRegWrite s n off v0 mayKill) := by
  unfold State.dmaRegWrite
  repeat' first
    | with_reducible assumption
    | with_reducible apply Held.dmaCmd
    | with_reducible apply Held.setChan
    | dsimp only
    | split

end Sys2Proof.Machine
end

