-- ==== Sys2Proof/Laws/HeldTime.lean ====
section
/-! SUPPORT. What the operations of Machine/Time.lean leave as it is. -/

namespace Sys2Proof.Machine

variable {v : Fixed} {s : State}

theorem Held.timerFire (t : Nat) (h : Held v s) : Held v (State.timerFire s t) := by
  unfold State.timerFire
  repeat' first
    | with_reducible assumption
    | with_reducible apply Held.dmaEvent
    | with_reducible apply Held.wakeCtx
    | with_reducible apply Held.setTmr
    | dsimp only
    | split

theorem Held.writePtpCtl (v0 : Word) (h : Held v s) : Held v (State.writePtpCtl s v0) := by
  unfold State.writePtpCtl
  repeat' first | with_reducible assumption | dsimp only | split | with_reducible apply Held.upd

theorem Held.readTod (b : Nat) (w : Nat) (h : Held v s) : Held v (State.readTod s b w).1 := by
  unfold State.readTod
  repeat' first | with_reducible assumption | dsimp only | split | with_reducible apply Held.upd

theorem Held.readPip (b : Nat) (w : Nat) (h : Held v s) : Held v (State.readPip s b w).1 := by
  unfold State.readPip
  repeat' first | with_reducible assumption | dsimp only | split | with_reducible apply Held.upd

theorem Held.ptpReg (b : Nat) (off : Nat) (h : Held v s) : OptFst v (State.ptpReg s b off) := by
  unfold State.ptpReg
  repeat' first
    | with_reducible assumption
    | with_reducible apply optFst_none
    | with_reducible apply optFst_some
    | with_reducible apply Held.readTod
    | dsimp only
    | split

theorem Held.ptpWrite (off : Nat) (v0 : Word) (h : Held v s) : Held v (State.ptpWrite s off v0) := by
  unfold State.ptpWrite
  repeat' first
    | with_reducible assumption
    | with_reducible apply Held.writePtpCtl
    | with_reducible apply Held.setTmr
    | dsimp only
    | split
    | with_reducible apply Held.upd

end Sys2Proof.Machine
end

