-- ==== Sys2Proof/Laws/HeldRegion.lean ====
section
/-! SUPPORT. What the operations of Machine/Region.lean leave as it is. -/

namespace Sys2Proof.Machine

variable {v : Fixed} {s : State}

theorem Held.zeroRegion (n : Nat) (h : Held v s) : Held v (State.zeroRegion s n) := by
  unfold State.zeroRegion
  repeat' first
    | with_reducible assumption
    | with_reducible exact id
    | with_reducible exact SMap.wf_purge _ _ _
    | with_reducible apply Held.lit

theorem Held.wakeRegion (n : Nat) (h : Held v s) : Held v (State.wakeRegion s n) := by
  unfold State.wakeRegion
  repeat' first | with_reducible assumption | with_reducible apply Held.onRgn

theorem Held.logicUp (n : Nat) (h : Held v s) : Held v (State.logicUp s n) := by
  unfold State.logicUp
  repeat' first | with_reducible assumption | with_reducible apply Held.setRgn | dsimp only | split

theorem Held.fillDone (n : Nat) (h : Held v s) : Held v (State.fillDone s n) := by
  unfold State.fillDone
  repeat' first
    | with_reducible assumption
    | with_reducible apply Held.zeroRegion
    | with_reducible apply Held.setRgn
    | dsimp only
    | split

theorem Held.automatic (n : Nat) (h : Held v s) : Held v (State.automatic s n).2 := by
  unfold State.automatic
  repeat' first | with_reducible assumption | with_reducible apply Held.drawBool | dsimp only | split

theorem Held.idleEntry (n : Nat) (h : Held v s) : Held v (State.idleEntry s n) := by
  unfold State.idleEntry
  repeat' first
    | with_reducible assumption
    | with_reducible apply Held.automatic
    | with_reducible apply Held.setRgn
    | dsimp only
    | split

theorem Held.napEntry (n : Nat) (h : Held v s) : Held v (State.napEntry s n) := by
  unfold State.napEntry
  repeat' first
    | with_reducible assumption
    | with_reducible apply Held.automatic
    | with_reducible apply Held.setRgn
    | dsimp only
    | split

theorem Held.regionOff (n : Nat) (h : Held v s) : Held v (State.regionOff s n) := by
  unfold State.regionOff
  repeat' first | with_reducible assumption | with_reducible apply Held.zeroRegion | with_reducible apply Held.onRgn

theorem Held.requestedEntry (n : Nat) (h : Held v s) : Held v (State.requestedEntry s n) := by
  unfold State.requestedEntry
  repeat' first
    | with_reducible assumption
    | with_reducible apply Held.regionOff
    | with_reducible apply Held.setRgn
    | dsimp only
    | split

theorem Held.writeRgnCtl (n : Nat) (v0 : Word) (h : Held v s) : Held v (State.writeRgnCtl s n v0) := by
  unfold State.writeRgnCtl
  repeat' first
    | with_reducible assumption
    | with_reducible apply Held.wakeRegion
    | with_reducible apply Held.draw
    | with_reducible apply Held.onRgn
    | dsimp only
    | split

theorem Held.updateLow (n : Nat) (h : Held v s) : Held v (State.updateLow s n) := by
  unfold State.updateLow
  repeat' first
    | with_reducible assumption
    | with_reducible apply Held.logEvent
    | with_reducible apply Held.setRgn
    | dsimp only
    | split
    | with_reducible apply Held.upd

theorem Held.castleGo (n : Nat) (j : BitVec 7) (h : Held v s) : Held v (State.castleGo s n j) := by
  unfold State.castleGo
  repeat' first
    | with_reducible assumption
    | with_reducible apply Held.updateLow
    | with_reducible apply Held.setRgn
    | dsimp only
    | split

theorem Held.writeSpare (n : Nat) (v0 : Word) (h : Held v s) : Held v (State.writeSpare s n v0) := by
  unfold State.writeSpare
  repeat' first
    | with_reducible assumption
    | with_reducible apply Held.castleGo
    | with_reducible apply Held.updateLow
    | with_reducible apply Held.setRgn
    | dsimp only
    | split

theorem Held.copyRead (n : Nat) (a : Nat) (h : Held v s) : Held v (State.copyRead s n a).1 := by
  unfold State.copyRead
  repeat' first
    | with_reducible assumption
    | with_reducible apply Held.logAt
    | with_reducible apply Held.countUe
    | with_reducible apply Held.countCe
    | dsimp only
    | split

theorem Held.copyGrant (n : Nat) (h : Held v s) : Held v (State.copyGrant s n) := by
  unfold State.copyGrant
  repeat' first | with_reducible assumption | with_reducible apply Held.copyRead | with_reducible apply Held.onRgn

theorem Held.copyRow (n : Nat) (h : Held v s) : Held v (State.copyRow s n) := by
  unfold State.copyRow
  repeat' first
    | with_reducible assumption
    | with_reducible apply Held.copyGrant
    | with_reducible apply Held.onRgn
    | dsimp only
    | split

theorem Held.adoptSpare (n j : Nat) (sp : SMap (BitVec 31)) (h : Held v s) : Held v (s.adoptSpare n j sp) := by
  unfold State.adoptSpare
  refine h.lit (fun e => ?_) id id id id id id id
  have e := SMap.wf_purge 0 s.mem (fun a => inWindow n a && decide (a % 0x800000 % 127 = j)) e
  generalize s.mem.purge (fun a => inWindow n a && decide (a % 0x800000 % 127 = j)) = m at e ⊢
  induction sp generalizing m with
  | nil => exact e
  | cons x l ih => exact ih _ (SMap.wf_set _ _ _ _ e)

theorem Held.switchover (n : Nat) (h : Held v s) : Held v (State.switchover s n) := by
  unfold State.switchover
  repeat' first
    | with_reducible assumption
    | with_reducible apply Held.adoptSpare
    | with_reducible apply Held.keeperIrq
    | with_reducible apply Held.updateLow
    | with_reducible apply Held.setRgn
    | dsimp only
    | split

theorem Held.performReq (n : Nat) (w : PendAcc) (h : Held v s) : Held v (State.performReq s n w).1 := by
  unfold State.performReq
  repeat' first
    | with_reducible assumption
    | with_reducible apply Held.writeBoard
    | with_reducible apply Held.readSram
    | with_reducible refine held_fst (by with_reducible assumption) ?_
    | dsimp only
    | split

theorem Held.performAll (n : Nat) (z1 : List PendAcc) (h : Held v s) : Held v (State.performAll s n z1).1 := by
  induction z1 generalizing s n with
  | nil =>
    unfold State.performAll
    repeat' first | with_reducible assumption
  | cons x0 l0 ih =>
    unfold State.performAll
    repeat' first | with_reducible assumption | with_reducible apply ih | with_reducible apply Held.performReq

theorem Held.scrubWord (a : Nat) (l : Loc) (h : Held v s) : Held v (State.scrubWord s a l).1 := by
  unfold State.scrubWord
  repeat' first
    | with_reducible assumption
    | with_reducible apply Held.logAt
    | with_reducible apply Held.countUe
    | with_reducible apply Held.countCe
    | dsimp only
    | split

theorem Held.scrubCells (n : Nat) (row : Nat) (z2 : List Nat) (h : Held v s) : Held v (State.scrubCells s n row z2).1 := by
  induction z2 generalizing s n row with
  | nil =>
    unfold State.scrubCells
    repeat' first | with_reducible assumption
  | cons x0 l0 ih =>
    unfold State.scrubCells
    repeat' first | with_reducible assumption | with_reducible apply ih | with_reducible apply Held.scrubWord | dsimp only | split

theorem Held.applyWb (z0 : List WriteBack) (h : Held v s) : Held v (State.applyWb s z0) := by
  induction z0 generalizing s  with
  | nil =>
    unfold State.applyWb
    repeat' first | with_reducible assumption
  | cons x0 l0 ih =>
    unfold State.applyWb
    repeat' first | with_reducible assumption | with_reducible apply ih | with_reducible apply Held.putCell

theorem Held.scrubRow (n : Nat) (h : Held v s) : Held v (State.scrubRow s n) := by
  unfold State.scrubRow
  repeat' first
    | with_reducible assumption
    | with_reducible apply Held.applyWb
    | with_reducible apply Held.scrubCells
    | with_reducible apply Held.onRgn

theorem Held.performTurn (n : Nat) (l : List PendAcc) (h : Held v s) : Held v (State.performTurn s n l).1 := by
  unfold State.performTurn
  repeat' first
    | with_reducible assumption
    | with_reducible apply Held.performAll
    | with_reducible apply Held.copyGrant
    | dsimp only
    | split

theorem Held.boardTurn (n : Nat) (reqs : List BoardReq) (h : Held v s) : Held v (State.boardTurn s n reqs) := by
  unfold State.boardTurn
  repeat' first
    | with_reducible assumption
    | with_reducible apply Held.performTurn
    | with_reducible apply Held.scrubRow
    | with_reducible apply Held.onRgn
    | with_reducible apply Held.setRgn
    | dsimp only
    | split

theorem Held.scrubTurn (n : Nat) (h : Held v s) : Held v (State.scrubTurn s n) := by
  unfold State.scrubTurn
  repeat' first
    | with_reducible assumption
    | with_reducible apply Held.boardTurn
    | with_reducible apply Held.setRgn
    | dsimp only
    | split

theorem Held.scrubFallsDue (n : Nat) (h : Held v s) : Held v (State.scrubFallsDue s n) := by
  unfold State.scrubFallsDue
  repeat' first | with_reducible assumption | with_reducible apply Held.setRgn | dsimp only | split

theorem Held.margin (n : Nat) (q : BitVec 7) (m : BitVec 10) (h : Held v s) : Held v (State.margin s n q m) := by
  unfold State.margin
  repeat' first
    | with_reducible assumption
    | with_reducible apply Held.updateLow
    | with_reducible apply Held.setRgn
    | dsimp only
    | split

theorem Held.rgnReg (n : Nat) (off : Nat) (h : Held v s) : OptFst v (State.rgnReg s n off) := by
  unfold State.rgnReg
  repeat' first
    | with_reducible assumption
    | with_reducible apply optFst_none
    | with_reducible apply optFst_some
    | dsimp only
    | split

theorem Held.rgnWrite (n : Nat) (off : Nat) (v0 : Word) (h : Held v s) : Held v (State.rgnWrite s n off v0) := by
  unfold State.rgnWrite
  repeat' first
    | with_reducible assumption
    | with_reducible apply Held.updateLow
    | with_reducible apply Held.writeSpare
    | with_reducible apply Held.writeRgnCtl
    | with_reducible apply Held.onRgn
    | split

end Sys2Proof.Machine
end

