-- ==== Sys2Proof/Laws/HeldAgeing.lean ====
section
/-! SUPPORT. What the operations of Machine/Ageing.lean leave as it is. -/

namespace Sys2Proof.Machine

variable {v : Fixed} {s : State}

theorem held_ite_fst {α : Type} {c : Prop} [Decidable c] {p q : State × α} (hp : Held v p.1) (hq : Held v q.1) :
    Held v (if c then p else q).1 := by
  split
  · exact hp
  · exact hq

theorem Held.plan (v0 : Nat) (delay : Nat) (sens : Nat) (h : Held v s) : Held v (State.plan s v0 delay sens).2 := by
  unfold State.plan
  repeat' first | with_reducible assumption | with_reducible apply Held.draw | dsimp only | split

theorem Held.ageingLimit  (h : Held v s) : Held v (State.ageingLimit s) := by
  unfold State.ageingLimit
  repeat' first | with_reducible assumption | with_reducible apply Held.hostIrq | dsimp only | with_reducible apply Held.upd

theorem Held.planLow (n : Nat) (v0 : Nat) (k : Nat) (limit : Bool) (h : Held v s) : Held v (State.planLow s n v0 k limit) := by
  unfold State.planLow
  repeat' first
    | with_reducible assumption
    | with_reducible apply Held.ageingLimit
    | with_reducible apply Held.castleGo
    | with_reducible apply Held.onRgn
    | split

theorem Held.replan (n : Nat) (h : Held v s) : Held v (State.replan s n) := by
  unfold State.replan
  repeat' first
    | with_reducible assumption
    | with_reducible apply Held.planLow
    | with_reducible apply Held.plan
    | dsimp only
    | split
    | with_reducible apply Held.upd

theorem Held.actLow (n : Nat) (h : Held v s) : Held v (State.actLow s n) := by
  unfold State.actLow
  repeat' first
    | with_reducible assumption
    | with_reducible apply Held.planLow
    | with_reducible apply Held.castleGo
    | dsimp only
    | split

theorem Held.life (n : Nat) (h : Held v s) : Held v (s.life n).1 := by
  unfold State.life
  refine held_ite_fst h ?_
  cases s.growth n with
  | none => exact h.draw 32
  | some g => exact held_ite_fst (h.draw 32) (h.draw 32)

theorem Held.ledgerEntry (n : Nat) (h : Held v s) : Held v (s.ledgerEntry n).1 := by
  unfold State.ledgerEntry
  split
  · exact h
  · have hl := h.life n
    dsimp only
    split
    · exact hl
    · exact hl.draw 32

theorem Held.ledgerEntries (n m : Nat) (h : Held v s) : Held v (s.ledgerEntries n m).1 := by
  induction m generalizing s n with
  | zero => exact h
  | succ m ih => exact ih _ (h.ledgerEntry n)

theorem Held.ledgerRecord (h : Held v s) : Held v s.ledgerRecord.1 := by
  unfold State.ledgerRecord
  dsimp only
  exact h.ledgerEntries 0 48

theorem Held.recordStart (h : Held v s) : Held v s.recordStart := by
  unfold State.recordStart
  split
  · exact h.upd
  · exact h.ledgerRecord.upd

theorem Held.restoreRegion (slot : Nat) (n : Nat) (h : Held v s) : Held v (State.restoreRegion s slot n) := by
  unfold State.restoreRegion
  repeat' first | with_reducible assumption | with_reducible apply Held.onRgn | dsimp only | split

theorem Held.restorePlan  (h : Held v s) : Held v (State.restorePlan s) := by
  unfold State.restorePlan
  repeat' first
    | with_reducible assumption
    | with_reducible apply Held.restoreRegion
    | with_reducible apply Held.foldl
    | intro _ _ _
    | dsimp only
    | split
    | with_reducible apply Held.upd

theorem Held.keeperPip  (h : Held v s) : Held v (State.keeperPip s) := by
  unfold State.keeperPip
  repeat' first
    | with_reducible assumption
    | with_reducible apply Held.restorePlan
    | with_reducible apply Held.recordStart
    | with_reducible apply Held.actLow
    | with_reducible apply Held.replan
    | with_reducible apply Held.foldl
    | dsimp only
    | split
    | with_reducible apply Held.upd

end Sys2Proof.Machine
end

