-- ==== Sys2Proof/Laws/HeldPower.lean ====
section
/-! SUPPORT. What the operations of Machine/Power.lean leave as it is. -/

namespace Sys2Proof.Machine

variable {v : Fixed} {s : State}

theorem Held.capLower  (h : Held v s) : Held v (State.capLower s) := by
  unfold State.capLower
  repeat' first | with_reducible assumption | with_reducible apply Held.onRgn | dsimp only | split | with_reducible apply Held.upd

theorem Held.capRestore  (h : Held v s) : Held v (State.capRestore s) := by
  unfold State.capRestore
  repeat' first | with_reducible assumption | with_reducible apply Held.onRgn | dsimp only | split | with_reducible apply Held.upd

theorem Held.powerRead (r : PowerReading) (h : Held v s) : Held v (State.powerRead s r) := by
  unfold State.powerRead
  repeat' first | with_reducible assumption | dsimp only | split | with_reducible apply Held.upd

theorem Held.smbus (b : List Byte) (h : Held v s) : Held v (State.smbus s b) := by
  unfold State.smbus
  repeat' first | with_reducible assumption | dsimp only | split | with_reducible apply Held.upd

theorem Held.pwrReq (v0 : Word) (h : Held v s) : Held v (State.pwrReq s v0) := by
  unfold State.pwrReq
  repeat' first | with_reducible assumption | dsimp only | split | with_reducible apply Held.upd

theorem Held.pwrReg (b : Nat) (off : Nat) (h : Held v s) : OptFst v (State.pwrReg s b off) := by
  unfold State.pwrReg
  repeat' first
    | with_reducible assumption
    | with_reducible apply optFst_none
    | with_reducible apply optFst_some
    | with_reducible apply Held.readPip
    | dsimp only
    | split

theorem Held.pwrWrite (who : Master) (off : Nat) (v0 : Word) (h : Held v s) : Held v (State.pwrWrite s who off v0) := by
  unfold State.pwrWrite
  repeat' first
    | with_reducible assumption
    | with_reducible apply Held.pwrReq
    | dsimp only
    | split
    | with_reducible apply Held.upd

end Sys2Proof.Machine
end

