-- ==== Sys2Proof/Laws/HeldBlocks.lean ====
section
/-! SUPPORT. What the operations of Machine/Blocks.lean leave as it is. -/

namespace Sys2Proof.Machine

variable {v : Fixed} {s : State}

theorem Held.ledgerRead  (h : Held v s) : Held v (State.ledgerRead s).1 := by
  unfold State.ledgerRead
  repeat' first | with_reducible assumption | dsimp only | with_reducible apply Held.upd

theorem Held.ledgerWrite (who : Master) (v0 : Word) (h : Held v s) : Held v (State.ledgerWrite s who v0) := by
  unfold State.ledgerWrite
  repeat' first | with_reducible assumption | dsimp only | split | with_reducible apply Held.upd

theorem Held.ledgerErase (who : Master) (v0 : Word) (h : Held v s) : Held v (State.ledgerErase s who v0) := by
  unfold State.ledgerErase
  repeat' first | with_reducible assumption | dsimp only | split | with_reducible apply Held.upd

theorem Held.intReg (off : Nat) (h : Held v s) : OptFst v (State.intReg s off) := by
  unfold State.intReg
  repeat' first
    | with_reducible assumption
    | with_reducible apply optFst_none
    | with_reducible apply optFst_some
    | with_reducible apply Held.ledgerRead
    | dsimp only
    | split

theorem Held.intWrite (who : Master) (off : Nat) (v0 : Word) (h : Held v s) : Held v (State.intWrite s who off v0) := by
  unfold State.intWrite
  repeat' first
    | with_reducible assumption
    | with_reducible apply Held.ledgerErase
    | with_reducible apply Held.ledgerWrite
    | dsimp only
    | split
    | with_reducible apply Held.upd

theorem Held.setRes (b : Nat) (r : Nat) (h : Held v s) : Held v (State.setRes s b r) := by
  unfold State.setRes
  repeat' first | with_reducible assumption | dsimp only | with_reducible apply Held.upd

theorem Held.setRollSt (i : Nat) (st : Nat) (bad : Option (BitVec 7)) (h : Held v s) : Held v (State.setRollSt s i st bad) := by
  unfold State.setRollSt
  repeat' first | with_reducible assumption | dsimp only | split | with_reducible apply Held.upd

theorem Held.startRegionRoll (n : Nat) (h : Held v s) : Held v (State.startRegionRoll s n) := by
  unfold State.startRegionRoll
  repeat' first | with_reducible assumption | with_reducible apply Held.setRollSt | with_reducible apply Held.onRgn

theorem Held.startClusterRoll (k : Nat) (h : Held v s) : Held v (State.startClusterRoll s k) := by
  unfold State.startClusterRoll
  repeat' first
    | with_reducible assumption
    | with_reducible apply Held.setRollSt
    | with_reducible apply Held.wakeRegion
    | with_reducible apply Held.onCore

theorem Held.rollCmd (b : Nat) (kind : Nat) (t : Nat) (h : Held v s) : Held v (State.rollCmd s b kind t) := by
  unfold State.rollCmd
  repeat' first
    | with_reducible assumption
    | with_reducible apply Held.startClusterRoll
    | with_reducible apply Held.startRegionRoll
    | with_reducible apply Held.setRes
    | split

theorem Held.functionReset  (h : Held v s) : Held v (State.functionReset s) := by
  unfold State.functionReset
  repeat' first
    | with_reducible assumption
    | with_reducible apply Held.setChan
    | with_reducible apply Held.foldl
    | intro _ _ _
    | dsimp only
    | split
    | with_reducible apply Held.upd

theorem Held.writeHostCtl (who : Master) (v0 : Word) (h : Held v s) : Held v (State.writeHostCtl s who v0) := by
  unfold State.writeHostCtl
  repeat' first
    | with_reducible assumption
    | with_reducible apply Held.functionReset
    | dsimp only
    | split
    | with_reducible apply Held.upd

theorem Held.writeH2k (v0 : Word) (h : Held v s) : Held v (State.writeH2k s v0) := by
  unfold State.writeH2k
  repeat' first
    | with_reducible assumption
    | with_reducible apply Held.keeperIrq
    | dsimp only
    | split
    | with_reducible apply Held.upd

theorem Held.writeK2h (v0 : Word) (h : Held v s) : Held v (State.writeK2h s v0) := by
  unfold State.writeK2h
  repeat' first
    | with_reducible assumption
    | with_reducible apply Held.hostIrq
    | dsimp only
    | split
    | with_reducible apply Held.upd

theorem Held.hostRegWrite (who : Master) (off : Nat) (v0 : Word) (h : Held v s) : Held v (State.hostRegWrite s who off v0) := by
  unfold State.hostRegWrite
  repeat' first
    | with_reducible assumption
    | with_reducible apply Held.writeK2h
    | with_reducible apply Held.writeH2k
    | with_reducible apply Held.writeHostCtl
    | with_reducible apply Held.hostIrq
    | with_reducible apply Held.draw
    | dsimp only
    | split
    | with_reducible apply Held.upd

theorem Held.dbgStart (o : DbgOp) (h : Held v s) : Held v (State.dbgStart s o) := by
  unfold State.dbgStart
  repeat' first | with_reducible assumption | dsimp only | split | with_reducible apply Held.upd

theorem Held.dbgReg (off : Nat) (h : Held v s) : OptFst v (State.dbgReg s off) := by
  unfold State.dbgReg
  repeat' first
    | with_reducible assumption
    | with_reducible apply optFst_none
    | with_reducible apply optFst_some
    | with_reducible apply Held.dbgStart
    | dsimp only
    | split

theorem Held.dbgWrite (off : Nat) (v0 : Word) (h : Held v s) : Held v (State.dbgWrite s off v0) := by
  unfold State.dbgWrite
  repeat' first
    | with_reducible assumption
    | with_reducible apply Held.dbgStart
    | dsimp only
    | split
    | with_reducible apply Held.upd

theorem Held.ctxWrite (b : Nat) (off : Nat) (v0 : Word) (h : Held v s) : Held v (State.ctxWrite s b off v0) := by
  unfold State.ctxWrite
  repeat' first
    | with_reducible assumption
    | with_reducible apply Held.ctxCmd
    | dsimp only
    | split
    | with_reducible apply Held.upd

theorem Held.txSig (who : Master) (g : Dbl) (h : Held v s) : Held v (State.txSig s who g) := by
  unfold State.txSig
  repeat' first | with_reducible assumption | with_reducible apply Held.routeFrame

theorem Held.ftIdx (b : Nat) (v0 : Word) (h : Held v s) : Held v (State.ftIdx s b v0) := by
  unfold State.ftIdx
  repeat' first | with_reducible assumption | dsimp only | with_reducible apply Held.upd

theorem Held.ftWr (b : Nat) (h : Held v s) : Held v (State.ftWr s b) := by
  unfold State.ftWr
  repeat' first | with_reducible assumption | dsimp only | with_reducible apply Held.upd

theorem Held.portWrite (p : Nat) (off : Nat) (v0 : Word) (h : Held v s) : Held v (State.portWrite s p off v0) := by
  unfold State.portWrite
  repeat' first
    | with_reducible assumption
    | with_reducible apply Held.writeLnkCtl
    | with_reducible apply Held.onPort
    | with_reducible apply Held.setPort
    | dsimp only
    | split

theorem Held.lnkWrite (who : Master) (b : Nat) (off : Nat) (v0 : Word) (h : Held v s) : Held v (State.lnkWrite s who b off v0) := by
  unfold State.lnkWrite
  repeat' first
    | with_reducible assumption
    | with_reducible apply Held.portWrite
    | with_reducible apply Held.ftWr
    | with_reducible apply Held.ftIdx
    | with_reducible apply Held.txSig
    | dsimp only
    | split
    | with_reducible apply Held.upd

end Sys2Proof.Machine
end

