-- ==== Sys2Proof/Laws/HeldRegs.lean ====
section
/-! SUPPORT. What the operations of Machine/Regs.lean leave as it is. -/

namespace Sys2Proof.Machine

variable {v : Fixed} {s : State}

theorem Held.regRead (who : Master) (off : Nat) (h : Held v s) : OptFst v (State.regRead s who off) := by
  unfold State.regRead
  repeat' first
    | with_reducible assumption
    | with_reducible apply optFst_none
    | with_reducible apply optFst_map
    | with_reducible apply Held.dbgReg
    | with_reducible apply Held.intReg
    | with_reducible apply Held.pwrReg
    | with_reducible apply Held.rgnReg
    | with_reducible apply Held.ptpReg
    | dsimp only
    | split

theorem Held.regPut (who : Master) (off : Nat) (v0 : Word) (h : Held v s) : Held v (State.regPut s who off v0) := by
  unfold State.regPut
  repeat' first
    | with_reducible assumption
    | with_reducible apply Held.lnkWrite
    | with_reducible apply Held.ctxWrite
    | with_reducible apply Held.dbgWrite
    | with_reducible apply Held.hostRegWrite
    | with_reducible apply Held.rollCmd
    | with_reducible apply Held.intWrite
    | with_reducible apply Held.pwrWrite
    | with_reducible apply Held.rgnWrite
    | with_reducible apply Held.ptpWrite
    | with_reducible apply Held.dmaRegWrite
    | with_reducible apply Held.onCore
    | dsimp only
    | split

theorem Held.regFree (who : Master) (off : Nat) (x : Word) (h : Held v s) : Held v (State.regFree s who off x) := by
  unfold State.regFree
  repeat' first
    | with_reducible assumption
    | with_reducible apply Held.regPut
    | with_reducible apply Held.onRgn
    | with_reducible apply Held.setPort
    | dsimp only
    | split
    | with_reducible apply Held.upd

theorem Held.regWrite (who : Master) (off : Nat) (v0 : Word) (h : Held v s) : Held v (State.regWrite s who off v0) := by
  unfold State.regWrite
  repeat' first
    | with_reducible assumption
    | with_reducible apply Held.regFree
    | with_reducible apply Held.regPut
    | with_reducible apply Held.draw
    | dsimp only
    | split

theorem Held.busGate (who : Master) (a : Nat) (h : Held v s) : GateHeld v (State.busGate s who a) := by
  unfold State.busGate
  repeat' first
    | with_reducible assumption
    | with_reducible apply gate_go
    | with_reducible apply gate_refuse
    | with_reducible apply Held.gate
    | with_reducible apply Held.logAt
    | split

theorem Held.busRead (who : Master) (a : Nat) (h : Held v s) : BusHeld v (State.busRead s who a) := by
  unfold State.busRead
  repeat' first
    | with_reducible assumption
    | with_reducible apply bus_hold
    | with_reducible apply bus_bad
    | with_reducible apply bus_done
    | with_reducible apply Held.busGate
    | with_reducible apply Held.regRead
    | with_reducible apply Held.readLoc
    | with_reducible refine held_fst (by with_reducible assumption) ?_
    | with_reducible refine optFst_of (by with_reducible assumption) ?_
    | with_reducible refine go_of (by with_reducible assumption) ?_
    | with_reducible refine wait_of (by with_reducible assumption) ?_
    | with_reducible refine refuse_of (by with_reducible assumption) ?_
    | split

theorem Held.putWord (who : Master) (a : Nat) (v0 : Word) (h : Held v s) : Held v (State.putWord s who a v0).1 := by
  unfold State.putWord
  repeat' first
    | with_reducible assumption
    | with_reducible apply Held.regWrite
    | with_reducible apply Held.ctxWriteWord
    | with_reducible apply Held.writeLoc
    | with_reducible apply Held.hbmWrite
    | dsimp only
    | split

theorem Held.busWrite (who : Master) (a : Nat) (v0 : Word) (h : Held v s) : BusHeld v (State.busWrite s who a v0) := by
  unfold State.busWrite
  repeat' first
    | with_reducible assumption
    | with_reducible apply bus_hold
    | with_reducible apply bus_bad
    | with_reducible apply bus_done
    | with_reducible apply Held.putWord
    | with_reducible apply Held.busGate
    | with_reducible refine held_fst (by with_reducible assumption) ?_
    | with_reducible refine go_of (by with_reducible assumption) ?_
    | with_reducible refine wait_of (by with_reducible assumption) ?_
    | with_reducible refine refuse_of (by with_reducible assumption) ?_
    | split

theorem Held.debugFail (cause : BitVec 4) (h : Held v s) : Held v (State.debugFail s cause) := by
  unfold State.debugFail
  repeat' first | with_reducible assumption | dsimp only | with_reducible apply Held.upd

theorem Held.masterFault (who : Master) (a : Nat) (e : BusErr) (h : Held v s) : Held v (State.masterFault s who a e) := by
  unfold State.masterFault
  repeat' first | with_reducible assumption | with_reducible apply Held.debugFail | with_reducible apply Held.hostErr | split

theorem Held.writeBy (who : Master) (off : Nat) (v0 : Word) (h : Held v s) : OutHeld v (State.writeBy s who off v0) := by
  unfold State.writeBy
  repeat' first
    | with_reducible assumption
    | with_reducible apply out_ok
    | with_reducible apply Held.masterFault
    | with_reducible apply Held.busWrite
    | with_reducible refine hold_of (by with_reducible assumption) ?_
    | with_reducible refine bad_of (by with_reducible assumption) ?_
    | with_reducible refine done_of (by with_reducible assumption) ?_
    | dsimp only
    | split

theorem Held.readBy (who : Master) (off : Nat) (h : Held v s) : OutHeld v (State.readBy s who off) := by
  unfold State.readBy
  repeat' first
    | with_reducible assumption
    | with_reducible apply out_ok
    | with_reducible apply Held.masterFault
    | with_reducible apply Held.busRead
    | with_reducible refine hold_of (by with_reducible assumption) ?_
    | with_reducible refine bad_of (by with_reducible assumption) ?_
    | with_reducible refine done_of (by with_reducible assumption) ?_
    | dsimp only
    | split

end Sys2Proof.Machine
end

