-- ==== Sys2Proof/Laws/HeldOps.lean ====
section
/-! SUPPORT. What the operations of Machine/Ops.lean leave as it is. -/

namespace Sys2Proof.Machine

variable {v : Fixed} {s : State}

theorem Held.done (k : Nat) (c : Core) (h : Held v s) : OutHeld v (State.done s k c) := by
  unfold State.done
  repeat' first | with_reducible assumption | with_reducible apply out_ok | with_reducible apply Held.setCore

theorem Held.waits (who : Master) (l : List Nat) (h : Held v s) : OptHeld v (State.waits s who l) := by
  unfold State.waits
  repeat' first
    | with_reducible assumption
    | with_reducible apply opt_none
    | with_reducible apply opt_some
    | with_reducible apply Held.busGate
    | with_reducible apply opt_findSome
    | with_reducible refine wait_of (by with_reducible assumption) ?_
    | split
    | intro _

theorem Held.readWords (who : Master) (z1 : List Nat) (z2 : Option Nat) (h : Held v s) : Held v (State.readWords s who z1 z2).1 := by
  induction z1 generalizing s who z2 with
  | nil =>
    unfold State.readWords
    repeat' first | with_reducible assumption
  | cons x0 l0 ih =>
    unfold State.readWords
    repeat' first
      | with_reducible assumption
      | with_reducible apply ih
      | with_reducible apply Held.busGate
      | with_reducible apply Held.regRead
      | with_reducible apply Held.readLoc
      | with_reducible refine held_fst (by with_reducible assumption) ?_
      | with_reducible refine optFst_of (by with_reducible assumption) ?_
      | with_reducible refine go_of (by with_reducible assumption) ?_
      | with_reducible refine wait_of (by with_reducible assumption) ?_
      | with_reducible refine refuse_of (by with_reducible assumption) ?_
      | dsimp only
      | split

theorem Held.readAll (who : Master) (l : List Nat) (h : Held v s) : RdHeld v (State.readAll s who l) := by
  unfold State.readAll
  repeat' first
    | with_reducible assumption
    | with_reducible apply rd_hold
    | with_reducible apply rd_got
    | with_reducible apply Held.readWords
    | with_reducible apply Held.waits
    | with_reducible refine opt_of (by with_reducible assumption) ?_
    | dsimp only
    | split

theorem Held.readMixed (who : Master) (l : List Nat) (h : Held v s) : RdHeld v (State.readMixed s who l) := by
  unfold State.readMixed
  repeat' first
    | with_reducible assumption
    | with_reducible apply rd_hold
    | with_reducible apply rd_got
    | with_reducible apply Held.readAll
    | with_reducible apply Held.readWords
    | with_reducible refine held_fst (by with_reducible assumption) ?_
    | with_reducible refine rd_hold_of (by with_reducible assumption) ?_
    | with_reducible refine rd_got_of (by with_reducible assumption) ?_
    | split

theorem Held.readLoad (k : Nat) (l : PendLoad) (h : Held v s) : RdHeld v (State.readLoad s k l) := by
  unfold State.readLoad
  repeat' first
    | with_reducible assumption
    | with_reducible apply rd_hold
    | with_reducible apply rd_got
    | with_reducible apply Held.readMixed
    | with_reducible apply Held.onCore
    | with_reducible refine rd_hold_of (by with_reducible assumption) ?_
    | with_reducible refine rd_got_of (by with_reducible assumption) ?_
    | split

theorem Held.drainFrom (k : Nat) (z1 : List PendLoad) (z2 : Option PendLoad) (h : Held v s) : DrainHeld v (State.drainFrom s k z1 z2) := by
  induction z1 generalizing s k z2 with
  | nil =>
    unfold State.drainFrom
    repeat' first | with_reducible assumption | with_reducible apply drain_done | with_reducible apply Held.onCore
  | cons x0 l0 ih =>
    unfold State.drainFrom
    repeat' first
      | with_reducible assumption
      | with_reducible apply ih
      | with_reducible apply drain_hold
      | with_reducible apply Held.readLoad
      | with_reducible apply Held.onCore
      | with_reducible refine rd_hold_of (by with_reducible assumption) ?_
      | with_reducible refine rd_got_of (by with_reducible assumption) ?_
      | split

theorem Held.drainLoads (k : Nat) (h : Held v s) : DrainHeld v (State.drainLoads s k) := by
  unfold State.drainLoads
  repeat' first
    | with_reducible assumption
    | with_reducible apply drain_hold
    | with_reducible apply opt_none
    | with_reducible apply Held.drainFrom
    | with_reducible apply Held.waits
    | with_reducible apply Held.onCore
    | with_reducible apply opt_findSome
    | with_reducible refine opt_of (by with_reducible assumption) ?_
    | dsimp only
    | split
    | intro _

theorem Held.putList (who : Master) (l : List Nat) (ws : List Word) (h : Held v s) : Held v (s.putList who l ws) := by
  induction l generalizing s ws with
  | nil => unfold State.putList; exact h
  | cons a l ih =>
    cases ws with
    | nil => unfold State.putList; exact h
    | cons x ws => unfold State.putList; exact ih _ (h.putWord _ _ _)

theorem Held.captured (k : Nat) (p : PendLoad → Bool) (l : List PendLoad) (h : Held v s) : Held v (s.captured k p l).1 := by
  induction l generalizing s with
  | nil => exact h
  | cons x l ih =>
    unfold State.captured
    refine ih ?_
    split
    · have hd := h.readLoad k x
      cases e : s.readLoad k x with
      | hold t => rw [e] at hd; exact hd
      | got t d => rw [e] at hd; exact hd
    · exact h

theorem Held.captureLoads (k : Nat) (p : PendLoad → Bool) (h : Held v s) : PerfHeld v (State.captureLoads s k p) := by
  unfold State.captureLoads
  repeat' first
    | with_reducible assumption
    | with_reducible apply perf_hold
    | with_reducible apply perf_done
    | with_reducible apply opt_none
    | with_reducible apply Held.captured
    | with_reducible apply Held.waits
    | with_reducible apply Held.onCore
    | with_reducible apply opt_findSome
    | with_reducible refine opt_of (by with_reducible assumption) ?_
    | dsimp only
    | split
    | intro _

theorem Held.performStore (k : Nat) (h : Held v s) : PerfHeld v (State.performStore s k) := by
  unfold State.performStore
  repeat' first
    | with_reducible assumption
    | with_reducible apply perf_hold
    | with_reducible apply perf_done
    | with_reducible apply optFst_none
    | with_reducible apply optFst_some
    | with_reducible apply Held.captureLoads
    | with_reducible apply Held.putList
    | with_reducible apply Held.waits
    | with_reducible apply Held.busGate
    | with_reducible apply Held.hbmWrite
    | with_reducible apply Held.onCore
    | with_reducible apply Held.foldl
    | with_reducible apply optFst_findSome
    | with_reducible refine held_fst (by with_reducible assumption) ?_
    | with_reducible refine perf_hold_of (by with_reducible assumption) ?_
    | with_reducible refine perf_done_of (by with_reducible assumption) ?_
    | with_reducible refine opt_of (by with_reducible assumption) ?_
    | with_reducible refine optFst_of (by with_reducible assumption) ?_
    | with_reducible refine go_of (by with_reducible assumption) ?_
    | with_reducible refine refuse_of (by with_reducible assumption) ?_
    | intro _ _ _
    | dsimp only
    | split
    | intro _

theorem Held.drainWhile (k : Nat) (p : List SbEntry → Bool) (z2 : Nat) (h : Held v s) : PerfHeld v (State.drainWhile s k p z2) := by
  induction z2 generalizing s k p with
  | zero =>
    unfold State.drainWhile
    repeat' first | with_reducible assumption | with_reducible apply perf_done
  | succ n0 ih =>
    unfold State.drainWhile
    repeat' first
      | with_reducible assumption
      | with_reducible apply ih
      | with_reducible apply perf_hold
      | with_reducible apply perf_done
      | with_reducible apply Held.performStore
      | with_reducible refine perf_hold_of (by with_reducible assumption) ?_
      | with_reducible refine perf_done_of (by with_reducible assumption) ?_
      | split

theorem Held.drainStores (k : Nat) (h : Held v s) : PerfHeld v (State.drainStores s k) := by
  unfold State.drainStores
  repeat' first | with_reducible assumption | with_reducible apply Held.drainWhile

theorem Held.room (k : Nat) (n : Nat) (h : Held v s) : PerfHeld v (State.room s k n) := by
  unfold State.room
  repeat' first | with_reducible assumption | with_reducible apply Held.drainWhile

theorem Held.haltCore (k : Nat) (code : BitVec 2) (h : Held v s) : Held v (State.haltCore s k code) := by
  unfold State.haltCore
  repeat' first | with_reducible assumption | with_reducible apply Held.keeperIrq | with_reducible apply Held.onCore

theorem Held.stackFault (k : Nat) (sub : Nat) (ret : Dbl) (frame : Dbl) (w6 : Word) (h : Held v s) : Held v (State.stackFault s k sub ret frame w6) := by
  unfold State.stackFault
  repeat' first
    | with_reducible assumption
    | with_reducible apply Held.haltCore
    | with_reducible apply Held.setCore
    | dsimp only
    | split

theorem Held.pushFrame (k : Nat) (t : Priv) (ws : List Word) (h : Held v s) : PushHeld v (State.pushFrame s k t ws) := by
  unfold State.pushFrame
  repeat' first
    | with_reducible assumption
    | with_reducible apply push_hold
    | with_reducible apply push_fail
    | with_reducible apply push_done
    | with_reducible apply Held.room
    | with_reducible apply Held.onCore
    | with_reducible refine perf_hold_of (by with_reducible assumption) ?_
    | with_reducible refine perf_done_of (by with_reducible assumption) ?_
    | dsimp only
    | split

theorem Held.enter (k : Nat) (x : Exc) (h : Held v s) : OutHeld v (s.enter k x) := by
  have h' : Held v (s.onCore k Core.saveRep) := h.onCore _ _
  unfold State.enter
  generalize s.onCore k Core.saveRep = s' at h' ⊢
  dsimp only
  generalize e : s'.pushFrame k x.lvl _ = p
  have hp : PushHeld v p := e ▸ h'.pushFrame _ _ _
  cases p with
  | hold t => exact out_ok hp
  | done t => exact out_ok (Held.onCore _ _ hp)
  | fail f =>
    show OutHeld v (if x.lvl = .m then ok (s'.haltCore k 1) else ok (s'.stackFault k 1 x.ret f x.cause))
    split
    · exact out_ok (h'.haltCore _ _)
    · exact out_ok (h'.stackFault _ _ _ _ _)

theorem Held.loadFault (k : Nat) (f : LoadFail) (h : Held v s) : OutHeld v (State.loadFault s k f) := by
  unfold State.loadFault
  repeat' first | with_reducible assumption | with_reducible apply Held.enter | with_reducible apply Held.onCore | split

theorem Held.takeExc (k : Nat) (x : Exc) (h : Held v s) : OutHeld v (s.takeExc k x) := by
  have hd := h.drainLoads k
  unfold State.takeExc
  cases e : s.drainLoads k with
  | hold t => rw [e] at hd; exact out_ok hd
  | done t b =>
    rw [e] at hd
    cases b with
    | none => exact Held.enter _ _ hd
    | some f => exact Held.loadFault _ _ hd

theorem Held.fault (k : Nat) (code : Nat) (h : Held v s) : OutHeld v (State.fault s k code) := by
  unfold State.fault
  repeat' first | with_reducible assumption | with_reducible apply Held.takeExc

theorem Held.illegal (k : Nat) (h : Held v s) : OutHeld v (State.illegal s k) := by
  unfold State.illegal
  repeat' first | with_reducible assumption | with_reducible apply Held.fault

theorem Held.privFault (k : Nat) (h : Held v s) : OutHeld v (State.privFault s k) := by
  unfold State.privFault
  repeat' first | with_reducible assumption | with_reducible apply Held.fault

theorem Held.instr (k : Nat) (body : Core → Out) (hbody : ∀ c, OutHeld v (body c)) (h : Held v s) : OutHeld v (State.instr s k body) := by
  unfold State.instr
  repeat' first
    | with_reducible assumption
    | with_reducible apply out_noUnit
    | with_reducible apply out_ok
    | with_reducible apply Held.illegal
    | with_reducible apply hbody
    | split

theorem Held.dataFault (k : Nat) (e : BusErr) (a : Nat) (wr : Bool) (h : Held v s) : OutHeld v (State.dataFault s k e a wr) := by
  unfold State.dataFault
  repeat' first | with_reducible assumption | with_reducible apply Held.takeExc

theorem Held.needFV (k : Nat) (legal : Bool) (body : Out) (hbody : OutHeld v body) (h : Held v s) : OutHeld v (State.needFV s k legal body) := by
  unfold State.needFV
  repeat' first | with_reducible assumption | with_reducible apply Held.illegal | with_reducible apply Held.fault | split

theorem Held.needT (k : Nat) (legal : Bool) (body : Out) (hbody : OutHeld v body) (h : Held v s) : OutHeld v (State.needT s k legal body) := by
  unfold State.needT
  repeat' first | with_reducible assumption | with_reducible apply Held.illegal | with_reducible apply Held.fault | split

theorem Held.complete (k : Nat) (len : Nat) (f : Flags) (write : Core → Core) (h : Held v s) : OutHeld v (State.complete s k len f write) := by
  unfold State.complete
  repeat' first
    | with_reducible assumption
    | with_reducible apply Held.takeExc
    | with_reducible apply Held.done
    | with_reducible apply Held.setCore
    | dsimp only
    | split

theorem Held.beforeLoad (k : Nat) (l : List Nat) (lwx : Bool) (h : Held v s) : PerfHeld v (State.beforeLoad s k l lwx).1 := by
  unfold State.beforeLoad
  repeat' first
    | with_reducible assumption
    | with_reducible apply perf_done
    | with_reducible apply Held.drainStores
    | with_reducible apply Held.drainWhile
    | dsimp only
    | split

theorem Held.present (who : Master) (l : List Nat) (h : Held v s) : Held v (State.present s who l) := by
  unfold State.present
  repeat' first
    | with_reducible assumption
    | with_reducible apply Held.waits
    | with_reducible refine opt_of (by with_reducible assumption) ?_
    | split

theorem Held.load (k len : Nat) (ls : List (List Nat)) (slots : List Slot) (u : Option (BitVec 3 × Dbl)) (lwx sv : Bool)
    (h : Held v s) : OutHeld v (s.load k len ls slots u lwx sv) := by
  unfold State.load
  dsimp only
  generalize s.checkAll k (s.core k) [.r] false lwx ls = c
  cases c with
  | some p => exact Held.dataFault _ _ _ _ h
  | none =>
    have hb := h.beforeLoad k ls.flatten lwx
    revert hb
    generalize s.beforeLoad k ls.flatten lwx = b
    intro hb
    obtain ⟨b, d⟩ := b
    cases b with
    | hold t => exact out_ok hb
    | done t => exact Held.done _ _ (Held.present _ _ hb)

theorem Held.keepStale (k : Nat) (len : Nat) (l : List Nat) (h : Held v s) : Held v (State.keepStale s k len l) := by
  unfold State.keepStale
  repeat' first
    | with_reducible assumption
    | with_reducible apply Held.draw
    | with_reducible apply Held.onCore
    | dsimp only
    | split

theorem Held.refusedLane (k : Nat) (l : List Nat) (h : Held v s) : OptFst v (State.refusedLane s k l) := by
  unfold State.refusedLane
  repeat' first
    | with_reducible assumption
    | with_reducible apply optFst_none
    | with_reducible apply optFst_some
    | with_reducible apply Held.busGate
    | with_reducible apply optFst_findSome
    | with_reducible refine refuse_of (by with_reducible assumption) ?_
    | split
    | intro _

theorem Held.store (k : Nat) (len : Nat) (ls : List (List Nat)) (ws : List Word) (u : Option (BitVec 3 × Dbl)) (sv : Bool) (h : Held v s) : OutHeld v (State.store s k len ls ws u sv) := by
  unfold State.store
  repeat' first
    | with_reducible assumption
    | with_reducible apply optFst_none
    | with_reducible apply out_ok
    | with_reducible apply Held.refusedLane
    | with_reducible apply Held.keepStale
    | with_reducible apply Held.present
    | with_reducible apply Held.dataFault
    | with_reducible apply Held.room
    | with_reducible apply Held.done
    | with_reducible refine perf_hold_of (by with_reducible assumption) ?_
    | with_reducible refine perf_done_of (by with_reducible assumption) ?_
    | with_reducible refine optFst_of (by with_reducible assumption) ?_
    | dsimp only
    | split

end Sys2Proof.Machine
end

