-- ==== Sys2Proof/Laws/HeldStream.lean ====
section
/-! SUPPORT. What the operations of Machine/Stream.lean leave as it is. -/

namespace Sys2Proof.Machine

variable {v : Fixed} {s : State}

theorem Held.readWordsOf (k : Nat) (ctx : Nat) (atM : Bool) (z3 : List Int) (h : Held v s) : ElReadHeld v (State.readWordsOf s k ctx atM z3) := by
  induction z3 generalizing s k ctx atM with
  | nil =>
    unfold State.readWordsOf
    repeat' first | with_reducible assumption | with_reducible apply elread_got
  | cons x0 l0 ih =>
    unfold State.readWordsOf
    repeat' first
      | with_reducible assumption
      | with_reducible apply ih
      | with_reducible apply elread_hold
      | with_reducible apply elread_bad
      | with_reducible apply elread_got
      | with_reducible apply Held.gate
      | with_reducible apply Held.readLoc
      | with_reducible refine held_fst (by with_reducible assumption) ?_
      | with_reducible refine elread_hold_of (by with_reducible assumption) ?_
      | with_reducible refine elread_bad_of (by with_reducible assumption) ?_
      | with_reducible refine elread_got_of (by with_reducible assumption) ?_
      | with_reducible refine go_of (by with_reducible assumption) ?_
      | with_reducible refine wait_of (by with_reducible assumption) ?_
      | with_reducible refine refuse_of (by with_reducible assumption) ?_
      | dsimp only
      | split

theorem Held.readEls (k : Nat) (g : Group) (t : Nat) (i : Nat) (z4 : Nat) (h : Held v s) : Held v (State.readEls s k g t i z4).1 := by
  induction z4 generalizing s k g t i with
  | zero =>
    unfold State.readEls
    repeat' first | with_reducible assumption
  | succ n0 ih =>
    unfold State.readEls
    repeat' first
      | with_reducible assumption
      | with_reducible apply ih
      | with_reducible apply Held.readWordsOf
      | with_reducible refine held_fst (by with_reducible assumption) ?_
      | with_reducible refine elread_hold_of (by with_reducible assumption) ?_
      | with_reducible refine elread_bad_of (by with_reducible assumption) ?_
      | with_reducible refine elread_got_of (by with_reducible assumption) ?_
      | dsimp only
      | split

theorem Held.turn (k : Nat) (g : Group) (p : Plan) (t : Nat) (h : Held v s) : Held v (State.turn s k g p t).1 := by
  unfold State.turn
  repeat' first
    | with_reducible assumption
    | with_reducible apply Held.readEls
    | with_reducible refine held_fst (by with_reducible assumption) ?_
    | dsimp only
    | split

theorem Held.turns (k : Nat) (g : Group) (p : Plan) (z3 : List Nat) (h : Held v s) : Held v (State.turns s k g p z3).1 := by
  induction z3 generalizing s k g p with
  | nil =>
    unfold State.turns
    repeat' first | with_reducible assumption
  | cons x0 l0 ih =>
    unfold State.turns
    repeat' first | with_reducible assumption | with_reducible apply ih | with_reducible apply Held.turn

end Sys2Proof.Machine
end

