-- ==== Sys2Proof/Laws/HeldChain.lean ====
section
/-! SUPPORT. What the operations of Machine/Chain.lean leave as it is. -/

namespace Sys2Proof.Machine

variable {v : Fixed} {s : State}

theorem Held.fetchWord (k : Nat) (c : Core) (a : Dbl) (h : Held v s) : FetchWHeld v (State.fetchWord s k c a) := by
  unfold State.fetchWord
  repeat' first
    | with_reducible assumption
    | with_reducible apply fetchw_hold
    | with_reducible apply fetchw_bad
    | with_reducible apply fetchw_ok
    | with_reducible apply Held.gate
    | with_reducible apply Held.readSram
    | with_reducible refine held_fst (by with_reducible assumption) ?_
    | with_reducible refine go_of (by with_reducible assumption) ?_
    | with_reducible refine wait_of (by with_reducible assumption) ?_
    | with_reducible refine refuse_of (by with_reducible assumption) ?_
    | dsimp only
    | split

theorem Held.fetchWords (k : Nat) (c : Core) (a : Dbl) (i : Nat) (z4 : Nat) (h : Held v s) : FetchHeld v (State.fetchWords s k c a i z4) := by
  induction z4 generalizing s k c a i with
  | zero =>
    unfold State.fetchWords
    repeat' first | with_reducible assumption | with_reducible apply fetch_ok
  | succ n0 ih =>
    unfold State.fetchWords
    repeat' first
      | with_reducible assumption
      | with_reducible apply ih
      | with_reducible apply fetch_hold
      | with_reducible apply fetch_ok
      | with_reducible apply fetch_bad
      | with_reducible apply Held.fetchWord
      | with_reducible refine fetchw_hold_of (by with_reducible assumption) ?_
      | with_reducible refine fetchw_bad_of (by with_reducible assumption) ?_
      | with_reducible refine fetchw_ok_of (by with_reducible assumption) ?_
      | with_reducible refine fetch_hold_of (by with_reducible assumption) ?_
      | with_reducible refine fetch_ok_of (by with_reducible assumption) ?_
      | with_reducible refine fetch_bad_of (by with_reducible assumption) ?_
      | split

theorem Held.fetchExc (k : Nat) (code : Nat) (sub : Nat) (a : Dbl) (h : Held v s) : OutHeld v (State.fetchExc s k code sub a) := by
  unfold State.fetchExc
  repeat' first | with_reducible assumption | with_reducible apply Held.takeExc

theorem Held.deliverFault (k : Nat) (h : Held v s) : OutHeld v (s.deliverFault k) := by
  have hd := h.drainLoads k
  unfold State.deliverFault
  cases e : s.drainLoads k with
  | hold t => rw [e] at hd; exact out_ok hd
  | done t b =>
    rw [e] at hd
    cases b with
    | some f => exact Held.loadFault _ _ hd
    | none =>
      have hr := Held.room k 3 hd
      dsimp only
      cases e2 : t.room k 3 with
      | hold u => rw [e2] at hr; exact out_ok hr
      | done u => rw [e2] at hr; exact Held.enter _ _ (Held.setCore _ _ hr)

theorem Held.checkpoint (k : Nat) (h : Held v s) : Held v (State.checkpoint s k) := by
  unfold State.checkpoint
  repeat' first | with_reducible assumption | with_reducible apply Held.setCb

theorem Held.oldest (k : Nat) (h : Held v s) : Held v (State.oldest s k) := by
  unfold State.oldest
  repeat' first
    | with_reducible assumption
    | with_reducible apply Held.checkpoint
    | with_reducible apply Held.setCb
    | with_reducible apply Held.setCore
    | dsimp only
    | split

theorem Held.stopAll (k : Nat) (h : Held v s) : Held v (State.stopAll s k) := by
  unfold State.stopAll
  repeat' first | with_reducible assumption | with_reducible apply Held.setCore

theorem Held.faultOldest (k : Nat) (f : VFault) (h : Held v s) : Held v (State.faultOldest s k f) := by
  unfold State.faultOldest
  repeat' first
    | with_reducible assumption
    | with_reducible apply Held.stopAll
    | with_reducible apply Held.checkpoint
    | with_reducible apply Held.onCore
    | with_reducible apply Held.setCore
    | dsimp only
    | split

theorem Held.rejectGroup (k : Nat) (g : Group) (f : VFault) (h : Held v s) : Held v (State.rejectGroup s k g f) := by
  unfold State.rejectGroup
  repeat' first
    | with_reducible assumption
    | with_reducible apply Held.oldest
    | with_reducible apply Held.setCore
    | dsimp only
    | split

theorem Held.launch (k : Nat) (g : Group) (h : Held v s) : Held v (State.launch s k g) := by
  unfold State.launch
  repeat' first
    | with_reducible assumption
    | with_reducible apply Held.rejectGroup
    | with_reducible apply Held.oldest
    | with_reducible apply Held.onCore
    | with_reducible apply Held.setCore
    | dsimp only
    | split

theorem Held.afterGroups (k : Nat) (c : Core) (wait : Out) (body : Out) (hwait : OutHeld v wait) (hbody : OutHeld v body) (h : Held v s) : OutHeld v (State.afterGroups s k c wait body) := by
  unfold State.afterGroups
  repeat' first | with_reducible assumption | with_reducible apply out_ok | with_reducible apply Held.deliverFault | split

theorem Held.faultLog (k : Nat) (f : VFault) (h : Held v s) : Held v (State.faultLog s k f) := by
  unfold State.faultLog
  repeat' first
    | with_reducible assumption
    | with_reducible apply Held.gate
    | with_reducible refine refuse_of (by with_reducible assumption) ?_
    | split

theorem Held.stepElements (k : Nat) (g : Group) (p : Plan) (z3 : Nat) (h : Held v s) : Held v (State.stepElements s k g p z3).1 := by
  induction z3 generalizing s k g p with
  | zero =>
    unfold State.stepElements
    repeat' first | with_reducible assumption
  | succ n0 ih =>
    unfold State.stepElements
    repeat' first | with_reducible assumption | with_reducible apply ih | with_reducible apply Held.faultLog | dsimp only | split

theorem Held.coefRead (k : Nat) (off : Nat) (h : Held v s) : Held v (State.coefRead s k off).1 := by
  unfold State.coefRead
  repeat' first | with_reducible assumption | with_reducible apply Held.readSram

theorem Held.laneSum (k : Nat) (ef : BitVec 2) (z2 : List (Nat × Int)) (z3 : Int) (h : Held v s) : Held v (State.laneSum s k ef z2 z3).1 := by
  induction z2 generalizing s k ef z3 with
  | nil =>
    unfold State.laneSum
    repeat' first | with_reducible assumption
  | cons x0 l0 ih =>
    unfold State.laneSum
    repeat' first
      | with_reducible assumption
      | with_reducible apply ih
      | with_reducible apply Held.coefRead
      | with_reducible refine held_fst (by with_reducible assumption) ?_
      | split

theorem Held.laneSums (k : Nat) (ef : BitVec 2) (c : Nat) (ab : List (Nat × Int)) (l : Nat) (z5 : Nat) (h : Held v s) : Held v (State.laneSums s k ef c ab l z5).1 := by
  induction z5 generalizing s k ef c ab l with
  | zero =>
    unfold State.laneSums
    repeat' first | with_reducible assumption
  | succ n0 ih =>
    unfold State.laneSums
    repeat' first
      | with_reducible assumption
      | with_reducible apply ih
      | with_reducible apply Held.laneSum
      | with_reducible refine held_fst (by with_reducible assumption) ?_
      | split

theorem Held.stepDots (k : Nat) (g : Group) (p : Plan) (kd : Nat) (cb : Nat) (ta : Nat) (tb : Nat) (sg : Nat) (ef : BitVec 2) (sat : BitVec 2) (h : Held v s) : Held v (State.stepDots s k g p kd cb ta tb sg ef sat).1 := by
  unfold State.stepDots
  repeat' first
    | with_reducible assumption
    | with_reducible apply Held.laneSums
    | with_reducible apply Held.faultLog
    | with_reducible refine held_fst (by with_reducible assumption) ?_
    | dsimp only
    | split

theorem Held.stepGroup (k : Nat) (g : Group) (put : State → Group → State) (hput : ∀ t g, Held v t → Held v (put t g)) (h : Held v s) : Held v (State.stepGroup s k g put) := by
  unfold State.stepGroup
  repeat' first
    | with_reducible assumption
    | with_reducible apply Held.stepDots
    | with_reducible apply Held.stepElements
    | with_reducible apply Held.turns
    | with_reducible apply Held.scramble
    | with_reducible apply hput
    | split

theorem Held.applyAccs (k : Nat) (z1 : List (Nat × AccOp)) (z2 : Bool) (h : Held v s) : Held v (State.applyAccs s k z1 z2).1 := by
  induction z1 generalizing s k z2 with
  | nil =>
    unfold State.applyAccs
    repeat' first | with_reducible assumption
  | cons x0 l0 ih =>
    unfold State.applyAccs
    repeat' first | with_reducible assumption | with_reducible apply ih | with_reducible apply Held.onCore

theorem Held.mergeGroup (k : Nat) (f : Flags) (h : Held v s) : Held v (State.mergeGroup s k f) := by
  unfold State.mergeGroup
  repeat' first | with_reducible assumption | with_reducible apply Held.onCore

theorem Held.commitWrites (free : Bool) (z1 : List (Nat × Word × Nat × Nat)) (h : Held v s) : Held v (State.commitWrites s free z1) := by
  induction z1 generalizing s free with
  | nil =>
    unfold State.commitWrites
    repeat' first | with_reducible assumption
  | cons x0 l0 ih =>
    unfold State.commitWrites
    repeat' first
      | with_reducible assumption
      | with_reducible apply ih
      | with_reducible apply Held.writeLoc
      | with_reducible apply Held.draw
      | split

theorem Held.commitCoefs (k : Nat) (free : Bool) (z2 : List (Nat × Word × Nat)) (h : Held v s) : Held v (State.commitCoefs s k free z2) := by
  induction z2 generalizing s k free with
  | nil =>
    unfold State.commitCoefs
    repeat' first | with_reducible assumption
  | cons x0 l0 ih =>
    unfold State.commitCoefs
    repeat' first
      | with_reducible assumption
      | with_reducible apply ih
      | with_reducible apply Held.writeStore
      | with_reducible apply Held.draw
      | split

theorem Held.writeWaits (k : Nat) (l : List (Nat × Word × Nat × Nat)) (h : Held v s) : OptHeld v (State.writeWaits s k l) := by
  unfold State.writeWaits
  repeat' first
    | with_reducible assumption
    | with_reducible apply opt_none
    | with_reducible apply opt_some
    | with_reducible apply Held.gate
    | with_reducible apply opt_findSome
    | with_reducible refine wait_of (by with_reducible assumption) ?_
    | split
    | intro _

theorem Held.writeRefused (k : Nat) (l : List (Nat × Word × Nat × Nat)) (h : Held v s) : OptFst v (State.writeRefused s k l) := by
  unfold State.writeRefused
  repeat' first
    | with_reducible assumption
    | with_reducible apply optFst_none
    | with_reducible apply optFst_some
    | with_reducible apply Held.gate
    | with_reducible refine refuse_of (by with_reducible assumption) ?_
    | dsimp only
    | split

theorem Held.maybeCommit (k : Nat) (free : Bool) (z2 : List (Nat × Word × Nat × Nat)) (h : Held v s) : Held v (State.maybeCommit s k free z2) := by
  induction z2 generalizing s k free with
  | nil =>
    unfold State.maybeCommit
    repeat' first | with_reducible assumption
  | cons x0 l0 ih =>
    unfold State.maybeCommit
    repeat' first
      | with_reducible assumption
      | with_reducible apply ih
      | with_reducible apply Held.commitWrites
      | with_reducible apply Held.drawBool
      | split

theorem Held.commitElement (k : Nat) (g : Group) (rest : List Group) (e : ElemOut) (q : List ElemOut) (h : Held v s) : Held v (State.commitElement s k g rest e q) := by
  unfold State.commitElement
  repeat' first
    | with_reducible assumption
    | with_reducible apply Held.commitCoefs
    | with_reducible apply Held.commitWrites
    | with_reducible apply Held.mergeGroup
    | with_reducible apply Held.applyAccs
    | with_reducible apply Held.checkpoint
    | with_reducible apply Held.gate
    | with_reducible apply Held.freeLanes
    | with_reducible apply Held.onCore
    | with_reducible apply Held.foldl
    | with_reducible refine go_of (by with_reducible assumption) ?_
    | intro _ _ _
    | dsimp only
    | split

theorem Held.reissueList (k : Nat) (c : Core) (z2 : List Group) (h : Held v s) : ReissueHeld v (State.reissueList s k c z2) := by
  induction z2 generalizing s k c with
  | nil =>
    unfold State.reissueList
    repeat' first | with_reducible assumption | with_reducible apply reissue_done
  | cons x0 l0 ih =>
    unfold State.reissueList
    repeat' first
      | with_reducible assumption
      | with_reducible apply ih
      | with_reducible apply reissue_hold
      | with_reducible apply reissue_done
      | with_reducible apply Held.launch
      | with_reducible apply Held.rejectGroup
      | with_reducible apply Held.fetchWords
      | with_reducible apply Held.onCore
      | with_reducible refine fetch_hold_of (by with_reducible assumption) ?_
      | with_reducible refine fetch_ok_of (by with_reducible assumption) ?_
      | with_reducible refine fetch_bad_of (by with_reducible assumption) ?_
      | dsimp only
      | split

theorem Held.reissue (k : Nat) (c : Core) (h : Held v s) : ReissueHeld v (State.reissue s k c) := by
  unfold State.reissue
  repeat' first
    | with_reducible assumption
    | with_reducible apply reissue_hold
    | with_reducible apply reissue_done
    | with_reducible apply Held.reissueList
    | with_reducible apply Held.onCore
    | with_reducible apply Held.setCore
    | with_reducible refine reissue_hold_of (by with_reducible assumption) ?_
    | with_reducible refine reissue_done_of (by with_reducible assumption) ?_
    | dsimp only
    | split

end Sys2Proof.Machine
end

