-- ==== Sys2Proof/Laws/HeldSystem.lean ====
section
/-! SUPPORT. What the operations of Machine/System.lean leave as it is. -/

namespace Sys2Proof.Machine

variable {v : Fixed} {s : State}

theorem Held.drained1 (k : Nat) (body : State → Out) (hbody : ∀ t, Held v t → OutHeld v (body t)) (h : Held v s) : OutHeld v (State.drained1 s k body) := by
  unfold State.drained1
  repeat' first
    | with_reducible assumption
    | with_reducible apply out_ok
    | with_reducible apply Held.drainStores
    | with_reducible apply hbody
    | with_reducible refine perf_hold_of (by with_reducible assumption) ?_
    | with_reducible refine perf_done_of (by with_reducible assumption) ?_
    | split

theorem Held.ctlAccess (k : Nat) (n : Nat) (rd : Bool) (legal : Bool) (body : Core → Out) (hbody : ∀ c, OutHeld v (body c)) (h : Held v s) : OutHeld v (State.ctlAccess s k n rd legal body) := by
  unfold State.ctlAccess
  repeat' first
    | with_reducible assumption
    | with_reducible apply out_ok
    | with_reducible apply Held.instr
    | with_reducible apply Held.privFault
    | with_reducible apply Held.illegal
    | with_reducible apply hbody
    | split
    | intro _

theorem Held.mtc (k : Nat) (n : Nat) (rs : BitVec 5) (h : Held v s) : OutHeld v (State.mtc s k n rs) := by
  unfold State.mtc
  repeat' first
    | with_reducible assumption
    | with_reducible apply Held.ctlAccess
    | with_reducible apply Held.done
    | with_reducible apply Held.draw
    | dsimp only
    | split
    | intro _

theorem Held.gateFault (k : Nat) (sub : Nat) (h : Held v s) : OutHeld v (State.gateFault s k sub) := by
  unfold State.gateFault
  repeat' first | with_reducible assumption | with_reducible apply Held.takeExc

theorem Held.callGate (k : Nat) (t : Priv) (g : Nat) (tgt : Dbl) (h : Held v s) : OutHeld v (State.callGate s k t g tgt) := by
  unfold State.callGate
  repeat' first
    | with_reducible assumption
    | with_reducible apply out_ok
    | with_reducible apply Held.pushFrame
    | with_reducible apply Held.stackFault
    | with_reducible apply Held.haltCore
    | with_reducible apply Held.onCore
    | with_reducible refine push_hold_of (by with_reducible assumption) ?_
    | with_reducible refine push_done_of (by with_reducible assumption) ?_
    | dsimp only
    | split

theorem Held.gateEntered (k : Nat) (c0 : Core) (t : Priv) (g : Nat) (e : GateEntry) (h : Held v s) : OutHeld v (State.gateEntered s k c0 t g e) := by
  unfold State.gateEntered
  repeat' first | with_reducible assumption | with_reducible apply Held.callGate | with_reducible apply Held.gateFault | split

theorem Held.readFrame (k : Nat) (rfg : Bool) (h : Held v s) : FrameHeld v (State.readFrame s k rfg) := by
  unfold State.readFrame
  repeat' first
    | with_reducible assumption
    | with_reducible apply frame_hold
    | with_reducible apply frame_fail
    | with_reducible apply frame_got
    | with_reducible apply Held.readMixed
    | with_reducible refine rd_hold_of (by with_reducible assumption) ?_
    | with_reducible refine rd_got_of (by with_reducible assumption) ?_
    | dsimp only
    | split

theorem Held.finishReturn (k : Nat) (rfg : Bool) (f : Dbl) (ws : List Word) (h : Held v s) : OutHeld v (State.finishReturn s k rfg f ws) := by
  unfold State.finishReturn
  repeat' first
    | with_reducible assumption
    | with_reducible apply out_ok
    | with_reducible apply Held.reissue
    | with_reducible apply Held.takeExc
    | with_reducible apply Held.done
    | with_reducible refine reissue_hold_of (by with_reducible assumption) ?_
    | with_reducible refine reissue_done_of (by with_reducible assumption) ?_
    | dsimp only
    | split

theorem Held.return (k : Nat) (rfg : Bool) (h : Held v s) : OutHeld v (State.return s k rfg) := by
  unfold State.return
  repeat' first
    | with_reducible assumption
    | with_reducible apply out_ok
    | with_reducible apply Held.finishReturn
    | with_reducible apply Held.readFrame
    | with_reducible apply Held.drained1
    | with_reducible apply Held.instr
    | with_reducible apply Held.privFault
    | with_reducible apply Held.loadFault
    | with_reducible apply Held.stackFault
    | with_reducible apply Held.haltCore
    | with_reducible apply Held.drainLoads
    | with_reducible refine drain_hold_of (by with_reducible assumption) ?_
    | with_reducible refine drain_done_of (by with_reducible assumption) ?_
    | with_reducible refine frame_hold_of (by with_reducible assumption) ?_
    | with_reducible refine frame_fail_of (by with_reducible assumption) ?_
    | with_reducible refine frame_got_of (by with_reducible assumption) ?_
    | split
    | intro _

theorem Held.setDeadline (c : Nat) (v0 : BitVec 60) (h : Held v s) : Held v (State.setDeadline s c v0) := by
  unfold State.setDeadline
  repeat' first | with_reducible assumption | with_reducible apply Held.setCb

theorem Held.cbReads (who : LogWho) (c : Nat) (z2 : List Nat) (h : Held v s) : Held v (State.cbReads s who c z2).1 := by
  induction z2 generalizing s who c with
  | nil =>
    unfold State.cbReads
    repeat' first | with_reducible assumption
  | cons x0 l0 ih =>
    unfold State.cbReads
    repeat' first
      | with_reducible assumption
      | with_reducible apply ih
      | with_reducible apply Held.cbRead
      | with_reducible refine held_fst (by with_reducible assumption) ?_
      | split

theorem Held.waitAccess (c : Nat) (ws : Word) (wt : Word) (h : Held v s) : Held v (State.waitAccess s c ws wt).1 := by
  unfold State.waitAccess
  repeat' first | with_reducible assumption | with_reducible apply Held.setDeadline | with_reducible apply Held.setCb | split

theorem Held.fetchFails (k : Nat) (code : Nat) (sub : Nat) (a : Dbl) (h : Held v s) : OutHeld v (State.fetchFails s k code sub a) := by
  unfold State.fetchFails
  repeat' first
    | with_reducible assumption
    | with_reducible apply out_ok
    | with_reducible apply Held.fetchExc
    | with_reducible apply Held.takeExc
    | with_reducible apply Held.haltCore
    | dsimp only
    | split

theorem Held.refill (k : Nat) (z1 : List Nat) (h : Held v s) : Held v (State.refill s k z1).1 := by
  induction z1 generalizing s k with
  | nil =>
    unfold State.refill
    repeat' first | with_reducible assumption
  | cons x0 l0 ih =>
    unfold State.refill
    repeat' first | with_reducible assumption | with_reducible apply ih | with_reducible apply Held.readSram

end Sys2Proof.Machine
end

