-- ==== Sys2Proof/Laws/HeldMemory.lean ====
section
/-! SUPPORT. What the operations of Machine/Memory.lean leave as it is. -/

namespace Sys2Proof.Machine

variable {v : Fixed} {s : State}

theorem Held.loadOp (k : Nat) (e : MemEa) (legal : Bool) (fv : Bool) (sv : Bool) (n : Nat) (m : Nat) (slots : Core → List Slot) (h : Held v s) : OutHeld v (State.loadOp s k e legal fv sv n m slots) := by
  unfold State.loadOp
  repeat' first
    | with_reducible assumption
    | with_reducible apply Held.load
    | with_reducible apply Held.instr
    | with_reducible apply Held.illegal
    | with_reducible apply Held.fault
    | split
    | intro _

theorem Held.storeOp (k : Nat) (e : MemEa) (legal : Bool) (fv : Bool) (sv : Bool) (m : Nat) (ws : Core → List Word) (h : Held v s) : OutHeld v (State.storeOp s k e legal fv sv m ws) := by
  unfold State.storeOp
  repeat' first
    | with_reducible assumption
    | with_reducible apply Held.store
    | with_reducible apply Held.instr
    | with_reducible apply Held.illegal
    | with_reducible apply Held.fault
    | split
    | intro _

theorem Held.atomic (k : Nat) (d : BitVec 5) (a : Nat) (needs : List Need) (act : State → Word → State × Word) (hact : ∀ t w, Held v t → Held v (act t w).1) (h : Held v s) : OutHeld v (State.atomic s k d a needs act) := by
  unfold State.atomic
  repeat' first
    | with_reducible assumption
    | with_reducible apply out_ok
    | with_reducible apply Held.dataFault
    | with_reducible apply Held.instr
    | with_reducible apply Held.drainStores
    | with_reducible apply Held.captureLoads
    | with_reducible apply Held.readAll
    | with_reducible apply Held.done
    | with_reducible apply hact
    | with_reducible refine perf_hold_of (by with_reducible assumption) ?_
    | with_reducible refine perf_done_of (by with_reducible assumption) ?_
    | with_reducible refine rd_hold_of (by with_reducible assumption) ?_
    | with_reducible refine rd_got_of (by with_reducible assumption) ?_
    | dsimp only
    | split
    | intro _

end Sys2Proof.Machine
end

