-- ==== Sys2Proof/Laws/HeldHosting.lean ====
section
/-! SUPPORT. What the operations of Machine/Hosting.lean leave as it is. -/

namespace Sys2Proof.Machine

variable {v : Fixed} {s : State}

theorem Held.barGet (b : Bar) (a : Nat) (h : Held v s) : BusHeld v (State.barGet s b a) := by
  unfold State.barGet
  repeat' first | with_reducible assumption | with_reducible apply bus_bad | with_reducible apply Held.busRead | split

theorem Held.barPut (b : Bar) (a : Nat) (v0 : Word) (h : Held v s) : BusHeld v (State.barPut s b a v0) := by
  unfold State.barPut
  repeat' first | with_reducible assumption | with_reducible apply bus_bad | with_reducible apply Held.busWrite | split

theorem Held.cpl (c : Cpl) (h : Held v s) : Held v (State.cpl s c) := by
  unfold State.cpl
  repeat' first | with_reducible assumption | dsimp only | with_reducible apply Held.upd

theorem Held.barRead (b : Bar) (off : Nat) (z2 : Nat) (z3 : Nat) (h : Held v s) : Held v (State.barRead s b off z2 z3) := by
  induction z3 generalizing s b off z2 with
  | zero =>
    unfold State.barRead
    repeat' first | with_reducible assumption
  | succ n0 ih =>
    unfold State.barRead
    repeat' first
      | with_reducible assumption
      | with_reducible apply ih
      | with_reducible apply Held.cpl
      | with_reducible apply Held.barGet
      | with_reducible apply Held.hostErr
      | with_reducible apply Held.aerSet
      | with_reducible refine hold_of (by with_reducible assumption) ?_
      | with_reducible refine bad_of (by with_reducible assumption) ?_
      | with_reducible refine done_of (by with_reducible assumption) ?_
      | dsimp only
      | split

theorem Held.bar4Get (off : Nat) (h : Held v s) : Held v (State.bar4Get s off).1 := by
  unfold State.bar4Get
  repeat' first | with_reducible assumption | with_reducible apply Held.draw | dsimp only | split

theorem Held.bar4Read (off : Nat) (z1 : Nat) (h : Held v s) : Held v (State.bar4Read s off z1) := by
  induction z1 generalizing s off with
  | zero =>
    unfold State.bar4Read
    repeat' first | with_reducible assumption
  | succ n0 ih =>
    unfold State.bar4Read
    repeat' first
      | with_reducible assumption
      | with_reducible apply ih
      | with_reducible apply Held.bar4Get
      | with_reducible apply Held.cpl

theorem Held.msixPut (k : Nat) (v0 : BitVec 32) (h : Held v s) : Held v (State.msixPut s k v0) := by
  unfold State.msixPut
  repeat' first
    | with_reducible assumption
    | with_reducible apply Held.msixRelease
    | dsimp only
    | split
    | with_reducible apply Held.upd

theorem Held.bar4Write (off : Nat) (z1 : List HostDword) (h : Held v s) : Held v (State.bar4Write s off z1) := by
  induction z1 generalizing s off with
  | nil =>
    unfold State.bar4Write
    repeat' first | with_reducible assumption
  | cons x0 l0 ih =>
    unfold State.bar4Write
    repeat' first | with_reducible assumption | with_reducible apply ih | with_reducible apply Held.msixPut | split

theorem Held.barWrite (b : Bar) (off : Nat) (z2 : Nat) (z3 : List HostDword) (h : Held v s) : Held v (State.barWrite s b off z2 z3) := by
  induction z3 generalizing s b off z2 with
  | nil =>
    unfold State.barWrite
    repeat' first | with_reducible assumption
  | cons x0 l0 ih =>
    unfold State.barWrite
    repeat' first
      | with_reducible assumption
      | with_reducible apply ih
      | with_reducible apply Held.barPut
      | with_reducible apply Held.hostErr
      | with_reducible refine hold_of (by with_reducible assumption) ?_
      | with_reducible refine bad_of (by with_reducible assumption) ?_
      | with_reducible refine done_of (by with_reducible assumption) ?_
      | dsimp only
      | split

end Sys2Proof.Machine
end

