-- ==== Sys2Proof/Laws/HeldSwitch.lean ====
section
/-! SUPPORT. What the operations of Machine/Switch.lean leave as it is. -/

namespace Sys2Proof.Machine

variable {v : Fixed} {s : State}

theorem Held.cmdBy (who : Master) (op : BitVec 4) (h : Held v s) : OutHeld v (State.cmdBy s who op) := by
  unfold State.cmdBy
  repeat' first | with_reducible assumption | with_reducible apply Held.writeBy

theorem Held.rebuildOne (c : Nat) (h : Held v s) : Held v (State.rebuildOne s c) := by
  unfold State.rebuildOne
  repeat' first
    | with_reducible assumption
    | with_reducible apply Held.countIn
    | with_reducible apply Held.enqueue
    | with_reducible apply Held.setCtxState
    | with_reducible apply Held.cbRead
    | with_reducible refine held_fst (by with_reducible assumption) ?_
    | dsimp only
    | split

theorem Held.installVec (k : Nat) (v0 : VecIn) (h : Held v s) : ReissueHeld v (State.installVec s k v0) := by
  unfold State.installVec
  repeat' first
    | with_reducible assumption
    | with_reducible apply reissue_done
    | with_reducible apply Held.reissue
    | with_reducible apply Held.oldest
    | with_reducible apply Held.setCore
    | dsimp only
    | split

theorem Held.storeVec (k : Nat) (o : Outgoing) (h : Held v s) : Held v (State.storeVec s k o) := by
  unfold State.storeVec
  repeat' first | with_reducible assumption | with_reducible apply Held.setCore

theorem Held.saveRuns (k : Nat) (a : Nat) (z2 : List (Nat × List Word)) (h : Held v s) : Held v (State.saveRuns s k a z2).1 := by
  induction z2 generalizing s k a with
  | nil =>
    unfold State.saveRuns
    repeat' first | with_reducible assumption
  | cons x0 l0 ih =>
    unfold State.saveRuns
    repeat' first
      | with_reducible assumption
      | with_reducible apply ih
      | with_reducible apply Held.writeLocs
      | with_reducible apply Held.hbmWrite
      | with_reducible refine held_fst (by with_reducible assumption) ?_
      | split

theorem Held.switchedOut (o : Outgoing) (saved : Bool) (h : Held v s) : Held v (State.switchedOut s o saved) := by
  unfold State.switchedOut
  repeat' first
    | with_reducible assumption
    | with_reducible apply Held.toFaulted
    | with_reducible apply Held.toReady
    | with_reducible apply Held.countOut
    | with_reducible apply Held.dequeue
    | with_reducible apply Held.setCtxState
    | dsimp only
    | split

theorem Held.unbind (k : Nat) (h : Held v s) : Held v (State.unbind s k) := by
  unfold State.unbind
  repeat' first | with_reducible assumption | with_reducible apply Held.unclaim | with_reducible apply Held.onCore

theorem Held.waitResult (k : Nat) (x : Nat) (h : Held v s) : Held v (State.waitResult s k x) := by
  unfold State.waitResult
  repeat' first
    | with_reducible assumption
    | with_reducible apply Held.forgetWait
    | with_reducible apply Held.clearCauses
    | with_reducible apply Held.onCore
    | dsimp only
    | split

theorem Held.started (k : Nat) (x : Nat) (save : Word) (l : List (Nat × Word)) (h : Held v s) : Held v (State.started s k x save l) := by
  unfold State.started
  repeat' first
    | with_reducible assumption
    | with_reducible apply Held.waitResult
    | with_reducible apply Held.setCtxState
    | with_reducible apply Held.onCore

end Sys2Proof.Machine
end

