-- ==== Sys2Proof/Laws/HeldLedger.lean ====
section
/-! SUPPORT. What the operations of Machine/Ledger.lean leave as it is. -/

namespace Sys2Proof.Machine

variable {v : Fixed} {s : State}

theorem Held.setSig (kind : Nat) (t : Nat) (pass : Bool) (h : Held v s) : Held v (State.setSig s kind t pass) := by
  unfold State.setSig
  repeat' first | with_reducible assumption | with_reducible apply Held.draw | dsimp only | split | with_reducible apply Held.upd

theorem Held.regionRolled (n : Nat) (bad : Option (BitVec 7)) (h : Held v s) : Held v (State.regionRolled s n bad) := by
  unfold State.regionRolled
  repeat' first
    | with_reducible assumption
    | with_reducible apply Held.setSig
    | with_reducible apply Held.setRollSt
    | with_reducible apply Held.keeperIrq
    | with_reducible apply Held.onRgn
    | with_reducible exact id
    | with_reducible exact SMap.wf_purge _ _ _
    | with_reducible apply Held.lit

theorem Held.clusterRolled (k : Nat) (bad : Option (BitVec 7)) (h : Held v s) : Held v (State.clusterRolled s k bad) := by
  unfold State.clusterRolled
  repeat' first
    | with_reducible assumption
    | with_reducible apply Held.setSig
    | with_reducible apply Held.setRollSt
    | with_reducible apply Held.keeperIrq
    | with_reducible apply Held.onCore
    | dsimp only
    | with_reducible exact id
    | with_reducible exact SMap.wf_purge _ _ _
    | with_reducible apply Held.lit

end Sys2Proof.Machine
end

