-- ==== Sys2Proof/Laws/HeldResets.lean ====
section
/-! SUPPORT. What the operations of Machine/Resets.lean leave as it is. -/

namespace Sys2Proof.Machine

variable {v : Fixed} {s : State}

theorem Held.blurOld (z0 : List (Nat × BitVec 31 × BitVec 31)) (h : Held v s) : Held v (State.blurOld s z0) := by
  induction z0 generalizing s  with
  | nil =>
    unfold State.blurOld
    repeat' first | with_reducible assumption
  | cons x0 l0 ih =>
    unfold State.blurOld
    repeat' first
      | with_reducible assumption
      | with_reducible apply ih
      | with_reducible apply Held.drawBool
      | split
      | with_reducible exact id
      | with_reducible exact SMap.wf_set _ _ _ _
      | with_reducible apply Held.lit

theorem Held.blurWrites (k : Nat) (free : Bool) (z2 : List (Nat × Word)) (h : Held v s) : Held v (State.blurWrites s k free z2) := by
  induction z2 generalizing s k free with
  | nil =>
    unfold State.blurWrites
    repeat' first | with_reducible assumption
  | cons x0 l0 ih =>
    unfold State.blurWrites
    repeat' first
      | with_reducible assumption
      | with_reducible apply ih
      | with_reducible apply Held.gate
      | with_reducible apply Held.writeLoc
      | with_reducible apply Held.drawBool
      | with_reducible apply Held.draw
      | with_reducible refine go_of (by with_reducible assumption) ?_
      | split

theorem Held.blurNew (k : Nat) (base : Nat) (free : Bool) (z3 : Nat) (z4 : List ElemOut) (h : Held v s) : Held v (State.blurNew s k base free z3 z4) := by
  induction z4 generalizing s k base free z3 with
  | nil =>
    unfold State.blurNew
    repeat' first | with_reducible assumption
  | cons x0 l0 ih =>
    unfold State.blurNew
    repeat' first
      | with_reducible assumption
      | with_reducible apply ih
      | with_reducible apply Held.blurWrites
      | dsimp only
      | split

theorem Held.blurGroup (k : Nat) (h : Held v s) : Held v (State.blurGroup s k) := by
  unfold State.blurGroup
  repeat' first
    | with_reducible assumption
    | with_reducible apply Held.blurNew
    | with_reducible apply Held.blurOld
    | dsimp only
    | split

theorem Held.quietly (f : State → State) (hf : ∀ t, Held v t → Held v (f t)) (h : Held v s) : Held v (State.quietly s f) := by
  unfold State.quietly
  repeat' first | with_reducible assumption | with_reducible apply hf | dsimp only | with_reducible apply Held.upd

theorem Held.answerAll (n : Nat) (z1 : Nat) (h : Held v s) : Held v (State.answerAll s n z1) := by
  induction z1 generalizing s n with
  | zero =>
    unfold State.answerAll
    repeat' first | with_reducible assumption
  | succ n0 ih =>
    unfold State.answerAll
    repeat' first | with_reducible assumption | with_reducible apply ih | with_reducible apply Held.dmaWriteResp

theorem Held.cutChannel (n : Nat) (h : Held v s) : Held v (State.cutChannel s n) := by
  unfold State.cutChannel
  repeat' first
    | with_reducible assumption
    | with_reducible apply Held.answerAll
    | with_reducible apply Held.quietly
    | with_reducible apply Held.abortWrites
    | with_reducible apply Held.setChan
    | intro _

theorem Held.performSome (k m : Nat) (h : Held v s) : Held v (s.performSome k m) := by
  induction m generalizing s with
  | zero => exact h
  | succ m ih =>
    have hp := h.performStore k
    unfold State.performSome
    cases e : s.performStore k with
    | hold t => rw [e] at hp; exact hp
    | done t => rw [e] at hp; exact ih hp

theorem Held.cutStores (k : Nat) (h : Held v s) : Held v (State.cutStores s k) := by
  unfold State.cutStores
  repeat' first
    | with_reducible assumption
    | with_reducible apply Held.performSome
    | with_reducible apply Held.quietly
    | with_reducible apply Held.logAt
    | with_reducible apply Held.draw
    | dsimp only
    | split
    | intro _

theorem Held.failRunning  (h : Held v s) : Held v (State.failRunning s) := by
  unfold State.failRunning
  repeat' first
    | with_reducible assumption
    | with_reducible apply Held.toFaulted
    | with_reducible apply Held.foldl
    | intro _ _ _
    | split

theorem Held.portsOff  (h : Held v s) : Held v (State.portsOff s) := by
  unfold State.portsOff
  repeat' first
    | with_reducible assumption
    | with_reducible apply Held.portOff
    | with_reducible apply Held.onPort
    | with_reducible apply Held.foldl
    | intro _ _ _
    | split

theorem Held.warmReset (src : BitVec 3) (hold : ResetHold) (h : Held v s) : Held v (s.warmReset src hold) := by
  have h1 : Held v ((List.range 96).foldl (fun s n => if (s.chan n).wq.isEmpty then s else s.cutChannel n) s) :=
    h.foldl _ (fun s n hs => by split; exact hs; exact hs.cutChannel _) _
  have h2 := Held.foldl State.blurGroup (fun s n hs => hs.blurGroup n) (List.range 96) h1
  have h3 := (Held.foldl State.cutStores (fun s n hs => hs.cutStores n) (List.range 96) h2).failRunning
  unfold State.warmReset
  dsimp only
  generalize ((List.range 96).foldl State.cutStores ((List.range 96).foldl State.blurGroup
    ((List.range 96).foldl (fun s n => if (s.chan n).wq.isEmpty then s else s.cutChannel n) s))).failRunning = t at h3 ⊢
  have h4 : Held v ({ t with host := {} } : State).portsOff := Held.portsOff (Held.upd h3)
  generalize ({ t with host := {} } : State).portsOff = u at h4 ⊢
  refine Held.foldl _ (fun s n hs => hs.updateLow n) _ ?_
  exact h4.lit id id (SMap.wf_map _ _ _) (SMap.wf_map _ _ _) (fun _ => rfl) id (SMap.wf_map _ _ _) id

/-- The same values with the life-cycle state and the fuse programming of a state. -/
def Fixed.fusesOf (v : Fixed) (t : State) : Fixed := { v with lc := t.dev.lc, fuse := t.dev.fuseOp }

theorem Dev.programmed_parts (d : Dev) : d.programmed.disabled = d.disabled ∧ d.programmed.gx4816 = d.gx4816 := by
  unfold Dev.programmed
  split <;> exact ⟨rfl, rfl⟩

theorem Held.cutFuses (h : Held v s) : Held (v.fusesOf s.cutFuses) s.cutFuses := by
  obtain ⟨a, b, c, d, e, f⟩ := h
  unfold State.cutFuses
  dsimp only
  split
  · exact ⟨a, b, rfl, rfl, e, f⟩
  · refine ⟨fun q => ?_, b, rfl, rfl, ?_, ?_⟩
    · obtain ⟨g1, g2, g3, g4, g5, g6, g7⟩ := a q; exact ⟨g1, g2, g3, g4, g5, g6, g7⟩
    · show (if s.drawBool.1 then s.dev.programmed else { s.dev with fuseOp := .none }).disabled = _
      split
      · exact (Dev.programmed_parts _).1.trans e
      · exact e
    · show (if s.drawBool.1 then s.dev.programmed else { s.dev with fuseOp := .none }).gx4816 = _
      split
      · exact (Dev.programmed_parts _).2.trans f
      · exact f

theorem Held.blurCell (c : Nat) (h : Held v s) : Held v (State.blurCell s c) := by
  unfold State.blurCell
  repeat' first | with_reducible assumption | with_reducible apply Held.draw | dsimp only | with_reducible apply Held.upd

theorem Held.cutRecord (slot : Nat) (h : Held v s) : Held v (State.cutRecord s slot) := by
  unfold State.cutRecord
  repeat' first
    | with_reducible assumption
    | with_reducible apply Held.blurCell
    | with_reducible apply Held.draw
    | with_reducible apply Held.foldl
    | dsimp only
    | with_reducible apply Held.upd

theorem Held.cutLedger  (h : Held v s) : Held v (State.cutLedger s) := by
  unfold State.cutLedger
  repeat' first
    | with_reducible assumption
    | with_reducible apply Held.cutRecord
    | with_reducible apply Held.blurCell
    | with_reducible apply Held.foldl
    | split

theorem State.draw_int_dev (t : State) (w : Nat) (x : IntBlk) : ({ (t.draw w).2 with int := x } : State).dev = t.dev := rfl

theorem State.blurCells_dev (l : List Nat) (s : State) : (l.foldl State.blurCell s).dev = s.dev := by
  induction l generalizing s with
  | nil => rfl
  | cons x l ih => exact ih _

theorem State.cutRecord_dev (s : State) (slot : Nat) : (s.cutRecord slot).dev = s.dev :=
  (State.draw_int_dev (((List.range 1022).map (fun i => 1024 * slot + i)).foldl State.blurCell s) 32 _).trans (State.blurCells_dev _ s)

theorem State.cutLedger_dev (s : State) : s.cutLedger.dev = s.dev := by
  unfold State.cutLedger
  split
  · rfl
  · rfl
  · exact State.blurCells_dev _ _
  · exact State.cutRecord_dev _ _

theorem Held.loseAll (h : Held v s) : Held (v.fusesOf s.loseAll) s.loseAll := by
  have h1 := h.cutFuses.cutLedger
  have hd := State.cutLedger_dev s.cutFuses
  unfold State.loseAll
  dsimp only
  generalize s.cutFuses.cutLedger = t at h1 hd ⊢
  obtain ⟨a, b, _, _, e, f⟩ := h1
  exact ⟨fun q => ⟨SMap.wf_purge _ _ (fun a => !(decide (0x20000000 ≤ a) && decide (a < 0x22000000))) (a q).mem, (a q).hbm, rfl, rfl, rfl, rfl, rfl⟩, b, rfl, rfl, e, f⟩

theorem State.loseAll_fuses (s : State) :
    s.loseAll.dev.lc = s.cutFuses.dev.lc ∧ s.loseAll.dev.fuseOp = s.cutFuses.dev.fuseOp := by
  have hd := State.cutLedger_dev s.cutFuses
  unfold State.loseAll
  dsimp only
  generalize s.cutFuses.cutLedger = t at hd ⊢
  exact ⟨congrArg Dev.lc hd, congrArg Dev.fuseOp hd⟩

theorem Held.coldReset (src : BitVec 3) (hold : ResetHold) (h : Held v s) :
    Held (v.fusesOf (s.coldReset src hold)) (s.coldReset src hold) := by
  have h1 := h.loseAll
  unfold State.coldReset
  dsimp only
  generalize s.loseAll = t at h1 ⊢
  exact ⟨fun q => ⟨(h1.1 q).mem, (h1.1 q).hbm, (h1.1 q).cores, (h1.1 q).regions, (h1.1 q).dmas, (h1.1 q).ports, (h1.1 q).timers⟩,
    h1.2.1, rfl, rfl, h1.2.2.2.2.1, h1.2.2.2.2.2⟩

theorem State.coldReset_fuses (s : State) (src : BitVec 3) (hold : ResetHold) :
    (s.coldReset src hold).dev.lc = s.cutFuses.dev.lc ∧ (s.coldReset src hold).dev.fuseOp = s.cutFuses.dev.fuseOp :=
  s.loseAll_fuses

theorem Held.bootCold  (h : Held v s) : Held v (State.bootCold s) := by
  unfold State.bootCold
  repeat' first | with_reducible assumption | dsimp only | split | with_reducible apply Held.updDev | exact ⟨rfl, rfl, rfl, rfl⟩

theorem Held.bootWarm  (h : Held v s) : Held v (State.bootWarm s) := by
  unfold State.bootWarm
  repeat' first | with_reducible assumption | dsimp only | split | with_reducible apply Held.updDev | exact ⟨rfl, rfl, rfl, rfl⟩

theorem Held.linkFall  (h : Held v s) : Held v (State.linkFall s) := by
  unfold State.linkFall
  repeat' first
    | with_reducible assumption
    | with_reducible apply Held.warmReset
    | dsimp only
    | split
    | with_reducible apply Held.upd

theorem Held.startFirmware (slot : BitVec 2) (f : FlashSlot) (h : Held v s) : Held v (State.startFirmware s slot f) := by
  unfold State.startFirmware
  repeat' first | with_reducible assumption | dsimp only | with_reducible apply Held.updDev | exact ⟨rfl, rfl, rfl, rfl⟩

theorem Held.turnOff (trip : Bool) (h : Held v s) : Held (v.fusesOf (s.turnOff trip)) (s.turnOff trip) := by
  have h1 := h.loseAll
  unfold State.turnOff
  dsimp only
  generalize s.loseAll = t at h1 ⊢
  exact ⟨fun q => ⟨(h1.1 q).mem, (h1.1 q).hbm, (h1.1 q).cores, (h1.1 q).regions, (h1.1 q).dmas, (h1.1 q).ports, (h1.1 q).timers⟩,
    h1.2.1, rfl, rfl, h1.2.2.2.2.1, h1.2.2.2.2.2⟩

theorem State.turnOff_fuses (s : State) (trip : Bool) :
    (s.turnOff trip).dev.lc = s.cutFuses.dev.lc ∧ (s.turnOff trip).dev.fuseOp = s.cutFuses.dev.fuseOp :=
  s.loseAll_fuses

end Sys2Proof.Machine
end

