-- ==== Sys2Proof/Laws/HeldControl.lean ====
section
/-! SUPPORT. What the operations of Machine/Control.lean leave as it is. -/

namespace Sys2Proof.Machine

variable {v : Fixed} {s : State}

theorem Held.writeCl (who : Master) (k : Nat) (off : Nat) (v0 : Word) (h : Held v s) : OutHeld v (State.writeCl s who k off v0) := by
  unfold State.writeCl
  repeat' first | with_reducible assumption | with_reducible apply out_noUnit | with_reducible apply Held.writeBy | split

theorem Held.readCl (who : Master) (k : Nat) (off : Nat) (h : Held v s) : OutHeld v (State.readCl s who k off) := by
  unfold State.readCl
  repeat' first | with_reducible assumption | with_reducible apply out_noUnit | with_reducible apply Held.readBy | split

theorem Held.debugRead (a : Nat) (h : Held v s) : DbgHeld v (State.debugRead s a) := by
  unfold State.debugRead
  repeat' first
    | with_reducible assumption
    | with_reducible apply dbg_hold
    | with_reducible apply dbg_bad
    | with_reducible apply dbg_done
    | with_reducible apply Held.busRead
    | with_reducible refine hold_of (by with_reducible assumption) ?_
    | with_reducible refine bad_of (by with_reducible assumption) ?_
    | with_reducible refine done_of (by with_reducible assumption) ?_
    | dsimp only
    | split
    | with_reducible apply Held.upd

theorem Held.debugWrite (a : Nat) (v0 : Word) (h : Held v s) : DbgHeld v (State.debugWrite s a v0) := by
  unfold State.debugWrite
  repeat' first
    | with_reducible assumption
    | with_reducible apply dbg_hold
    | with_reducible apply dbg_bad
    | with_reducible apply dbg_done
    | with_reducible apply Held.busWrite
    | with_reducible refine hold_of (by with_reducible assumption) ?_
    | with_reducible refine bad_of (by with_reducible assumption) ?_
    | with_reducible refine done_of (by with_reducible assumption) ?_
    | split

theorem Held.debugEnd  (h : Held v s) : Held v (State.debugEnd s) := by
  unfold State.debugEnd
  repeat' first | with_reducible assumption | dsimp only | split | with_reducible apply Held.upd

end Sys2Proof.Machine
end

