-- ==== Sys2Proof/Laws/HeldPorts.lean ====
section
/-! SUPPORT. What the operations of Machine/Ports.lean leave as it is. -/

namespace Sys2Proof.Machine

variable {v : Fixed} {s : State}

theorem Held.onLink (p : Nat) (f : State → State) (hf : ∀ t, Held v t → Held v (f t)) (h : Held v s) : OutHeld v (State.onLink s p f) := by
  unfold State.onLink
  repeat' first
    | with_reducible assumption
    | with_reducible apply out_noUnit
    | with_reducible apply out_ok
    | with_reducible apply hf
    | split

theorem Held.sendSig (who : Master) (g : Dbl) (h : Held v s) : OutHeld v (State.sendSig s who g) := by
  unfold State.sendSig
  repeat' first
    | with_reducible assumption
    | with_reducible apply Held.writeBy
    | with_reducible refine out_of (by with_reducible assumption) ?_
    | split

theorem Held.ethReceive (p : Nat) (sub : Nat) (f : EthFrame) (h : Held v s) : Held v (State.ethReceive s p sub f) := by
  unfold State.ethReceive
  repeat' first
    | with_reducible assumption
    | with_reducible apply Held.classify
    | with_reducible apply Held.onPort
    | dsimp only
    | split

theorem Held.dataReceive (p : Nat) (type : Nat) (f : BosumFrame) (h : Held v s) : Held v (State.dataReceive s p type f) := by
  unfold State.dataReceive
  repeat' first | with_reducible assumption | with_reducible apply Held.bosumData | split

theorem Held.bareReceive (p : Nat) (type : Nat) (up : Bool) (f : BosumFrame) (act : State → State) (hact : ∀ t, Held v t → Held v (act t)) (h : Held v s) : Held v (State.bareReceive s p type up f act) := by
  unfold State.bareReceive
  repeat' first | with_reducible assumption | with_reducible apply Held.onPort | with_reducible apply hact | dsimp only | split

theorem Held.initReceive (p : Nat) (f : BosumFrame) (h : Held v s) : Held v (State.initReceive s p f) := by
  unfold State.initReceive
  repeat' first | with_reducible assumption | with_reducible apply Held.tryLinkUp | with_reducible apply Held.onPort | split

theorem Held.lockLoss (p : Nat) (sub : Nat) (h : Held v s) : Held v (State.lockLoss s p sub) := by
  unfold State.lockLoss
  repeat' first
    | with_reducible assumption
    | with_reducible apply Held.bosumDown
    | with_reducible apply Held.onPort
    | with_reducible apply Held.setPort
    | dsimp only
    | split

end Sys2Proof.Machine
end

