-- ==== Sys2Proof/Laws/HeldChannels.lean ====
section
/-! SUPPORT. What the operations of Machine/Channels.lean leave as it is. -/

namespace Sys2Proof.Machine

variable {v : Fixed} {s : State}

theorem Held.channel (n : Nat) (f : State → State) (hf : ∀ t, Held v t → Held v (f t)) (h : Held v s) : OutHeld v (State.channel s n f) := by
  unfold State.channel
  repeat' first
    | with_reducible assumption
    | with_reducible apply out_noUnit
    | with_reducible apply out_ok
    | with_reducible apply hf
    | split

theorem Held.writeDma (who : Master) (n : Nat) (off : Nat) (v0 : Word) (h : Held v s) : OutHeld v (State.writeDma s who n off v0) := by
  unfold State.writeDma
  repeat' first | with_reducible assumption | with_reducible apply out_noUnit | with_reducible apply Held.writeBy | split

theorem Held.hbmAccess (who : Master) (a : Nat) (wr : Bool) (f : State → Nat → Nat → State) (hf : ∀ t a b, Held v t → Held v (f t a b)) (h : Held v s) : Held v (State.hbmAccess s who a wr f) := by
  unfold State.hbmAccess
  repeat' first
    | with_reducible assumption
    | with_reducible apply Held.gate
    | with_reducible apply hf
    | with_reducible refine go_of (by with_reducible assumption) ?_
    | with_reducible refine wait_of (by with_reducible assumption) ?_
    | with_reducible refine refuse_of (by with_reducible assumption) ?_
    | split

theorem Held.hbmAnswer (who : Master) (a : Nat) (e : Option BusErr) (h : Held v s) : Held v (State.hbmAnswer s who a e) := by
  unfold State.hbmAnswer
  repeat' first
    | with_reducible assumption
    | with_reducible apply Held.debugFail
    | with_reducible apply Held.onCore
    | with_reducible apply Held.setChan
    | dsimp only
    | split
    | with_reducible apply Held.upd

theorem Held.hbmScrub (h0 : Nat) (h : Held v s) : Held v (State.hbmScrub s h0) := by
  unfold State.hbmScrub
  repeat' first
    | with_reducible assumption
    | with_reducible apply Held.blockFixed
    | with_reducible apply Held.putBlock
    | with_reducible apply Held.logAt
    | with_reducible apply Held.countUe
    | dsimp only
    | split
    | with_reducible apply Held.upd

end Sys2Proof.Machine
end

