-- ==== Sys2Proof/Laws/HeldBoard.lean ====
section
/-! SUPPORT. What the operations of Machine/Board.lean leave as it is. -/

namespace Sys2Proof.Machine

variable {v : Fixed} {s : State}

theorem Held.region (n : Nat) (f : State → State) (hf : ∀ t, Held v t → Held v (f t)) (h : Held v s) : OutHeld v (State.region s n f) := by
  unfold State.region
  repeat' first
    | with_reducible assumption
    | with_reducible apply out_noUnit
    | with_reducible apply out_ok
    | with_reducible apply hf
    | split

theorem Held.writeRgn (who : Master) (n : Nat) (off : Nat) (v0 : Word) (h : Held v s) : OutHeld v (State.writeRgn s who n off v0) := by
  unfold State.writeRgn
  repeat' first | with_reducible assumption | with_reducible apply out_noUnit | with_reducible apply Held.writeBy | split

theorem Held.walkStore (st : StoreId) (h : Held v s) : Held v (State.walkStore s st) := by
  unfold State.walkStore
  repeat' first
    | with_reducible assumption
    | with_reducible apply Held.applyWb
    | with_reducible apply Held.scrubWord
    | dsimp only
    | with_reducible apply Held.upd

end Sys2Proof.Machine
end

