-- ==== Sys2Proof/Laws/HeldMonitor.lean ====
section
/-! SUPPORT. What the operations of Machine/Monitor.lean leave as it is. -/

namespace Sys2Proof.Machine

variable {v : Fixed} {s : State}

theorem Held.setMon (ch : Channel) (m : MonCh) (h : Held v s) : Held v (State.setMon s ch m) := by
  unfold State.setMon
  repeat' first | with_reducible assumption | split | with_reducible apply Held.upd

theorem Held.answer (r : MonReq) (cmd : Byte) (st : Byte) (p : List Byte) (mac : Option (BitVec 128)) (h : Held v s) : Held v (State.answer s r cmd st p mac) := by
  unfold State.answer
  repeat' first | with_reducible assumption | with_reducible apply Held.setMon

theorem Held.reply (r : MonReq) (cmd : Byte) (st : Byte) (p : List Byte) (h : Held v s) : Held v (State.reply s r cmd st p) := by
  unfold State.reply
  repeat' first | with_reducible assumption | with_reducible apply Held.answer

theorem Held.vet (r : MonReq) (cmd : Byte) (payload : List Byte) (h : Held v s) : Held v (State.vet s r cmd payload).1 := by
  unfold State.vet
  repeat' first | with_reducible assumption | with_reducible apply Held.setMon | dsimp only | split

theorem Held.monitor (r : MonReq) (cmd : Byte) (payload : List Byte) (body : State → Out) (hbody : ∀ t, Held v t → OutHeld v (body t)) (h : Held v s) : OutHeld v (State.monitor s r cmd payload body) := by
  unfold State.monitor
  repeat' first
    | with_reducible assumption
    | with_reducible apply out_ok
    | with_reducible apply Held.vet
    | with_reducible apply Held.reply
    | with_reducible apply hbody
    | with_reducible refine held_fst (by with_reducible assumption) ?_
    | split

theorem Held.lastWord (ch : Channel) (f : State → State) (hf : ∀ t, Held v t → Held v (f t)) (h : Held v s) : Held v (State.lastWord s ch f) := by
  unfold State.lastWord
  repeat' first | with_reducible assumption | with_reducible apply Held.setMon | with_reducible apply hf

theorem Held.proofFailed (r : MonReq) (h : Held v s) : Held v (State.proofFailed s r) := by
  unfold State.proofFailed
  repeat' first | with_reducible assumption | with_reducible apply Held.reply | with_reducible apply Held.setMon

theorem Held.debugAt (a : Nat) (v0 : Word) (h : Held v s) : Held v (State.debugAt s a v0) := by
  unfold State.debugAt
  repeat' first | with_reducible assumption | dsimp only | with_reducible apply Held.upd

theorem Held.monRead (a : Nat) (z1 : Nat) (h : Held v s) : Held v (State.monRead s a z1).1 := by
  induction z1 generalizing s a with
  | zero =>
    unfold State.monRead
    repeat' first | with_reducible assumption
  | succ n0 ih =>
    unfold State.monRead
    repeat' first
      | with_reducible assumption
      | with_reducible apply ih
      | with_reducible apply Held.debugAt
      | with_reducible apply Held.debugRead
      | with_reducible apply Held.debugFail
      | with_reducible refine held_fst (by with_reducible assumption) ?_
      | with_reducible refine dbg_hold_of (by with_reducible assumption) ?_
      | with_reducible refine dbg_bad_of (by with_reducible assumption) ?_
      | with_reducible refine dbg_done_of (by with_reducible assumption) ?_
      | split

theorem Held.monWrite (a : Nat) (z1 : List Word) (h : Held v s) : Held v (State.monWrite s a z1).1 := by
  induction z1 generalizing s a with
  | nil =>
    unfold State.monWrite
    repeat' first | with_reducible assumption
  | cons x0 l0 ih =>
    unfold State.monWrite
    repeat' first
      | with_reducible assumption
      | with_reducible apply ih
      | with_reducible apply Held.debugAt
      | with_reducible apply Held.debugWrite
      | with_reducible apply Held.debugFail
      | with_reducible refine dbg_hold_of (by with_reducible assumption) ?_
      | with_reducible refine dbg_bad_of (by with_reducible assumption) ?_
      | with_reducible refine dbg_done_of (by with_reducible assumption) ?_
      | split

theorem Held.monDone (r : MonReq) (cmd : Byte) (x : MonAcc) (h : Held v s) : OutHeld v (State.monDone s r cmd x) := by
  unfold State.monDone
  repeat' first | with_reducible assumption | with_reducible apply out_ok | with_reducible apply Held.reply | split

theorem Held.monAccess (r : MonReq) (cmd : Byte) (payload : List Byte) (a : Nat) (cnt : Nat) (body : State → Out) (hbody : ∀ t, Held v t → OutHeld v (body t)) (h : Held v s) : OutHeld v (State.monAccess s r cmd payload a cnt body) := by
  unfold State.monAccess
  repeat' first
    | with_reducible assumption
    | with_reducible apply out_ok
    | with_reducible apply Held.monitor
    | with_reducible apply Held.reply
    | with_reducible apply Held.setMon
    | with_reducible apply Held.waits
    | with_reducible apply hbody
    | with_reducible refine opt_of (by with_reducible assumption) ?_
    | split
    | intro _

theorem Held.monRc (r : MonReq) (cmd : Byte) (k : BitVec 8) (op : Word) (h : Held v s) : OutHeld v (State.monRc s r cmd k op) := by
  unfold State.monRc
  repeat' first
    | with_reducible assumption
    | with_reducible apply out_ok
    | with_reducible apply Held.monDone
    | with_reducible apply Held.monitor
    | with_reducible apply Held.reply
    | with_reducible apply Held.debugWrite
    | with_reducible refine dbg_hold_of (by with_reducible assumption) ?_
    | with_reducible refine dbg_bad_of (by with_reducible assumption) ?_
    | with_reducible refine dbg_done_of (by with_reducible assumption) ?_
    | split
    | intro _

end Sys2Proof.Machine
end

