-- ==== Sys2Proof/Laws/HeldInteger.lean ====
section
/-! SUPPORT. What the operations of Machine/Integer.lean leave as it is. -/

namespace Sys2Proof.Machine

variable {v : Fixed} {s : State}

theorem Held.alu (k : Nat) (len : Nat) (d : BitVec 5) (f : Core → Word × Cst) (h : Held v s) : OutHeld v (State.alu s k len d f) := by
  unfold State.alu
  repeat' first
    | with_reducible assumption
    | with_reducible apply Held.instr
    | with_reducible apply Held.done
    | dsimp only
    | intro _

theorem Held.move (k : Nat) (len : Nat) (d : BitVec 5) (f : Core → Word) (h : Held v s) : OutHeld v (State.move s k len d f) := by
  unfold State.move
  repeat' first | with_reducible assumption | with_reducible apply Held.instr | with_reducible apply Held.done | intro _

theorem Held.movePair (k : Nat) (len : Nat) (d : BitVec 5) (f : Core → Dbl) (h : Held v s) : OutHeld v (State.movePair s k len d f) := by
  unfold State.movePair
  repeat' first
    | with_reducible assumption
    | with_reducible apply Held.instr
    | with_reducible apply Held.illegal
    | with_reducible apply Held.done
    | split
    | intro _

theorem Held.narrowing (k : Nat) (d : BitVec 5) (sat : BitVec 2) (f : Core → Bool → Int × Bool) (h : Held v s) : OutHeld v (State.narrowing s k d sat f) := by
  unfold State.narrowing
  repeat' first
    | with_reducible assumption
    | with_reducible apply Held.complete
    | with_reducible apply Held.instr
    | with_reducible apply Held.illegal
    | dsimp only
    | split
    | intro _

theorem Held.rounding (k : Nat) (d : BitVec 5) (o : Opt) (f : Core → BitVec 2 → Bool → Int × Bool) (h : Held v s) : OutHeld v (State.rounding s k d o f) := by
  unfold State.rounding
  repeat' first | with_reducible assumption | with_reducible apply Held.narrowing

theorem Held.divide (k : Nat) (d : BitVec 5) (sat : BitVec 2) (legal : Bool) (f : Core → Bool → DivRes) (h : Held v s) : OutHeld v (State.divide s k d sat legal f) := by
  unfold State.divide
  repeat' first
    | with_reducible assumption
    | with_reducible apply Held.instr
    | with_reducible apply Held.illegal
    | with_reducible apply Held.done
    | dsimp only
    | split
    | intro _

end Sys2Proof.Machine
end

