-- ==== Sys2Proof/Laws/HeldScalar.lean ====
section
/-! SUPPORT. What the operations of Machine/Scalar.lean leave as it is. -/

namespace Sys2Proof.Machine

variable {v : Fixed} {s : State}

theorem Held.fpOp (k : Nat) (legal : Bool) (d : BitVec 5) (f : Core → Nat × Flags) (h : Held v s) : OutHeld v (State.fpOp s k legal d f) := by
  unfold State.fpOp
  repeat' first
    | with_reducible assumption
    | with_reducible apply Held.complete
    | with_reducible apply Held.needFV
    | with_reducible apply Held.instr
    | dsimp only
    | intro _

theorem Held.fpArith (k : Nat) (wd : Bool) (o : FOp) (d : BitVec 5) (a : BitVec 5) (b : BitVec 5) (h : Held v s) : OutHeld v (State.fpArith s k wd o d a b) := by
  unfold State.fpArith
  repeat' first | with_reducible assumption | with_reducible apply Held.fpOp

end Sys2Proof.Machine
end

