-- ==== Sys2Proof/Laws/HeldBranch.lean ====
section
/-! SUPPORT. What the operations of Machine/Branch.lean leave as it is. -/

namespace Sys2Proof.Machine

variable {v : Fixed} {s : State}

theorem Held.aop (k : Nat) (a : BitVec 3) (f : Core → Dbl) (h : Held v s) : OutHeld v (State.aop s k a f) := by
  unfold State.aop
  repeat' first | with_reducible assumption | with_reducible apply Held.instr | with_reducible apply Held.done | intro _

theorem Held.branch (k : Nat) (o : Word) (taken : Core → Bool) (h : Held v s) : OutHeld v (State.branch s k o taken) := by
  unfold State.branch
  repeat' first | with_reducible assumption | with_reducible apply Held.instr | with_reducible apply Held.done | intro _

theorem Held.repeat (k : Nat) (len : Nat) (n : Core → Nat) (h : Held v s) : OutHeld v (State.repeat s k len n) := by
  unfold State.repeat
  repeat' first
    | with_reducible assumption
    | with_reducible apply Held.instr
    | with_reducible apply Held.illegal
    | with_reducible apply Held.done
    | dsimp only
    | split
    | intro _

end Sys2Proof.Machine
end

