-- ==== Sys2Proof/Laws/HeldShortVec.lean ====
section
/-! SUPPORT. What the operations of Machine/ShortVec.lean leave as it is. -/

namespace Sys2Proof.Machine

variable {v : Fixed} {s : State}

theorem Held.sv (k : Nat) (legal : Bool) (f : Core → List Int × Flags) (put : Core → List Int → Core) (h : Held v s) : OutHeld v (State.sv s k legal f put) := by
  unfold State.sv
  repeat' first
    | with_reducible assumption
    | with_reducible apply Held.complete
    | with_reducible apply Held.needFV
    | with_reducible apply Held.instr
    | dsimp only
    | intro _

theorem Held.svLanes (k : Nat) (f : SvForm) (legal : Bool) (d : BitVec 3) (g : Core → List Int × Flags) (h : Held v s) : OutHeld v (State.svLanes s k f legal d g) := by
  unfold State.svLanes
  repeat' first | with_reducible assumption | with_reducible apply Held.sv

theorem Held.svNarrow (k : Nat) (f : SvForm) (legal : Bool) (d : BitVec 3) (sat : BitVec 2) (g : Core → Bool → List (Int × Bool)) (h : Held v s) : OutHeld v (State.svNarrow s k f legal d sat g) := by
  unfold State.svNarrow
  repeat' first | with_reducible assumption | with_reducible apply Held.svLanes

theorem Held.svFixed2 (k : Nat) (f : SvForm) (d : BitVec 3) (a : BitVec 3) (b : BitVec 3) (sat : BitVec 2) (op : Int → Int → Int) (h : Held v s) : OutHeld v (State.svFixed2 s k f d a b sat op) := by
  unfold State.svFixed2
  repeat' first | with_reducible assumption | with_reducible apply Held.svNarrow

theorem Held.svLogic (k : Nat) (f : SvForm) (d : BitVec 3) (a : BitVec 3) (b : BitVec 3) (op : Nat → Nat → Nat) (h : Held v s) : OutHeld v (State.svLogic s k f d a b op) := by
  unfold State.svLogic
  repeat' first | with_reducible assumption | with_reducible apply Held.svLanes

theorem Held.svShift (k : Nat) (f : SvForm) (d : BitVec 3) (a : BitVec 3) (op : (n : Nat) → BitVec n → BitVec n) (h : Held v s) : OutHeld v (State.svShift s k f d a op) := by
  unfold State.svShift
  repeat' first | with_reducible assumption | with_reducible apply Held.svLanes

theorem Held.svFp2 (k : Nat) (f : SvForm) (d : BitVec 3) (a : BitVec 3) (b : BitVec 3) (o : FOp) (h : Held v s) : OutHeld v (State.svFp2 s k f d a b o) := by
  unfold State.svFp2
  repeat' first | with_reducible assumption | with_reducible apply Held.svLanes

theorem Held.mulWide (k : Nat) (f : SvForm) (hi : Bool) (d : BitVec 3) (a : BitVec 3) (b : BitVec 3) (h : Held v s) : OutHeld v (State.mulWide s k f hi d a b) := by
  unfold State.mulWide
  repeat' first | with_reducible assumption | with_reducible apply Held.sv

end Sys2Proof.Machine
end

