-- ==== Sys2Proof/Laws/HeldTick.lean ====
section
/-! SUPPORT. What the operations of Machine/Tick.lean leave as it is. -/

namespace Sys2Proof.Machine

variable {v : Fixed} {s : State}

theorem Held.clockPip  (h : Held v s) : Held v (State.clockPip s) := by
  unfold State.clockPip
  repeat' first | with_reducible assumption | dsimp only | split | with_reducible apply Held.upd

theorem Held.portsPip  (h : Held v s) : Held v (State.portsPip s) := by
  unfold State.portsPip
  repeat' first
    | with_reducible assumption
    | with_reducible apply Held.onPort
    | with_reducible apply Held.foldl
    | intro _ _ _
    | split

theorem Held.tick  (h : Held v s) : Held v (State.tick s) := by
  unfold State.tick
  repeat' first
    | with_reducible assumption
    | with_reducible apply Held.portsPip
    | with_reducible apply Held.clockPip
    | with_reducible apply Held.linkFall
    | with_reducible apply Held.keeperPip
    | dsimp only
    | split
    | with_reducible exact id
    | with_reducible exact SMap.wf_map _ _ _
    | with_reducible apply Held.lit

end Sys2Proof.Machine
end

