-- ==== Sys2Proof/Laws/HeldExecCompute.lean ====
section
/-! SUPPORT. What the integer, floating-point, branch and short-vector instructions leave as it is. -/

namespace Sys2Proof.Machine

variable {v : Fixed} {s : State}

theorem execAdd_held (k : Nat) (d : BitVec 5) (rs : BitVec 5) (t : BitVec 5) (h : Held v s) : OutHeld v (execAdd k d rs t s) := by
  unfold execAdd
  repeat' first | with_reducible assumption | with_reducible apply Held.alu

theorem execSub_held (k : Nat) (d : BitVec 5) (rs : BitVec 5) (t : BitVec 5) (h : Held v s) : OutHeld v (execSub k d rs t s) := by
  unfold execSub
  repeat' first | with_reducible assumption | with_reducible apply Held.alu

theorem execAdc_held (k : Nat) (d : BitVec 5) (rs : BitVec 5) (t : BitVec 5) (h : Held v s) : OutHeld v (execAdc k d rs t s) := by
  unfold execAdc
  repeat' first | with_reducible assumption | with_reducible apply Held.alu

theorem execSbc_held (k : Nat) (d : BitVec 5) (rs : BitVec 5) (t : BitVec 5) (h : Held v s) : OutHeld v (execSbc k d rs t s) := by
  unfold execSbc
  repeat' first | with_reducible assumption | with_reducible apply Held.alu

theorem execAnd_held (k : Nat) (d : BitVec 5) (rs : BitVec 5) (t : BitVec 5) (h : Held v s) : OutHeld v (execAnd k d rs t s) := by
  unfold execAnd
  repeat' first | with_reducible assumption | with_reducible apply Held.alu

theorem execOr_held (k : Nat) (d : BitVec 5) (rs : BitVec 5) (t : BitVec 5) (h : Held v s) : OutHeld v (execOr k d rs t s) := by
  unfold execOr
  repeat' first | with_reducible assumption | with_reducible apply Held.alu

theorem execXor_held (k : Nat) (d : BitVec 5) (rs : BitVec 5) (t : BitVec 5) (h : Held v s) : OutHeld v (execXor k d rs t s) := by
  unfold execXor
  repeat' first | with_reducible assumption | with_reducible apply Held.alu

theorem execShl_held (k : Nat) (d : BitVec 5) (rs : BitVec 5) (t : BitVec 5) (h : Held v s) : OutHeld v (execShl k d rs t s) := by
  unfold execShl
  repeat' first | with_reducible assumption | with_reducible apply Held.alu

theorem execShr_held (k : Nat) (d : BitVec 5) (rs : BitVec 5) (t : BitVec 5) (h : Held v s) : OutHeld v (execShr k d rs t s) := by
  unfold execShr
  repeat' first | with_reducible assumption | with_reducible apply Held.alu

theorem execSha_held (k : Nat) (d : BitVec 5) (rs : BitVec 5) (t : BitVec 5) (h : Held v s) : OutHeld v (execSha k d rs t s) := by
  unfold execSha
  repeat' first | with_reducible assumption | with_reducible apply Held.alu

theorem execMul_held (k : Nat) (d : BitVec 5) (rs : BitVec 5) (t : BitVec 5) (h : Held v s) : OutHeld v (execMul k d rs t s) := by
  unfold execMul
  repeat' first
    | with_reducible assumption
    | with_reducible apply Held.complete
    | with_reducible apply Held.instr
    | dsimp only
    | intro _

theorem execMulw_held (k : Nat) (d : BitVec 5) (rs : BitVec 5) (t : BitVec 5) (h : Held v s) : OutHeld v (execMulw k d rs t s) := by
  unfold execMulw
  repeat' first | with_reducible assumption | with_reducible apply Held.movePair

theorem execAddi_held (k : Nat) (d : BitVec 5) (rs : BitVec 5) (imm : Word) (h : Held v s) : OutHeld v (execAddi k d rs imm s) := by
  unfold execAddi
  repeat' first | with_reducible assumption | with_reducible apply Held.alu

theorem execSubi_held (k : Nat) (d : BitVec 5) (rs : BitVec 5) (imm : Word) (h : Held v s) : OutHeld v (execSubi k d rs imm s) := by
  unfold execSubi
  repeat' first | with_reducible assumption | with_reducible apply Held.alu

theorem execAndi_held (k : Nat) (d : BitVec 5) (rs : BitVec 5) (imm : Word) (h : Held v s) : OutHeld v (execAndi k d rs imm s) := by
  unfold execAndi
  repeat' first | with_reducible assumption | with_reducible apply Held.alu

theorem execOri_held (k : Nat) (d : BitVec 5) (rs : BitVec 5) (imm : Word) (h : Held v s) : OutHeld v (execOri k d rs imm s) := by
  unfold execOri
  repeat' first | with_reducible assumption | with_reducible apply Held.alu

theorem execXori_held (k : Nat) (d : BitVec 5) (rs : BitVec 5) (imm : Word) (h : Held v s) : OutHeld v (execXori k d rs imm s) := by
  unfold execXori
  repeat' first | with_reducible assumption | with_reducible apply Held.alu

theorem execMovi_held (k : Nat) (d : BitVec 5) (imm : Word) (h : Held v s) : OutHeld v (execMovi k d imm s) := by
  unfold execMovi
  repeat' first | with_reducible assumption | with_reducible apply Held.move

theorem execAdds_held (k : Nat) (d : BitVec 5) (rs : BitVec 5) (t : BitVec 5) (sat : BitVec 2) (h : Held v s) : OutHeld v (execAdds k d rs t sat s) := by
  unfold execAdds
  repeat' first | with_reducible assumption | with_reducible apply Held.narrowing

theorem execSubs_held (k : Nat) (d : BitVec 5) (rs : BitVec 5) (t : BitVec 5) (sat : BitVec 2) (h : Held v s) : OutHeld v (execSubs k d rs t sat s) := by
  unfold execSubs
  repeat' first | with_reducible assumption | with_reducible apply Held.narrowing

theorem execNeg_held (k : Nat) (d : BitVec 5) (rs : BitVec 5) (sat : BitVec 2) (h : Held v s) : OutHeld v (execNeg k d rs sat s) := by
  unfold execNeg
  repeat' first | with_reducible assumption | with_reducible apply Held.narrowing

theorem execAbs_held (k : Nat) (d : BitVec 5) (rs : BitVec 5) (sat : BitVec 2) (h : Held v s) : OutHeld v (execAbs k d rs sat s) := by
  unfold execAbs
  repeat' first | with_reducible assumption | with_reducible apply Held.narrowing

theorem execShls_held (k : Nat) (d : BitVec 5) (rs : BitVec 5) (t : BitVec 5) (sat : BitVec 2) (h : Held v s) : OutHeld v (execShls k d rs t sat s) := by
  unfold execShls
  repeat' first | with_reducible assumption | with_reducible apply Held.narrowing

theorem execShli_held (k : Nat) (d : BitVec 5) (rs : BitVec 5) (c9 : BitVec 9) (h : Held v s) : OutHeld v (execShli k d rs c9 s) := by
  unfold execShli
  repeat' first | with_reducible assumption | with_reducible apply Held.alu

theorem execShri_held (k : Nat) (d : BitVec 5) (rs : BitVec 5) (c9 : BitVec 9) (h : Held v s) : OutHeld v (execShri k d rs c9 s) := by
  unfold execShri
  repeat' first | with_reducible assumption | with_reducible apply Held.alu

theorem execShai_held (k : Nat) (d : BitVec 5) (rs : BitVec 5) (c9 : BitVec 9) (h : Held v s) : OutHeld v (execShai k d rs c9 s) := by
  unfold execShai
  repeat' first | with_reducible assumption | with_reducible apply Held.alu

theorem execShlsi_held (k : Nat) (d : BitVec 5) (rs : BitVec 5) (c9 : BitVec 9) (sat : BitVec 2) (h : Held v s) : OutHeld v (execShlsi k d rs c9 sat s) := by
  unfold execShlsi
  repeat' first | with_reducible assumption | with_reducible apply Held.narrowing

theorem execShar_held (k : Nat) (d : BitVec 5) (rs : BitVec 5) (c9 : BitVec 9) (o : Opt) (h : Held v s) : OutHeld v (execShar k d rs c9 o s) := by
  unfold execShar
  repeat' first | with_reducible assumption | with_reducible apply Held.rounding

theorem execMulu_held (k : Nat) (d : BitVec 5) (rs : BitVec 5) (t : BitVec 5) (sat : BitVec 2) (h : Held v s) : OutHeld v (execMulu k d rs t sat s) := by
  unfold execMulu
  repeat' first | with_reducible assumption | with_reducible apply Held.narrowing

theorem execMulq_held (k : Nat) (d : BitVec 5) (rs : BitVec 5) (t : BitVec 5) (o : Opt) (h : Held v s) : OutHeld v (execMulq k d rs t o s) := by
  unfold execMulq
  repeat' first | with_reducible assumption | with_reducible apply Held.rounding

theorem execMulwu_held (k : Nat) (d : BitVec 5) (rs : BitVec 5) (t : BitVec 5) (h : Held v s) : OutHeld v (execMulwu k d rs t s) := by
  unfold execMulwu
  repeat' first | with_reducible assumption | with_reducible apply Held.movePair

theorem execMstart_held (k : Nat) (rs : BitVec 5) (t : BitVec 5) (h : Held v s) : OutHeld v (execMstart k rs t s) := by
  unfold execMstart
  repeat' first
    | with_reducible assumption
    | with_reducible apply Held.instr
    | with_reducible apply Held.done
    | dsimp only
    | intro _

theorem execMstartProductWrite_held (k : Nat) (h : Held v s) : OutHeld v (execMstartProductWrite k s) := by
  unfold execMstartProductWrite
  repeat' first
    | with_reducible assumption
    | with_reducible apply out_noUnit
    | with_reducible apply out_ok
    | with_reducible apply Held.onCore
    | split

theorem execDiv_held (k : Nat) (d : BitVec 5) (rs : BitVec 5) (t : BitVec 5) (sat : BitVec 2) (h : Held v s) : OutHeld v (execDiv k d rs t sat s) := by
  unfold execDiv
  repeat' first | with_reducible assumption | with_reducible apply Held.divide

theorem execDivu_held (k : Nat) (d : BitVec 5) (rs : BitVec 5) (t : BitVec 5) (h : Held v s) : OutHeld v (execDivu k d rs t s) := by
  unfold execDivu
  repeat' first | with_reducible assumption | with_reducible apply Held.divide

theorem execDivq_held (k : Nat) (d : BitVec 5) (rs : BitVec 5) (t : BitVec 5) (sat : BitVec 2) (h : Held v s) : OutHeld v (execDivq k d rs t sat s) := by
  unfold execDivq
  repeat' first | with_reducible assumption | with_reducible apply Held.divide

theorem execDivw_held (k : Nat) (d : BitVec 5) (rs : BitVec 5) (t : BitVec 5) (sat : BitVec 2) (h : Held v s) : OutHeld v (execDivw k d rs t sat s) := by
  unfold execDivw
  repeat' first | with_reducible assumption | with_reducible apply Held.divide

theorem execDivwu_held (k : Nat) (d : BitVec 5) (rs : BitVec 5) (t : BitVec 5) (sat : BitVec 2) (h : Held v s) : OutHeld v (execDivwu k d rs t sat s) := by
  unfold execDivwu
  repeat' first | with_reducible assumption | with_reducible apply Held.divide

theorem execDivisionComplete_held (k : Nat) (h : Held v s) : OutHeld v (execDivisionComplete k s) := by
  unfold execDivisionComplete
  repeat' first
    | with_reducible assumption
    | with_reducible apply out_noUnit
    | with_reducible apply out_ok
    | with_reducible apply Held.takeExc
    | with_reducible apply Held.done
    | with_reducible apply Held.setCore
    | dsimp only
    | split

theorem execMin_held (k : Nat) (d : BitVec 5) (rs : BitVec 5) (t : BitVec 5) (h : Held v s) : OutHeld v (execMin k d rs t s) := by
  unfold execMin
  repeat' first | with_reducible assumption | with_reducible apply Held.move

theorem execMax_held (k : Nat) (d : BitVec 5) (rs : BitVec 5) (t : BitVec 5) (h : Held v s) : OutHeld v (execMax k d rs t s) := by
  unfold execMax
  repeat' first | with_reducible assumption | with_reducible apply Held.move

theorem execMinu_held (k : Nat) (d : BitVec 5) (rs : BitVec 5) (t : BitVec 5) (h : Held v s) : OutHeld v (execMinu k d rs t s) := by
  unfold execMinu
  repeat' first | with_reducible assumption | with_reducible apply Held.move

theorem execMaxu_held (k : Nat) (d : BitVec 5) (rs : BitVec 5) (t : BitVec 5) (h : Held v s) : OutHeld v (execMaxu k d rs t s) := by
  unfold execMaxu
  repeat' first | with_reducible assumption | with_reducible apply Held.move

theorem execFadd_held (k : Nat) (wd : Bool) (d : BitVec 5) (rs : BitVec 5) (t : BitVec 5) (h : Held v s) : OutHeld v (execFadd k wd d rs t s) := by
  unfold execFadd
  repeat' first | with_reducible assumption | with_reducible apply Held.fpArith

theorem execFsub_held (k : Nat) (wd : Bool) (d : BitVec 5) (rs : BitVec 5) (t : BitVec 5) (h : Held v s) : OutHeld v (execFsub k wd d rs t s) := by
  unfold execFsub
  repeat' first | with_reducible assumption | with_reducible apply Held.fpArith

theorem execFmul_held (k : Nat) (wd : Bool) (d : BitVec 5) (rs : BitVec 5) (t : BitVec 5) (h : Held v s) : OutHeld v (execFmul k wd d rs t s) := by
  unfold execFmul
  repeat' first | with_reducible assumption | with_reducible apply Held.fpArith

theorem execFdiv_held (k : Nat) (wd : Bool) (d : BitVec 5) (rs : BitVec 5) (t : BitVec 5) (h : Held v s) : OutHeld v (execFdiv k wd d rs t s) := by
  unfold execFdiv
  repeat' first | with_reducible assumption | with_reducible apply Held.fpArith

theorem execFsqrt_held (k : Nat) (wd : Bool) (d : BitVec 5) (rs : BitVec 5) (h : Held v s) : OutHeld v (execFsqrt k wd d rs s) := by
  unfold execFsqrt
  repeat' first | with_reducible assumption | with_reducible apply Held.fpOp

theorem execFmin_held (k : Nat) (wd : Bool) (d : BitVec 5) (rs : BitVec 5) (t : BitVec 5) (h : Held v s) : OutHeld v (execFmin k wd d rs t s) := by
  unfold execFmin
  repeat' first | with_reducible assumption | with_reducible apply Held.fpArith

theorem execFmax_held (k : Nat) (wd : Bool) (d : BitVec 5) (rs : BitVec 5) (t : BitVec 5) (h : Held v s) : OutHeld v (execFmax k wd d rs t s) := by
  unfold execFmax
  repeat' first | with_reducible assumption | with_reducible apply Held.fpArith

theorem execFabs_held (k : Nat) (wd : Bool) (d : BitVec 5) (rs : BitVec 5) (h : Held v s) : OutHeld v (execFabs k wd d rs s) := by
  unfold execFabs
  repeat' first | with_reducible assumption | with_reducible apply Held.fpOp

theorem execFneg_held (k : Nat) (wd : Bool) (d : BitVec 5) (rs : BitVec 5) (h : Held v s) : OutHeld v (execFneg k wd d rs s) := by
  unfold execFneg
  repeat' first | with_reducible assumption | with_reducible apply Held.fpOp

theorem execFmov_held (k : Nat) (wd : Bool) (d : BitVec 5) (rs : BitVec 5) (h : Held v s) : OutHeld v (execFmov k wd d rs s) := by
  unfold execFmov
  repeat' first | with_reducible assumption | with_reducible apply Held.fpOp

theorem execFcmp_held (k : Nat) (wd : Bool) (wx : BitVec 5) (rs : BitVec 5) (t : BitVec 5) (cond : BitVec 3) (h : Held v s) : OutHeld v (execFcmp k wd wx rs t cond s) := by
  unfold execFcmp
  repeat' first
    | with_reducible assumption
    | with_reducible apply Held.complete
    | with_reducible apply Held.needFV
    | with_reducible apply Held.instr
    | dsimp only
    | intro _

theorem execFcvt_held (k : Nat) (wd : Bool) (d : BitVec 5) (rs : BitVec 5) (h : Held v s) : OutHeld v (execFcvt k wd d rs s) := by
  unfold execFcvt
  repeat' first | with_reducible assumption | with_reducible apply Held.fpOp

theorem execFtow_held (k : Nat) (wd : Bool) (wx : BitVec 5) (rs : BitVec 5) (code : BitVec 3) (tz : Bool) (h : Held v s) : OutHeld v (execFtow k wd wx rs code tz s) := by
  unfold execFtow
  repeat' first
    | with_reducible assumption
    | with_reducible apply Held.complete
    | with_reducible apply Held.needFV
    | with_reducible apply Held.instr
    | with_reducible apply Held.illegal
    | dsimp only
    | split
    | intro _

theorem execFfrw_held (k : Nat) (wd : Bool) (d : BitVec 5) (wx : BitVec 5) (code : BitVec 3) (h : Held v s) : OutHeld v (execFfrw k wd d wx code s) := by
  unfold execFfrw
  repeat' first
    | with_reducible assumption
    | with_reducible apply Held.complete
    | with_reducible apply Held.needFV
    | with_reducible apply Held.instr
    | with_reducible apply Held.illegal
    | dsimp only
    | split
    | intro _

theorem execFmfw_held (k : Nat) (wd : Bool) (wx : BitVec 5) (rs : BitVec 5) (h : Held v s) : OutHeld v (execFmfw k wd wx rs s) := by
  unfold execFmfw
  repeat' first
    | with_reducible assumption
    | with_reducible apply Held.needFV
    | with_reducible apply Held.instr
    | with_reducible apply Held.done
    | dsimp only
    | split
    | intro _

theorem execFmtw_held (k : Nat) (wd : Bool) (d : BitVec 5) (wx : BitVec 5) (h : Held v s) : OutHeld v (execFmtw k wd d wx s) := by
  unfold execFmtw
  repeat' first
    | with_reducible assumption
    | with_reducible apply Held.needFV
    | with_reducible apply Held.instr
    | with_reducible apply Held.done
    | dsimp only
    | split
    | intro _

theorem execAdda_held (k : Nat) (a : BitVec 3) (b : BitVec 3) (n : BitVec 5) (h : Held v s) : OutHeld v (execAdda k a b n s) := by
  unfold execAdda
  repeat' first | with_reducible assumption | with_reducible apply Held.aop

theorem execAddai_held (k : Nat) (a : BitVec 3) (b : BitVec 3) (imm : Word) (h : Held v s) : OutHeld v (execAddai k a b imm s) := by
  unfold execAddai
  repeat' first | with_reducible assumption | with_reducible apply Held.aop

theorem execLal_held (k : Nat) (a : BitVec 3) (imm : Word) (h : Held v s) : OutHeld v (execLal k a imm s) := by
  unfold execLal
  repeat' first | with_reducible assumption | with_reducible apply Held.aop

theorem execLah_held (k : Nat) (a : BitVec 3) (imm : Word) (h : Held v s) : OutHeld v (execLah k a imm s) := by
  unfold execLah
  repeat' first | with_reducible assumption | with_reducible apply Held.aop

theorem execMtal_held (k : Nat) (a : BitVec 3) (n : BitVec 5) (h : Held v s) : OutHeld v (execMtal k a n s) := by
  unfold execMtal
  repeat' first | with_reducible assumption | with_reducible apply Held.aop

theorem execMtah_held (k : Nat) (a : BitVec 3) (n : BitVec 5) (h : Held v s) : OutHeld v (execMtah k a n s) := by
  unfold execMtah
  repeat' first | with_reducible assumption | with_reducible apply Held.aop

theorem execMfal_held (k : Nat) (n : BitVec 5) (a : BitVec 3) (h : Held v s) : OutHeld v (execMfal k n a s) := by
  unfold execMfal
  repeat' first | with_reducible assumption | with_reducible apply Held.move

theorem execMfah_held (k : Nat) (n : BitVec 5) (a : BitVec 3) (h : Held v s) : OutHeld v (execMfah k n a s) := by
  unfold execMfah
  repeat' first | with_reducible assumption | with_reducible apply Held.move

theorem execMtam_held (k : Nat) (a : BitVec 3) (n : BitVec 5) (h : Held v s) : OutHeld v (execMtam k a n s) := by
  unfold execMtam
  repeat' first | with_reducible assumption | with_reducible apply Held.instr | with_reducible apply Held.done | intro _

theorem execMfam_held (k : Nat) (n : BitVec 5) (a : BitVec 3) (h : Held v s) : OutHeld v (execMfam k n a s) := by
  unfold execMfam
  repeat' first | with_reducible assumption | with_reducible apply Held.move

theorem execUpda_held (k : Nat) (a : BitVec 3) (imm : Word) (h : Held v s) : OutHeld v (execUpda k a imm s) := by
  unfold execUpda
  repeat' first | with_reducible assumption | with_reducible apply Held.aop

theorem execMova_held (k : Nat) (a : BitVec 3) (b : BitVec 3) (h : Held v s) : OutHeld v (execMova k a b s) := by
  unfold execMova
  repeat' first | with_reducible assumption | with_reducible apply Held.aop

theorem execBeq_held (k : Nat) (rs : BitVec 5) (t : BitVec 5) (o : Word) (h : Held v s) : OutHeld v (execBeq k rs t o s) := by
  unfold execBeq
  repeat' first | with_reducible assumption | with_reducible apply Held.branch

theorem execBne_held (k : Nat) (rs : BitVec 5) (t : BitVec 5) (o : Word) (h : Held v s) : OutHeld v (execBne k rs t o s) := by
  unfold execBne
  repeat' first | with_reducible assumption | with_reducible apply Held.branch

theorem execBlt_held (k : Nat) (rs : BitVec 5) (t : BitVec 5) (o : Word) (h : Held v s) : OutHeld v (execBlt k rs t o s) := by
  unfold execBlt
  repeat' first | with_reducible assumption | with_reducible apply Held.branch

theorem execBge_held (k : Nat) (rs : BitVec 5) (t : BitVec 5) (o : Word) (h : Held v s) : OutHeld v (execBge k rs t o s) := by
  unfold execBge
  repeat' first | with_reducible assumption | with_reducible apply Held.branch

theorem execBltu_held (k : Nat) (rs : BitVec 5) (t : BitVec 5) (o : Word) (h : Held v s) : OutHeld v (execBltu k rs t o s) := by
  unfold execBltu
  repeat' first | with_reducible assumption | with_reducible apply Held.branch

theorem execBgeu_held (k : Nat) (rs : BitVec 5) (t : BitVec 5) (o : Word) (h : Held v s) : OutHeld v (execBgeu k rs t o s) := by
  unfold execBgeu
  repeat' first | with_reducible assumption | with_reducible apply Held.branch

theorem execBcs_held (k : Nat) (o : Word) (h : Held v s) : OutHeld v (execBcs k o s) := by
  unfold execBcs
  repeat' first | with_reducible assumption | with_reducible apply Held.branch

theorem execBcc_held (k : Nat) (o : Word) (h : Held v s) : OutHeld v (execBcc k o s) := by
  unfold execBcc
  repeat' first | with_reducible assumption | with_reducible apply Held.branch

theorem execBmi_held (k : Nat) (o : Word) (h : Held v s) : OutHeld v (execBmi k o s) := by
  unfold execBmi
  repeat' first | with_reducible assumption | with_reducible apply Held.branch

theorem execBpl_held (k : Nat) (o : Word) (h : Held v s) : OutHeld v (execBpl k o s) := by
  unfold execBpl
  repeat' first | with_reducible assumption | with_reducible apply Held.branch

theorem execBzs_held (k : Nat) (o : Word) (h : Held v s) : OutHeld v (execBzs k o s) := by
  unfold execBzs
  repeat' first | with_reducible assumption | with_reducible apply Held.branch

theorem execBzc_held (k : Nat) (o : Word) (h : Held v s) : OutHeld v (execBzc k o s) := by
  unfold execBzc
  repeat' first | with_reducible assumption | with_reducible apply Held.branch

theorem execB_held (k : Nat) (o : Word) (h : Held v s) : OutHeld v (execB k o s) := by
  unfold execB
  repeat' first | with_reducible assumption | with_reducible apply Held.branch

theorem execJ_held (k : Nat) (o : BitVec 30) (h : Held v s) : OutHeld v (execJ k o s) := by
  unfold execJ
  repeat' first | with_reducible assumption | with_reducible apply Held.instr | with_reducible apply Held.done | intro _

theorem execJal_held (k : Nat) (o : BitVec 30) (h : Held v s) : OutHeld v (execJal k o s) := by
  unfold execJal
  repeat' first
    | with_reducible assumption
    | with_reducible apply Held.instr
    | with_reducible apply Held.done
    | dsimp only
    | intro _

theorem execDbnz_held (k : Nat) (rs : BitVec 5) (o : Word) (h : Held v s) : OutHeld v (execDbnz k rs o s) := by
  unfold execDbnz
  repeat' first
    | with_reducible assumption
    | with_reducible apply Held.instr
    | with_reducible apply Held.done
    | dsimp only
    | intro _

theorem execRet_held (k : Nat) (h : Held v s) : OutHeld v (execRet k s) := by
  unfold execRet
  repeat' first | with_reducible assumption | with_reducible apply Held.instr | with_reducible apply Held.done | intro _

theorem execJr_held (k : Nat) (a : BitVec 3) (h : Held v s) : OutHeld v (execJr k a s) := by
  unfold execJr
  repeat' first | with_reducible assumption | with_reducible apply Held.instr | with_reducible apply Held.done | intro _

theorem execJalr_held (k : Nat) (a : BitVec 3) (h : Held v s) : OutHeld v (execJalr k a s) := by
  unfold execJalr
  repeat' first
    | with_reducible assumption
    | with_reducible apply Held.instr
    | with_reducible apply Held.done
    | dsimp only
    | intro _

theorem execRepi_held (k : Nat) (imm : Word) (h : Held v s) : OutHeld v (execRepi k imm s) := by
  unfold execRepi
  repeat' first | with_reducible assumption | with_reducible apply Held.repeat

theorem execRep_held (k : Nat) (rs : BitVec 5) (h : Held v s) : OutHeld v (execRep k rs s) := by
  unfold execRep
  repeat' first | with_reducible assumption | with_reducible apply Held.repeat

theorem execSadd_held (k : Nat) (f : SvForm) (d : BitVec 3) (a : BitVec 3) (b : BitVec 3) (sat : BitVec 2) (h : Held v s) : OutHeld v (execSadd k f d a b sat s) := by
  unfold execSadd
  repeat' first | with_reducible assumption | with_reducible apply Held.svFixed2

theorem execSsub_held (k : Nat) (f : SvForm) (d : BitVec 3) (a : BitVec 3) (b : BitVec 3) (sat : BitVec 2) (h : Held v s) : OutHeld v (execSsub k f d a b sat s) := by
  unfold execSsub
  repeat' first | with_reducible assumption | with_reducible apply Held.svFixed2

theorem execSand_held (k : Nat) (f : SvForm) (d : BitVec 3) (a : BitVec 3) (b : BitVec 3) (h : Held v s) : OutHeld v (execSand k f d a b s) := by
  unfold execSand
  repeat' first | with_reducible assumption | with_reducible apply Held.svLogic

theorem execSor_held (k : Nat) (f : SvForm) (d : BitVec 3) (a : BitVec 3) (b : BitVec 3) (h : Held v s) : OutHeld v (execSor k f d a b s) := by
  unfold execSor
  repeat' first | with_reducible assumption | with_reducible apply Held.svLogic

theorem execSxor_held (k : Nat) (f : SvForm) (d : BitVec 3) (a : BitVec 3) (b : BitVec 3) (h : Held v s) : OutHeld v (execSxor k f d a b s) := by
  unfold execSxor
  repeat' first | with_reducible assumption | with_reducible apply Held.svLogic

theorem execSshl_held (k : Nat) (f : SvForm) (d : BitVec 3) (a : BitVec 3) (p : BitVec 8) (h : Held v s) : OutHeld v (execSshl k f d a p s) := by
  unfold execSshl
  repeat' first | with_reducible assumption | with_reducible apply Held.svShift

theorem execSshr_held (k : Nat) (f : SvForm) (d : BitVec 3) (a : BitVec 3) (p : BitVec 8) (h : Held v s) : OutHeld v (execSshr k f d a p s) := by
  unfold execSshr
  repeat' first | with_reducible assumption | with_reducible apply Held.svShift

theorem execSsha_held (k : Nat) (f : SvForm) (d : BitVec 3) (a : BitVec 3) (p : BitVec 8) (h : Held v s) : OutHeld v (execSsha k f d a p s) := by
  unfold execSsha
  repeat' first | with_reducible assumption | with_reducible apply Held.svShift

theorem execSshls_held (k : Nat) (f : SvForm) (d : BitVec 3) (a : BitVec 3) (p : BitVec 8) (sat : BitVec 2) (h : Held v s) : OutHeld v (execSshls k f d a p sat s) := by
  unfold execSshls
  repeat' first | with_reducible assumption | with_reducible apply Held.svNarrow

theorem execSabs_held (k : Nat) (f : SvForm) (d : BitVec 3) (a : BitVec 3) (sat : BitVec 2) (h : Held v s) : OutHeld v (execSabs k f d a sat s) := by
  unfold execSabs
  repeat' first | with_reducible assumption | with_reducible apply Held.svNarrow | with_reducible apply Held.svLanes | split

theorem execSneg_held (k : Nat) (f : SvForm) (d : BitVec 3) (a : BitVec 3) (sat : BitVec 2) (h : Held v s) : OutHeld v (execSneg k f d a sat s) := by
  unfold execSneg
  repeat' first | with_reducible assumption | with_reducible apply Held.svNarrow | with_reducible apply Held.svLanes | split

theorem execScmp_held (k : Nat) (f : SvForm) (d : BitVec 3) (a : BitVec 3) (b : BitVec 3) (cond : BitVec 3) (h : Held v s) : OutHeld v (execScmp k f d a b cond s) := by
  unfold execScmp
  repeat' first | with_reducible assumption | with_reducible apply Held.svLanes

theorem execSsel_held (k : Nat) (f : SvForm) (d : BitVec 3) (m : BitVec 3) (a : BitVec 3) (b : BitVec 3) (h : Held v s) : OutHeld v (execSsel k f d m a b s) := by
  unfold execSsel
  repeat' first | with_reducible assumption | with_reducible apply Held.svLanes

theorem execSmin_held (k : Nat) (f : SvForm) (d : BitVec 3) (a : BitVec 3) (b : BitVec 3) (h : Held v s) : OutHeld v (execSmin k f d a b s) := by
  unfold execSmin
  repeat' first | with_reducible assumption | with_reducible apply Held.svFp2 | with_reducible apply Held.svLanes | split

theorem execSmax_held (k : Nat) (f : SvForm) (d : BitVec 3) (a : BitVec 3) (b : BitVec 3) (h : Held v s) : OutHeld v (execSmax k f d a b s) := by
  unfold execSmax
  repeat' first | with_reducible assumption | with_reducible apply Held.svFp2 | with_reducible apply Held.svLanes | split

theorem execSsrs_held (k : Nat) (f : SvForm) (d : BitVec 3) (a : BitVec 3) (p : BitVec 6) (hi : Bool) (o : Opt) (h : Held v s) : OutHeld v (execSsrs k f d a p hi o s) := by
  unfold execSsrs
  repeat' first | with_reducible assumption | with_reducible apply Held.sv

theorem execSsrsp_held (k : Nat) (d : BitVec 3) (a : BitVec 3) (p : BitVec 6) (x : SvHalf) (o : Opt) (h : Held v s) : OutHeld v (execSsrsp k d a p x o s) := by
  unfold execSsrsp
  repeat' first | with_reducible assumption | with_reducible apply Held.sv

theorem execSmulq_held (k : Nat) (f : SvForm) (d : BitVec 3) (a : BitVec 3) (b : BitVec 3) (o : Opt) (h : Held v s) : OutHeld v (execSmulq k f d a b o s) := by
  unfold execSmulq
  repeat' first | with_reducible assumption | with_reducible apply Held.svNarrow

theorem execSmulwL_held (k : Nat) (f : SvForm) (d : BitVec 3) (a : BitVec 3) (b : BitVec 3) (h : Held v s) : OutHeld v (execSmulwL k f d a b s) := by
  unfold execSmulwL
  repeat' first | with_reducible assumption | with_reducible apply Held.mulWide

theorem execSmulwH_held (k : Nat) (f : SvForm) (d : BitVec 3) (a : BitVec 3) (b : BitVec 3) (h : Held v s) : OutHeld v (execSmulwH k f d a b s) := by
  unfold execSmulwH
  repeat' first | with_reducible assumption | with_reducible apply Held.mulWide

theorem execSdot_held (k : Nat) (f : SvForm) (d : BitVec 3) (a : BitVec 3) (b : BitVec 3) (h : Held v s) : OutHeld v (execSdot k f d a b s) := by
  unfold execSdot
  repeat' first | with_reducible assumption | with_reducible apply Held.sv

theorem execSdota_held (k : Nat) (f : SvForm) (d : BitVec 3) (a : BitVec 3) (b : BitVec 3) (sat : BitVec 2) (h : Held v s) : OutHeld v (execSdota k f d a b sat s) := by
  unfold execSdota
  repeat' first | with_reducible assumption | with_reducible apply Held.sv

theorem execSfadd_held (k : Nat) (f : SvForm) (d : BitVec 3) (a : BitVec 3) (b : BitVec 3) (h : Held v s) : OutHeld v (execSfadd k f d a b s) := by
  unfold execSfadd
  repeat' first | with_reducible assumption | with_reducible apply Held.svFp2

theorem execSfsub_held (k : Nat) (f : SvForm) (d : BitVec 3) (a : BitVec 3) (b : BitVec 3) (h : Held v s) : OutHeld v (execSfsub k f d a b s) := by
  unfold execSfsub
  repeat' first | with_reducible assumption | with_reducible apply Held.svFp2

theorem execSfmul_held (k : Nat) (f : SvForm) (d : BitVec 3) (a : BitVec 3) (b : BitVec 3) (h : Held v s) : OutHeld v (execSfmul k f d a b s) := by
  unfold execSfmul
  repeat' first | with_reducible assumption | with_reducible apply Held.svFp2

theorem execScvt_held (k : Nat) (f : SvForm) (d : BitVec 3) (a : BitVec 3) (code : BitVec 3) (tz : Bool) (hi : Bool) (h : Held v s) : OutHeld v (execScvt k f d a code tz hi s) := by
  unfold execScvt
  repeat' first | with_reducible assumption | with_reducible apply Held.sv

theorem execSspl_held (k : Nat) (f : SvForm) (d : BitVec 3) (rs : BitVec 5) (h : Held v s) : OutHeld v (execSspl k f d rs s) := by
  unfold execSspl
  repeat' first | with_reducible assumption | with_reducible apply Held.sv

theorem execSmtl_held (k : Nat) (d : BitVec 3) (j : BitVec 3) (rs : BitVec 5) (h : Held v s) : OutHeld v (execSmtl k d j rs s) := by
  unfold execSmtl
  repeat' first | with_reducible assumption | with_reducible apply Held.sv

theorem execSmfl_held (k : Nat) (rs : BitVec 5) (a : BitVec 3) (j : BitVec 3) (h : Held v s) : OutHeld v (execSmfl k rs a j s) := by
  unfold execSmfl
  repeat' first | with_reducible assumption | with_reducible apply Held.sv

theorem execSmov_held (k : Nat) (d : BitVec 3) (a : BitVec 3) (h : Held v s) : OutHeld v (execSmov k d a s) := by
  unfold execSmov
  repeat' first | with_reducible assumption | with_reducible apply Held.sv

end Sys2Proof.Machine
end

