-- ==== Sys2Proof/Laws/HeldExecCore.lean ====
section
/-! SUPPORT. What the control and system instructions, the events of a core and the context commands leave as it is. -/

namespace Sys2Proof.Machine

variable {v : Fixed} {s : State}

theorem execClIpost_held (who : Master) (k : Nat) (v0 : Word) (h : Held v s) : OutHeld v (execClIpost who k v0 s) := by
  unfold execClIpost
  repeat' first | with_reducible assumption | with_reducible apply Held.writeCl

theorem execClMflt_held (who : Master) (k : Nat) (v0 : Word) (h : Held v s) : OutHeld v (execClMflt who k v0 s) := by
  unfold execClMflt
  repeat' first | with_reducible assumption | with_reducible apply Held.writeCl

theorem execClRcHalt_held (who : Master) (k : Nat) (h : Held v s) : OutHeld v (execClRcHalt who k s) := by
  unfold execClRcHalt
  repeat' first | with_reducible assumption | with_reducible apply Held.writeCl

theorem execClRcStep_held (who : Master) (k : Nat) (h : Held v s) : OutHeld v (execClRcStep who k s) := by
  unfold execClRcStep
  repeat' first | with_reducible assumption | with_reducible apply Held.writeCl

theorem execClRcResume_held (who : Master) (k : Nat) (h : Held v s) : OutHeld v (execClRcResume who k s) := by
  unfold execClRcResume
  repeat' first | with_reducible assumption | with_reducible apply Held.writeCl

theorem execRegisterWrite_held (who : Master) (a : Dbl) (v0 : Word) (h : Held v s) : OutHeld v (execRegisterWrite who a v0 s) := by
  unfold execRegisterWrite
  repeat' first
    | with_reducible assumption
    | with_reducible apply out_ok
    | with_reducible apply Held.linkFall
    | with_reducible apply Held.writeBy
    | with_reducible apply Held.masterFault
    | with_reducible refine out_of (by with_reducible assumption) ?_
    | split

theorem execDbgDataRead_held (who : Master) (h : Held v s) : OutHeld v (execDbgDataRead who s) := by
  unfold execDbgDataRead
  repeat' first | with_reducible assumption | with_reducible apply Held.readBy

theorem execDbgDataWrite_held (who : Master) (v0 : Word) (h : Held v s) : OutHeld v (execDbgDataWrite who v0 s) := by
  unfold execDbgDataWrite
  repeat' first | with_reducible assumption | with_reducible apply Held.writeBy

theorem execDebugAccessDone_held (h : Held v s) : OutHeld v (execDebugAccessDone s) := by
  unfold execDebugAccessDone
  repeat' first
    | with_reducible assumption
    | with_reducible apply out_ok
    | with_reducible apply Held.debugEnd
    | with_reducible apply Held.debugWrite
    | with_reducible apply Held.debugRead
    | with_reducible apply Held.linkFall
    | with_reducible apply Held.debugFail
    | with_reducible refine dbg_hold_of (by with_reducible assumption) ?_
    | with_reducible refine dbg_bad_of (by with_reducible assumption) ?_
    | with_reducible refine dbg_done_of (by with_reducible assumption) ?_
    | dsimp only
    | split
    | with_reducible apply Held.upd

theorem execNop_held (k : Nat) (h : Held v s) : OutHeld v (execNop k s) := by
  unfold execNop
  repeat' first | with_reducible assumption | with_reducible apply Held.instr | with_reducible apply Held.done | intro _

theorem execSync_held (k : Nat) (h : Held v s) : OutHeld v (execSync k s) := by
  unfold execSync
  repeat' first
    | with_reducible assumption
    | with_reducible apply Held.drained1
    | with_reducible apply Held.instr
    | with_reducible apply Held.done
    | intro _

theorem execIsync_held (k : Nat) (h : Held v s) : OutHeld v (execIsync k s) := by
  unfold execIsync
  repeat' first
    | with_reducible assumption
    | with_reducible apply Held.drained1
    | with_reducible apply Held.instr
    | with_reducible apply Held.done
    | dsimp only
    | intro _

theorem execMfc_held (k : Nat) (d : BitVec 5) (n : BitVec 5) (h : Held v s) : OutHeld v (execMfc k d n s) := by
  unfold execMfc
  repeat' first | with_reducible assumption | with_reducible apply Held.ctlAccess | with_reducible apply Held.done | intro _

theorem execMtc_held (k : Nat) (n : BitVec 5) (rs : BitVec 5) (h : Held v s) : OutHeld v (execMtc k n rs s) := by
  unfold execMtc
  repeat' first | with_reducible assumption | with_reducible apply Held.mtc

theorem execVfcDiscard_held (k : Nat) (rs : BitVec 5) (h : Held v s) : OutHeld v (execVfcDiscard k rs s) := by
  unfold execVfcDiscard
  repeat' first | with_reducible assumption | with_reducible apply Held.mtc

theorem execVprogWrite_held (k : Nat) (rs : BitVec 5) (h : Held v s) : OutHeld v (execVprogWrite k rs s) := by
  unfold execVprogWrite
  repeat' first | with_reducible assumption | with_reducible apply Held.mtc

theorem execWdogCntWrite_held (k : Nat) (rs : BitVec 5) (h : Held v s) : OutHeld v (execWdogCntWrite k rs s) := by
  unfold execWdogCntWrite
  repeat' first | with_reducible assumption | with_reducible apply Held.mtc

theorem execSignal_held (k : Nat) (c : BitVec 5) (h : Held v s) : OutHeld v (execSignal k c s) := by
  unfold execSignal
  repeat' first
    | with_reducible assumption
    | with_reducible apply out_ok
    | with_reducible apply Held.drained1
    | with_reducible apply Held.instr
    | with_reducible apply Held.privFault
    | with_reducible apply Held.wakeCtx
    | with_reducible apply Held.setCore
    | dsimp only
    | split
    | intro _

theorem execBkpt_held (k : Nat) (_code : BitVec 10) (h : Held v s) : OutHeld v (execBkpt k _code s) := by
  unfold execBkpt
  repeat' first | with_reducible assumption | with_reducible apply Held.instr | with_reducible apply Held.takeExc | intro _

theorem execRfe_held (k : Nat) (h : Held v s) : OutHeld v (execRfe k s) := by
  unfold execRfe
  repeat' first | with_reducible assumption | with_reducible apply Held.return

theorem execRfg_held (k : Nat) (h : Held v s) : OutHeld v (execRfg k s) := by
  unfold execRfg
  repeat' first | with_reducible assumption | with_reducible apply Held.return

theorem execWait_held (k : Nat) (d : BitVec 5) (rs : BitVec 5) (t : BitVec 5) (h : Held v s) : OutHeld v (execWait k d rs t s) := by
  unfold execWait
  repeat' first
    | with_reducible assumption
    | with_reducible apply out_ok
    | with_reducible apply Held.waitAccess
    | with_reducible apply Held.cbReads
    | with_reducible apply Held.instr
    | with_reducible apply Held.illegal
    | with_reducible apply Held.loadFault
    | with_reducible apply Held.drainLoads
    | with_reducible apply Held.done
    | with_reducible apply Held.clearCauses
    | with_reducible apply Held.setCtxState
    | with_reducible apply Held.draw
    | with_reducible refine held_fst (by with_reducible assumption) ?_
    | with_reducible refine drain_hold_of (by with_reducible assumption) ?_
    | with_reducible refine drain_done_of (by with_reducible assumption) ?_
    | dsimp only
    | split
    | with_reducible apply Held.upd
    | intro _

theorem execIllegalInstruction_held (k : Nat) (h : Held v s) : OutHeld v (execIllegalInstruction k s) := by
  unfold execIllegalInstruction
  repeat' first
    | with_reducible assumption
    | with_reducible apply out_ok
    | with_reducible apply Held.instr
    | with_reducible apply Held.illegal
    | split
    | intro _

theorem execFetchFault_held (k : Nat) (h : Held v s) : OutHeld v (execFetchFault k s) := by
  unfold execFetchFault
  repeat' first
    | with_reducible assumption
    | with_reducible apply out_noUnit
    | with_reducible apply out_ok
    | with_reducible apply Held.fetchFails
    | with_reducible apply Held.fetchWord
    | with_reducible refine fetchw_hold_of (by with_reducible assumption) ?_
    | with_reducible refine fetchw_bad_of (by with_reducible assumption) ?_
    | dsimp only
    | split

theorem execFetchRefillReturn_held (k : Nat) (a : Dbl) (h : Held v s) : OutHeld v (execFetchRefillReturn k a s) := by
  unfold execFetchRefillReturn
  repeat' first
    | with_reducible assumption
    | with_reducible apply out_noUnit
    | with_reducible apply out_ok
    | with_reducible apply Held.refill
    | with_reducible apply Held.done
    | with_reducible apply Held.gate
    | with_reducible refine go_of (by with_reducible assumption) ?_
    | with_reducible refine wait_of (by with_reducible assumption) ?_
    | with_reducible refine refuse_of (by with_reducible assumption) ?_
    | dsimp only
    | split

theorem execInterruptTaken_held (k : Nat) (h : Held v s) : OutHeld v (execInterruptTaken k s) := by
  unfold execInterruptTaken
  repeat' first
    | with_reducible assumption
    | with_reducible apply out_noUnit
    | with_reducible apply out_ok
    | with_reducible apply Held.takeExc
    | with_reducible apply Held.drawBool
    | dsimp only
    | split

theorem execWatchdogWarning_held (k : Nat) (h : Held v s) : OutHeld v (execWatchdogWarning k s) := by
  unfold execWatchdogWarning
  repeat' first
    | with_reducible assumption
    | with_reducible apply out_noUnit
    | with_reducible apply out_ok
    | with_reducible apply Held.done
    | dsimp only
    | split

theorem execWatchdogExpiry_held (k : Nat) (h : Held v s) : OutHeld v (execWatchdogExpiry k s) := by
  unfold execWatchdogExpiry
  repeat' first
    | with_reducible assumption
    | with_reducible apply out_noUnit
    | with_reducible apply out_ok
    | with_reducible apply Held.haltCore
    | with_reducible apply Held.requestPreempt
    | dsimp only
    | split

theorem execCoreHalted_held (k : Nat) (h : Held v s) : OutHeld v (execCoreHalted k s) := by
  unfold execCoreHalted
  repeat' first
    | with_reducible assumption
    | with_reducible apply out_noUnit
    | with_reducible apply out_ok
    | with_reducible apply Held.drainLoads
    | with_reducible apply Held.done
    | with_reducible refine drain_hold_of (by with_reducible assumption) ?_
    | with_reducible refine drain_done_of (by with_reducible assumption) ?_
    | dsimp only
    | split

theorem execAlloc_held (who : Master) (h : Held v s) : OutHeld v (execAlloc who s) := by
  unfold execAlloc
  repeat' first | with_reducible assumption | with_reducible apply Held.cmdBy

theorem execActivate_held (who : Master) (h : Held v s) : OutHeld v (execActivate who s) := by
  unfold execActivate
  repeat' first | with_reducible assumption | with_reducible apply Held.cmdBy

theorem execSuspend_held (who : Master) (h : Held v s) : OutHeld v (execSuspend who s) := by
  unfold execSuspend
  repeat' first | with_reducible assumption | with_reducible apply Held.cmdBy

theorem execWake_held (who : Master) (h : Held v s) : OutHeld v (execWake who s) := by
  unfold execWake
  repeat' first | with_reducible assumption | with_reducible apply Held.cmdBy

theorem execResumeContext_held (who : Master) (h : Held v s) : OutHeld v (execResumeContext who s) := by
  unfold execResumeContext
  repeat' first | with_reducible assumption | with_reducible apply Held.cmdBy

theorem execRelease_held (who : Master) (h : Held v s) : OutHeld v (execRelease who s) := by
  unfold execRelease
  repeat' first | with_reducible assumption | with_reducible apply Held.cmdBy

theorem execCtxCmdBadop_held (who : Master) (op : BitVec 4) (h : Held v s) : OutHeld v (execCtxCmdBadop who op s) := by
  unfold execCtxCmdBadop
  repeat' first | with_reducible assumption | with_reducible apply Held.cmdBy

theorem execCtxCmdCompletion_held (who : Master) (h : Held v s) : OutHeld v (execCtxCmdCompletion who s) := by
  unfold execCtxCmdCompletion
  repeat' first | with_reducible assumption | with_reducible apply out_ok | with_reducible apply Held.ctxComplete

theorem execDeadlineReached_held (c : BitVec 20) (h : Held v s) : OutHeld v (execDeadlineReached c s) := by
  unfold execDeadlineReached
  repeat' first
    | with_reducible assumption
    | with_reducible apply out_ok
    | with_reducible apply Held.wakeCtx
    | with_reducible apply Held.cbSeen
    | dsimp only
    | split

theorem execSliceExpiry_held (k : Nat) (h : Held v s) : OutHeld v (execSliceExpiry k s) := by
  unfold execSliceExpiry
  repeat' first
    | with_reducible assumption
    | with_reducible apply out_noUnit
    | with_reducible apply out_ok
    | with_reducible apply Held.requestPreempt
    | dsimp only
    | split

theorem execQueueRebuild_held (h : Held v s) : OutHeld v (execQueueRebuild s) := by
  unfold execQueueRebuild
  repeat' first
    | with_reducible assumption
    | with_reducible apply out_ok
    | with_reducible apply Held.rebuildOne
    | with_reducible apply Held.foldl
    | dsimp only
    | split
    | with_reducible apply Held.upd

theorem execInboxDelivery_held (h : Held v s) : OutHeld v (execInboxDelivery s) := by
  unfold execInboxDelivery
  repeat' first | with_reducible assumption | with_reducible apply out_ok | with_reducible apply Held.dispatch

theorem execVictimBoundary_held (k : Nat) (h : Held v s) : OutHeld v (execVictimBoundary k s) := by
  unfold execVictimBoundary
  repeat' first
    | with_reducible assumption
    | with_reducible apply out_noUnit
    | with_reducible apply out_ok
    | with_reducible apply Held.storeVec
    | with_reducible apply Held.loadFault
    | with_reducible apply Held.drainLoads
    | with_reducible apply Held.unclaim
    | with_reducible apply Held.setCb
    | with_reducible apply Held.setCore
    | with_reducible refine drain_hold_of (by with_reducible assumption) ?_
    | with_reducible refine drain_done_of (by with_reducible assumption) ?_
    | dsimp only
    | split

theorem execGroupPreemptStop_held (k : Nat) (h : Held v s) : OutHeld v (execGroupPreemptStop k s) := by
  unfold execGroupPreemptStop
  repeat' first
    | with_reducible assumption
    | with_reducible apply out_noUnit
    | with_reducible apply out_ok
    | with_reducible apply Held.storeVec
    | with_reducible apply Held.installVec
    | with_reducible apply Held.stopAll
    | with_reducible apply Held.checkpoint
    | with_reducible apply Held.onCore
    | with_reducible refine reissue_hold_of (by with_reducible assumption) ?_
    | with_reducible refine reissue_done_of (by with_reducible assumption) ?_
    | dsimp only
    | split

theorem execSaveComplete_held (k : Nat) (h : Held v s) : OutHeld v (execSaveComplete k s) := by
  unfold execSaveComplete
  repeat' first
    | with_reducible assumption
    | with_reducible apply out_noUnit
    | with_reducible apply opt_none
    | with_reducible apply out_ok
    | with_reducible apply opt_some
    | with_reducible apply Held.switchedOut
    | with_reducible apply Held.saveRuns
    | with_reducible apply Held.drainStores
    | with_reducible apply Held.waits
    | with_reducible apply Held.busGate
    | with_reducible apply Held.onCore
    | with_reducible apply opt_findSome
    | with_reducible refine perf_hold_of (by with_reducible assumption) ?_
    | with_reducible refine perf_done_of (by with_reducible assumption) ?_
    | with_reducible refine opt_of (by with_reducible assumption) ?_
    | with_reducible refine refuse_of (by with_reducible assumption) ?_
    | dsimp only
    | split
    | intro _

theorem execBindDecision_held (k : Nat) (h : Held v s) : OutHeld v (execBindDecision k s) := by
  unfold execBindDecision
  repeat' first
    | with_reducible assumption
    | with_reducible apply out_noUnit
    | with_reducible apply out_ok
    | with_reducible apply Held.wakeRegion
    | with_reducible apply Held.chooseFrom
    | with_reducible apply Held.dequeue
    | with_reducible apply Held.onCore
    | with_reducible refine held_fst (by with_reducible assumption) ?_
    | dsimp only
    | split
    | with_reducible apply Held.upd

theorem execClRcData_held (who : Master) (k : Nat) (w : Option Dbl) (h : Held v s) : OutHeld v (execClRcData who k w s) := by
  unfold execClRcData
  repeat' first
    | with_reducible assumption
    | with_reducible apply out_fault
    | with_reducible apply out_refused
    | with_reducible apply Held.readCl
    | with_reducible apply Held.writeCl
    | with_reducible refine out_of (by with_reducible assumption) ?_
    | split

theorem execStoredBitError_held (e : ErrSite) (h : Held v s) : OutHeld v (execStoredBitError e s) := by
  unfold execStoredBitError
  dsimp only
  repeat' first
    | with_reducible assumption
    | with_reducible apply out_ok
    | with_reducible apply out_noUnit
    | split
    | with_reducible apply Held.lit
    | with_reducible exact id
    | with_reducible exact SMap.wf_upd _ _ _ _

theorem execGate_held (k : Nat) (g : BitVec 10) (h : Held v s) : OutHeld v (execGate k g s) := by
  unfold execGate
  refine Held.instr _ _ (fun c => ?_) h
  extract_lets n t i l
  have hd := h.drainLoads k
  split
  · exact out_ok (drain_hold_of (by assumption) hd)
  · exact Held.loadFault _ _ (drain_done_of (by assumption) hd)
  · rename_i e
    replace hd := drain_done_of e hd
    refine out_ite (hd.gateFault _ _) ?_
    split
    · exact hd.gateFault _ _
    · have hb := Held.beforeLoad k l false hd
      split
      · exact out_ok (perf_hold_of (congrArg Prod.fst (by assumption)) hb)
      · exact Held.gateEntered _ _ _ _ _ (perf_done_of (congrArg Prod.fst (by assumption)) hb)
      · rename_i e
        have hr := Held.readMixed (.core k) l (perf_done_of (congrArg Prod.fst e) hb)
        split
        · exact out_ok (rd_hold_of (by assumption) hr)
        · exact Held.gateFault _ _ (rd_got_of (by assumption) hr)
        · exact Held.gateEntered _ _ _ _ _ (rd_got_of (by assumption) hr)

theorem execPendingMchkTaken_held (k : Nat) (h : Held v s) : OutHeld v (execPendingMchkTaken k s) := by
  unfold execPendingMchkTaken
  repeat' first
    | with_reducible assumption
    | with_reducible apply out_noUnit
    | with_reducible apply out_ok
    | with_reducible apply Held.loadFault
    | with_reducible apply Held.enter
    | with_reducible apply Held.room
    | with_reducible apply Held.drainLoads
    | with_reducible apply Held.onCore
    | with_reducible refine drain_hold_of (by with_reducible assumption) ?_
    | with_reducible refine drain_done_of (by with_reducible assumption) ?_
    | with_reducible refine perf_hold_of (by with_reducible assumption) ?_
    | with_reducible refine perf_done_of (by with_reducible assumption) ?_
    | dsimp only
    | split

theorem execRestoreComplete_held (k : Nat) (h : Held v s) : OutHeld v (execRestoreComplete k s) := by
  unfold execRestoreComplete
  refine out_ite out_noUnit ?_
  extract_lets c
  split
  · exact out_ok h
  · rename_i x _
    refine out_ite (out_ok h) (out_ite (out_ok (((h.cbSeen x bindWords).unbind k).enqueue x true)) ?_)
    extract_lets save a offs bad
    have hbad : ∀ t, Held v t → OutHeld v (bad t) := fun t ht => out_ok ((ht.unbind k).toFaulted x 3)
    refine out_ite (hbad _ h) ?_
    have hr := Held.readAll (.core k) (offs.map (fun o => a + o)) h
    split
    · exact out_ok (rd_hold_of (by assumption) hr)
    · exact hbad _ (rd_got_of (by assumption) hr)
    · rename_i t ws e
      replace hr := rd_got_of e hr
      have hm := Held.room k 3 hr
      split
      · exact out_ok (perf_hold_of (by assumption) hm)
      · rename_i t' e'
        replace hm := perf_done_of e' hm
        extract_lets l w wait u next
        have hu : Held v u := hm.started k x save l
        have hw : ∀ y, Held v y → OutHeld v (wait y) := fun y hy =>
          out_ok ⟨fun c => { hm.1 c with regions := (hy.1 c).regions }, hm.2⟩
        have hn : ∀ y, Held v y → OutHeld v (next y) := fun y hy => by
          show OutHeld v (if _ then _ else _)
          split
          · exact Held.enter _ _ hy
          · exact out_ok hy
        clear_value wait next
        have hi := Held.installVec k w hu
        split
        · split
          · exact hn _ (Held.onCore _ _ hu)
          · split
            · exact hw _ (reissue_hold_of (by assumption) hi)
            · exact hn _ (reissue_done_of (by assumption) hi)
        · split
          · exact hw _ (reissue_hold_of (by assumption) hi)
          · exact hn _ (reissue_done_of (by assumption) hi)

end Sys2Proof.Machine
end

