-- ==== Sys2Proof/Laws/HeldExecDevice.lean ====
section
/-! SUPPORT. What the commands of the device around the cores leave as it is. -/

namespace Sys2Proof.Machine

variable {v : Fixed} {s : State}

theorem execPowerCapLower_held (r : PowerReading) (h : Held v s) : OutHeld v (execPowerCapLower r s) := by
  unfold execPowerCapLower
  repeat' first
    | with_reducible assumption
    | with_reducible apply out_ok
    | with_reducible apply Held.powerRead
    | with_reducible apply Held.capLower
    | dsimp only
    | split
    | with_reducible apply Held.upd

theorem execPowerCapRestore_held (r : PowerReading) (h : Held v s) : OutHeld v (execPowerCapRestore r s) := by
  unfold execPowerCapRestore
  repeat' first
    | with_reducible assumption
    | with_reducible apply out_ok
    | with_reducible apply Held.powerRead
    | with_reducible apply Held.capRestore
    | dsimp only
    | split
    | with_reducible apply Held.upd

theorem execInputCurrentClamp_held (i : BitVec 13) (h : Held v s) : OutHeld v (execInputCurrentClamp i s) := by
  unfold execInputCurrentClamp
  repeat' first | with_reducible assumption | with_reducible apply out_ok | split | dsimp only | with_reducible apply Held.upd

theorem execCurrentClampEnd_held (i : BitVec 13) (h : Held v s) : OutHeld v (execCurrentClampEnd i s) := by
  unfold execCurrentClampEnd
  repeat' first | with_reducible assumption | with_reducible apply out_ok | split | dsimp only | with_reducible apply Held.upd

theorem execVinWarning_held (v0 : Nat) (h : Held v s) : OutHeld v (execVinWarning v0 s) := by
  unfold execVinWarning
  repeat' first | with_reducible assumption | with_reducible apply out_ok | split | with_reducible apply Held.upd

theorem execThermalThrottleStep_held (n : Nat) (temp : BitVec 12) (h : Held v s) : OutHeld v (execThermalThrottleStep n temp s) := by
  unfold execThermalThrottleStep
  repeat' first
    | with_reducible assumption
    | with_reducible apply out_noUnit
    | with_reducible apply out_ok
    | with_reducible apply Held.onRgn
    | dsimp only
    | split
    | with_reducible apply Held.upd

theorem execClearFaults_held (h : Held v s) : OutHeld v (execClearFaults s) := by
  unfold execClearFaults
  repeat' first
    | with_reducible assumption
    | with_reducible apply out_ok
    | with_reducible apply Held.smbus
    | dsimp only
    | split
    | with_reducible apply Held.upd

theorem execCapability_held (h : Held v s) : OutHeld v (execCapability s) := by
  unfold execCapability
  repeat' first | with_reducible assumption | with_reducible apply out_ok | with_reducible apply Held.smbus

theorem execStatusWord_held (h : Held v s) : OutHeld v (execStatusWord s) := by
  unfold execStatusWord
  repeat' first | with_reducible assumption | with_reducible apply out_ok | with_reducible apply Held.smbus

theorem execStatusInput_held (h : Held v s) : OutHeld v (execStatusInput s) := by
  unfold execStatusInput
  repeat' first | with_reducible assumption | with_reducible apply out_ok | with_reducible apply Held.smbus

theorem execStatusTemperature_held (h : Held v s) : OutHeld v (execStatusTemperature s) := by
  unfold execStatusTemperature
  repeat' first | with_reducible assumption | with_reducible apply out_ok | with_reducible apply Held.smbus

theorem execReadVin_held (h : Held v s) : OutHeld v (execReadVin s) := by
  unfold execReadVin
  repeat' first | with_reducible assumption | with_reducible apply out_ok | with_reducible apply Held.smbus

theorem execReadIin_held (h : Held v s) : OutHeld v (execReadIin s) := by
  unfold execReadIin
  repeat' first | with_reducible assumption | with_reducible apply out_ok | with_reducible apply Held.smbus

theorem execReadTemperature1_held (h : Held v s) : OutHeld v (execReadTemperature1 s) := by
  unfold execReadTemperature1
  repeat' first | with_reducible assumption | with_reducible apply out_ok | with_reducible apply Held.smbus

theorem execReadTemperature2_held (temp : BitVec 12) (h : Held v s) : OutHeld v (execReadTemperature2 temp s) := by
  unfold execReadTemperature2
  repeat' first
    | with_reducible assumption
    | with_reducible apply out_ok
    | with_reducible apply Held.smbus
    | dsimp only
    | with_reducible apply Held.upd

theorem execReadPin_held (h : Held v s) : OutHeld v (execReadPin s) := by
  unfold execReadPin
  repeat' first | with_reducible assumption | with_reducible apply out_ok | with_reducible apply Held.smbus

theorem execPmbusRevision_held (h : Held v s) : OutHeld v (execPmbusRevision s) := by
  unfold execPmbusRevision
  repeat' first | with_reducible assumption | with_reducible apply out_ok | with_reducible apply Held.smbus

theorem execMfrId_held (h : Held v s) : OutHeld v (execMfrId s) := by
  unfold execMfrId
  repeat' first | with_reducible assumption | with_reducible apply out_ok | with_reducible apply Held.smbus

theorem execMfrModel_held (h : Held v s) : OutHeld v (execMfrModel s) := by
  unfold execMfrModel
  repeat' first | with_reducible assumption | with_reducible apply out_ok | with_reducible apply Held.smbus

theorem execAlertResponseAddress_held (h : Held v s) : OutHeld v (execAlertResponseAddress s) := by
  unfold execAlertResponseAddress
  repeat' first
    | with_reducible assumption
    | with_reducible apply out_ok
    | with_reducible apply Held.smbus
    | dsimp only
    | split
    | with_reducible apply Held.upd

theorem execPmbusUnsupportedCommand_held (_code : BitVec 8) (h : Held v s) : OutHeld v (execPmbusUnsupportedCommand _code s) := by
  unfold execPmbusUnsupportedCommand
  repeat' first | with_reducible assumption | with_reducible apply out_ok | dsimp only | with_reducible apply Held.upd

theorem execHostBarRead_held (bar : Bar) (off : Nat) (cnt : Nat) (h : Held v s) : OutHeld v (execHostBarRead bar off cnt s) := by
  unfold execHostBarRead
  repeat' first
    | with_reducible assumption
    | with_reducible apply out_ok
    | with_reducible apply Held.bar4Read
    | with_reducible apply Held.barRead
    | with_reducible apply Held.waits
    | with_reducible refine opt_of (by with_reducible assumption) ?_
    | split

theorem execHostBarWrite_held (bar : Bar) (off : Nat) (ds : List HostDword) (h : Held v s) : OutHeld v (execHostBarWrite bar off ds s) := by
  unfold execHostBarWrite
  repeat' first
    | with_reducible assumption
    | with_reducible apply out_ok
    | with_reducible apply Held.barWrite
    | with_reducible apply Held.bar4Write
    | with_reducible apply Held.waits
    | with_reducible refine opt_of (by with_reducible assumption) ?_
    | split

theorem execHostKpost_held (who : Master) (v0 : Word) (h : Held v s) : OutHeld v (execHostKpost who v0 s) := by
  unfold execHostKpost
  repeat' first | with_reducible assumption | with_reducible apply Held.writeBy

theorem execMailboxPost_held (who : Master) (len : BitVec 12) (h : Held v s) : OutHeld v (execMailboxPost who len s) := by
  unfold execMailboxPost
  repeat' first | with_reducible assumption | with_reducible apply Held.writeBy

theorem execMailboxRelease_held (who : Master) (h : Held v s) : OutHeld v (execMailboxRelease who s) := by
  unfold execMailboxRelease
  repeat' first | with_reducible assumption | with_reducible apply Held.writeBy

theorem execPcieConfigurationWrite_held (c : CfgWrite) (d3 : Bool) (h : Held v s) : OutHeld v (execPcieConfigurationWrite c d3 s) := by
  unfold execPcieConfigurationWrite
  repeat' first
    | with_reducible assumption
    | with_reducible apply out_ok
    | with_reducible apply Held.msixRelease
    | with_reducible apply Held.foldl
    | dsimp only
    | split
    | with_reducible apply Held.upd

theorem execMsiXTableWrite_held (vec : BitVec 6) (dw : BitVec 2) (v0 : BitVec 32) (h : Held v s) : OutHeld v (execMsiXTableWrite vec dw v0 s) := by
  unfold execMsiXTableWrite
  repeat' first | with_reducible assumption | with_reducible apply out_ok | with_reducible apply Held.msixPut | split

theorem execFunctionLevelReset_held (h : Held v s) : OutHeld v (execFunctionLevelReset s) := by
  unfold execFunctionLevelReset
  repeat' first | with_reducible assumption | with_reducible apply out_ok | with_reducible apply Held.functionReset | split

theorem execPcieLinkUp_held (width : BitVec 3) (speed : BitVec 3) (h : Held v s) : OutHeld v (execPcieLinkUp width speed s) := by
  unfold execPcieLinkUp
  repeat' first | with_reducible assumption | with_reducible apply out_ok | dsimp only | split | with_reducible apply Held.upd

theorem execPorstNRelease_held (sadr : BitVec 3) (tmode : BitVec 2) (h : Held v s) : OutHeld v (execPorstNRelease sadr tmode s) := by
  unfold execPorstNRelease
  repeat' first
    | with_reducible assumption
    | with_reducible apply out_ok
    | with_reducible apply Held.bootCold
    | dsimp only
    | split
    | with_reducible apply Held.updDev
    | exact ⟨rfl, rfl, rfl, rfl⟩

theorem execWrstNAssert_held (h : Held v s) : OutHeld v (execWrstNAssert s) := by
  unfold execWrstNAssert
  repeat' first
    | with_reducible assumption
    | with_reducible apply out_ok
    | with_reducible apply Held.warmReset
    | dsimp only
    | split
    | with_reducible apply Held.updDev
    | exact ⟨rfl, rfl, rfl, rfl⟩

theorem execWrstNRelease_held (h : Held v s) : OutHeld v (execWrstNRelease s) := by
  unfold execWrstNRelease
  repeat' first
    | with_reducible assumption
    | with_reducible apply out_ok
    | with_reducible apply Held.bootWarm
    | dsimp only
    | split
    | with_reducible apply Held.updDev
    | exact ⟨rfl, rfl, rfl, rfl⟩

theorem execInternalResetHoldEnd_held (h : Held v s) : OutHeld v (execInternalResetHoldEnd s) := by
  unfold execInternalResetHoldEnd
  repeat' first
    | with_reducible assumption
    | with_reducible apply out_ok
    | with_reducible apply Held.bootWarm
    | with_reducible apply Held.bootCold
    | split

theorem execPcieHotReset_held (h : Held v s) : OutHeld v (execPcieHotReset s) := by
  unfold execPcieHotReset
  repeat' first
    | with_reducible assumption
    | with_reducible apply out_ok
    | with_reducible apply Held.warmReset
    | with_reducible apply Held.functionReset
    | dsimp only
    | split

theorem execPcieLinkDown_held (h : Held v s) : OutHeld v (execPcieLinkDown s) := by
  unfold execPcieLinkDown
  repeat' first
    | with_reducible assumption
    | with_reducible apply out_ok
    | with_reducible apply Held.warmReset
    | with_reducible apply Held.functionReset
    | dsimp only
    | split
    | with_reducible apply Held.upd

theorem execFusesSensed_held (h : Held v s) : OutHeld v (execFusesSensed s) := by
  unfold execFusesSensed
  repeat' first
    | with_reducible assumption
    | with_reducible apply out_ok
    | dsimp only
    | split
    | with_reducible apply Held.updDev
    | exact ⟨rfl, rfl, rfl, rfl⟩

theorem execHubPllLock_held (h : Held v s) : OutHeld v (execHubPllLock s) := by
  unfold execHubPllLock
  repeat' first
    | with_reducible assumption
    | with_reducible apply out_ok
    | dsimp only
    | split
    | with_reducible apply Held.updDev
    | exact ⟨rfl, rfl, rfl, rfl⟩

theorem execIoDieRollDone_held (pass : Bool) (h : Held v s) : OutHeld v (execIoDieRollDone pass s) := by
  unfold execIoDieRollDone
  repeat' first
    | with_reducible assumption
    | with_reducible apply out_ok
    | with_reducible apply Held.setSig
    | with_reducible apply Held.setRollSt
    | dsimp only
    | split
    | with_reducible apply Held.updDev
    | exact ⟨rfl, rfl, rfl, rfl⟩

theorem execImageVerified_held (a : FlashSlot) (b : FlashSlot) (h : Held v s) : OutHeld v (execImageVerified a b s) := by
  unfold execImageVerified
  repeat' first
    | with_reducible assumption
    | with_reducible apply out_ok
    | with_reducible apply Held.startFirmware
    | dsimp only
    | split
    | with_reducible apply Held.updDev
    | exact ⟨rfl, rfl, rfl, rfl⟩

theorem execEnterStandby_held (who : Master) (h : Held v s) : OutHeld v (execEnterStandby who s) := by
  unfold execEnterStandby
  repeat' first | with_reducible assumption | with_reducible apply Held.writeBy

theorem execReturnToActive_held (who : Master) (h : Held v s) : OutHeld v (execReturnToActive who s) := by
  unfold execReturnToActive
  repeat' first | with_reducible assumption | with_reducible apply Held.writeBy

theorem execStandbyEntry_held (h : Held v s) : OutHeld v (execStandbyEntry s) := by
  unfold execStandbyEntry
  repeat' first
    | with_reducible assumption
    | with_reducible apply out_ok
    | with_reducible apply Held.regionOff
    | with_reducible apply Held.onRgn
    | with_reducible apply Held.foldl
    | intro _ _ _
    | dsimp only
    | split
    | with_reducible exact id
    | with_reducible exact SMap.wf_map _ _ _
    | with_reducible apply Held.lit

theorem execActiveReached_held (h : Held v s) : OutHeld v (execActiveReached s) := by
  unfold execActiveReached
  repeat' first | with_reducible assumption | with_reducible apply out_ok | dsimp only | split | with_reducible apply Held.upd

theorem execVinInRange5Ms_held (h : Held v s) : OutHeld v (execVinInRange5Ms s) := by
  unfold execVinInRange5Ms
  repeat' first | with_reducible assumption | with_reducible apply out_ok | with_reducible apply Held.bootCold | dsimp only | split | with_reducible apply Held.updDev | exact ⟨rfl, rfl, rfl, rfl⟩

theorem execIntLdgDataRead_held (who : Master) (h : Held v s) : OutHeld v (execIntLdgDataRead who s) := by
  unfold execIntLdgDataRead
  repeat' first | with_reducible assumption | with_reducible apply Held.readBy

theorem execIntLdgDataWrite_held (who : Master) (v0 : Word) (h : Held v s) : OutHeld v (execIntLdgDataWrite who v0 s) := by
  unfold execIntLdgDataWrite
  repeat' first | with_reducible assumption | with_reducible apply Held.writeBy

theorem execIntLdgCtlErase_held (who : Master) (h : Held v s) : OutHeld v (execIntLdgCtlErase who s) := by
  unfold execIntLdgCtlErase
  repeat' first | with_reducible assumption | with_reducible apply Held.writeBy

theorem execLedgerProgramDone_held (h : Held v s) : OutHeld v (execLedgerProgramDone s) := by
  unfold execLedgerProgramDone
  repeat' first
    | with_reducible assumption
    | with_reducible apply out_ok
    | with_reducible apply Held.draw
    | dsimp only
    | split
    | with_reducible apply Held.upd

theorem execLedgerEraseDone_held (h : Held v s) : OutHeld v (execLedgerEraseDone s) := by
  unfold execLedgerEraseDone
  repeat' first | with_reducible assumption | with_reducible apply out_ok | dsimp only | split | with_reducible apply Held.upd

theorem execRollRegion_held (who : Master) (tgt : BitVec 7) (h : Held v s) : OutHeld v (execRollRegion who tgt s) := by
  unfold execRollRegion
  repeat' first | with_reducible assumption | with_reducible apply Held.writeBy

theorem execRollCluster_held (who : Master) (tgt : BitVec 7) (h : Held v s) : OutHeld v (execRollCluster who tgt s) := by
  unfold execRollCluster
  repeat' first | with_reducible assumption | with_reducible apply Held.writeBy

theorem execRollIoDie_held (who : Master) (h : Held v s) : OutHeld v (execRollIoDie who s) := by
  unfold execRollIoDie
  repeat' first | with_reducible assumption | with_reducible apply Held.writeBy

theorem execRollEnd_held (tgt : RollTarget) (bad : Option (BitVec 7)) (h : Held v s) : OutHeld v (execRollEnd tgt bad s) := by
  unfold execRollEnd
  repeat' first
    | with_reducible assumption
    | with_reducible apply out_noUnit
    | with_reducible apply out_ok
    | with_reducible apply Held.clusterRolled
    | with_reducible apply Held.regionRolled
    | split

theorem execLnkPnCtl_held (who : Master) (p : Nat) (v0 : Word) (h : Held v s) : OutHeld v (execLnkPnCtl who p v0 s) := by
  unfold execLnkPnCtl
  repeat' first | with_reducible assumption | with_reducible apply out_noUnit | with_reducible apply Held.writeBy | split

theorem execLnkTxsig_held (who : Master) (g : Dbl) (h : Held v s) : OutHeld v (execLnkTxsig who g s) := by
  unfold execLnkTxsig
  repeat' first
    | with_reducible assumption
    | with_reducible apply out_ok
    | with_reducible apply Held.sendSig
    | with_reducible apply Held.drainStores
    | with_reducible refine perf_hold_of (by with_reducible assumption) ?_
    | with_reducible refine perf_done_of (by with_reducible assumption) ?_
    | split

theorem execLnkFtIdx_held (who : Master) (v0 : Word) (h : Held v s) : OutHeld v (execLnkFtIdx who v0 s) := by
  unfold execLnkFtIdx
  repeat' first | with_reducible assumption | with_reducible apply Held.writeBy

theorem execLnkFtCmdWr_held (who : Master) (h : Held v s) : OutHeld v (execLnkFtCmdWr who s) := by
  unfold execLnkFtCmdWr
  repeat' first | with_reducible assumption | with_reducible apply Held.writeBy

theorem execEthernetFrameReceive_held (p : Nat) (sub : Nat) (f : EthFrame) (h : Held v s) : OutHeld v (execEthernetFrameReceive p sub f s) := by
  unfold execEthernetFrameReceive
  repeat' first | with_reducible assumption | with_reducible apply Held.ethReceive | with_reducible apply Held.onLink | intro _

theorem execBosumMsgReceive_held (p : Nat) (f : BosumFrame) (h : Held v s) : OutHeld v (execBosumMsgReceive p f s) := by
  unfold execBosumMsgReceive
  repeat' first | with_reducible assumption | with_reducible apply Held.dataReceive | with_reducible apply Held.onLink | intro _

theorem execBosumSigReceive_held (p : Nat) (f : BosumFrame) (h : Held v s) : OutHeld v (execBosumSigReceive p f s) := by
  unfold execBosumSigReceive
  repeat' first | with_reducible assumption | with_reducible apply Held.dataReceive | with_reducible apply Held.onLink | intro _

theorem execBosumCtrlReceive_held (p : Nat) (f : BosumFrame) (h : Held v s) : OutHeld v (execBosumCtrlReceive p f s) := by
  unfold execBosumCtrlReceive
  repeat' first
    | with_reducible assumption
    | with_reducible apply Held.bareReceive
    | with_reducible apply Held.onLink
    | with_reducible apply Held.onPort
    | intro _

theorem execBosumNakReceive_held (p : Nat) (f : BosumFrame) (h : Held v s) : OutHeld v (execBosumNakReceive p f s) := by
  unfold execBosumNakReceive
  repeat' first
    | with_reducible assumption
    | with_reducible apply Held.bareReceive
    | with_reducible apply Held.onLink
    | with_reducible apply Held.replay
    | with_reducible apply Held.onPort
    | dsimp only
    | split
    | intro _

theorem execBosumInitReceive_held (p : Nat) (f : BosumFrame) (h : Held v s) : OutHeld v (execBosumInitReceive p f s) := by
  unfold execBosumInitReceive
  repeat' first
    | with_reducible assumption
    | with_reducible apply Held.initReceive
    | with_reducible apply Held.bareReceive
    | with_reducible apply Held.onLink
    | intro _

theorem execReplayTimeout_held (p : Nat) (h : Held v s) : OutHeld v (execReplayTimeout p s) := by
  unfold execReplayTimeout
  repeat' first
    | with_reducible assumption
    | with_reducible apply Held.onLink
    | with_reducible apply Held.replay
    | dsimp only
    | split
    | with_reducible apply Held.upd
    | intro _

theorem execCtrlFrameSend_held (p : Nat) (h : Held v s) : OutHeld v (execCtrlFrameSend p s) := by
  unfold execCtrlFrameSend
  repeat' first
    | with_reducible assumption
    | with_reducible apply Held.onLink
    | with_reducible apply Held.onPort
    | dsimp only
    | split
    | with_reducible apply Held.upd
    | intro _

theorem execInitFrameSend_held (p : Nat) (h : Held v s) : OutHeld v (execInitFrameSend p s) := by
  unfold execInitFrameSend
  repeat' first
    | with_reducible assumption
    | with_reducible apply Held.onLink
    | with_reducible apply Held.tryLinkUp
    | with_reducible apply Held.onPort
    | dsimp only
    | split
    | with_reducible apply Held.upd
    | intro _

theorem execFrameTransmit_held (p : Nat) (sub : Nat) (h : Held v s) : OutHeld v (execFrameTransmit p sub s) := by
  unfold execFrameTransmit
  repeat' first | with_reducible assumption | with_reducible apply Held.onLink | with_reducible apply Held.transmit | intro _

theorem execPcsBlockLockLoss_held (p : Nat) (sub : Nat) (h : Held v s) : OutHeld v (execPcsBlockLockLoss p sub s) := by
  unfold execPcsBlockLockLoss
  repeat' first
    | with_reducible assumption
    | with_reducible apply out_noUnit
    | with_reducible apply Held.lockLoss
    | with_reducible apply Held.onLink
    | split
    | intro _

theorem execPcsBlockLockGain_held (p : Nat) (sub : Nat) (h : Held v s) : OutHeld v (execPcsBlockLockGain p sub s) := by
  unfold execPcsBlockLockGain
  repeat' first
    | with_reducible assumption
    | with_reducible apply out_noUnit
    | with_reducible apply Held.onLink
    | with_reducible apply Held.onPort
    | with_reducible apply Held.setPort
    | dsimp only
    | split
    | intro _

theorem execDmaStart_held (who : Master) (n : Nat) (h : Held v s) : OutHeld v (execDmaStart who n s) := by
  unfold execDmaStart
  repeat' first | with_reducible assumption | with_reducible apply Held.writeDma

theorem execDmaStop_held (who : Master) (n : Nat) (h : Held v s) : OutHeld v (execDmaStop who n s) := by
  unfold execDmaStop
  repeat' first | with_reducible assumption | with_reducible apply Held.writeDma

theorem execDmaClear_held (who : Master) (n : Nat) (h : Held v s) : OutHeld v (execDmaClear who n s) := by
  unfold execDmaClear
  repeat' first | with_reducible assumption | with_reducible apply Held.writeDma

theorem execDmaKill_held (who : Master) (n : Nat) (h : Held v s) : OutHeld v (execDmaKill who n s) := by
  unfold execDmaKill
  repeat' first | with_reducible assumption | with_reducible apply Held.writeDma

theorem execDmaShadowWrite_held (who : Master) (n : Nat) (off : BitVec 4) (v0 : Word) (h : Held v s) : OutHeld v (execDmaShadowWrite who n off v0 s) := by
  unfold execDmaShadowWrite
  repeat' first | with_reducible assumption | with_reducible apply Held.writeDma

theorem execDmaReadReturn_held (n : Nat) (hds : List (BitVec 32)) (ep : HostCpl) (h : Held v s) : OutHeld v (execDmaReadReturn n hds ep s) := by
  unfold execDmaReadReturn
  repeat' first | with_reducible assumption | with_reducible apply Held.channel | with_reducible apply Held.dmaRead | intro _

theorem execDmaWriteResponse_held (n : Nat) (h : Held v s) : OutHeld v (execDmaWriteResponse n s) := by
  unfold execDmaWriteResponse
  repeat' first | with_reducible assumption | with_reducible apply Held.channel | with_reducible apply Held.dmaWriteResp | intro _

theorem execDmaCompletion_held (n : Nat) (h : Held v s) : OutHeld v (execDmaCompletion n s) := by
  unfold execDmaCompletion
  repeat' first | with_reducible assumption | with_reducible apply Held.channel | with_reducible apply Held.dmaComplete | intro _

theorem execDmaHalt_held (n : Nat) (h : Held v s) : OutHeld v (execDmaHalt n s) := by
  unfold execDmaHalt
  repeat' first | with_reducible assumption | with_reducible apply Held.channel | with_reducible apply Held.dmaHalt | intro _

theorem execHostDmaTimeout_held (n : Nat) (h : Held v s) : OutHeld v (execHostDmaTimeout n s) := by
  unfold execHostDmaTimeout
  repeat' first | with_reducible assumption | with_reducible apply Held.channel | with_reducible apply Held.dmaTimeout | intro _

theorem execHbmRead_held (who : Master) (a : Dbl) (cnt : Nat) (h : Held v s) : OutHeld v (execHbmRead who a cnt s) := by
  unfold execHbmRead
  repeat' first
    | with_reducible assumption
    | with_reducible apply out_ok
    | with_reducible apply Held.hbmAccess
    | with_reducible apply Held.readBlock
    | intro _ _ _
    | dsimp only
    | split
    | with_reducible apply Held.upd
    | intro _

theorem execHbmWholeBlockWrite_held (who : Master) (a : Dbl) (ws : List Word) (h : Held v s) : OutHeld v (execHbmWholeBlockWrite who a ws s) := by
  unfold execHbmWholeBlockWrite
  repeat' first
    | with_reducible assumption
    | with_reducible apply out_ok
    | with_reducible apply Held.hbmAnswer
    | with_reducible apply Held.hbmAccess
    | with_reducible apply Held.hbmWhole
    | intro _ _ _
    | split
    | with_reducible apply Held.upd
    | intro _

theorem execHbmReadModifyWrite_held (who : Master) (a : Dbl) (ws : List Word) (h : Held v s) : OutHeld v (execHbmReadModifyWrite who a ws s) := by
  unfold execHbmReadModifyWrite
  repeat' first
    | with_reducible assumption
    | with_reducible apply out_ok
    | with_reducible apply Held.hbmAnswer
    | with_reducible apply Held.hbmAccess
    | with_reducible apply Held.hbmRmw
    | intro _ _ _
    | dsimp only
    | split
    | with_reducible apply Held.upd
    | intro _

theorem execHbmScrubBlock_held (h0 : Nat) (h : Held v s) : OutHeld v (execHbmScrubBlock h0 s) := by
  unfold execHbmScrubBlock
  repeat' first
    | with_reducible assumption
    | with_reducible apply out_noUnit
    | with_reducible apply out_ok
    | with_reducible apply Held.hbmScrub
    | split

theorem execBoardAccessGrant_held (n : Nat) (reqs : List BoardReq) (h : Held v s) : OutHeld v (execBoardAccessGrant n reqs s) := by
  unfold execBoardAccessGrant
  repeat' first | with_reducible assumption | with_reducible apply Held.region | with_reducible apply Held.boardTurn | intro _

theorem execScrubRowDue_held (n : Nat) (h : Held v s) : OutHeld v (execScrubRowDue n s) := by
  unfold execScrubRowDue
  repeat' first | with_reducible assumption | with_reducible apply Held.region | with_reducible apply Held.scrubFallsDue | intro _

theorem execScrubTurn_held (n : Nat) (h : Held v s) : OutHeld v (execScrubTurn n s) := by
  unfold execScrubTurn
  repeat' first | with_reducible assumption | with_reducible apply Held.region | with_reducible apply Held.scrubTurn | intro _

theorem execStoreScrubWord_held (st : StoreId) (h : Held v s) : OutHeld v (execStoreScrubWord st s) := by
  unfold execStoreScrubWord
  repeat' first
    | with_reducible assumption
    | with_reducible apply out_noUnit
    | with_reducible apply out_ok
    | with_reducible apply Held.walkStore
    | split

theorem execCastleGo_held (who : Master) (n : Nat) (v0 : Word) (h : Held v s) : OutHeld v (execCastleGo who n v0 s) := by
  unfold execCastleGo
  repeat' first | with_reducible assumption | with_reducible apply Held.writeRgn

theorem execCastleCopyRow_held (n : Nat) (h : Held v s) : OutHeld v (execCastleCopyRow n s) := by
  unfold execCastleCopyRow
  repeat' first | with_reducible assumption | with_reducible apply Held.region | with_reducible apply Held.copyRow | intro _

theorem execCastleSwitchover_held (n : Nat) (h : Held v s) : OutHeld v (execCastleSwitchover n s) := by
  unfold execCastleSwitchover
  repeat' first | with_reducible assumption | with_reducible apply Held.region | with_reducible apply Held.switchover | intro _

theorem execRgnPreqNap_held (who : Master) (n : Nat) (v0 : Word) (h : Held v s) : OutHeld v (execRgnPreqNap who n v0 s) := by
  unfold execRgnPreqNap
  repeat' first | with_reducible assumption | with_reducible apply Held.writeRgn

theorem execRgnPreqOff_held (who : Master) (n : Nat) (v0 : Word) (h : Held v s) : OutHeld v (execRgnPreqOff who n v0 s) := by
  unfold execRgnPreqOff
  repeat' first | with_reducible assumption | with_reducible apply Held.writeRgn

theorem execRgnPreqAutomatic_held (who : Master) (n : Nat) (v0 : Word) (h : Held v s) : OutHeld v (execRgnPreqAutomatic who n v0 s) := by
  unfold execRgnPreqAutomatic
  repeat' first | with_reducible assumption | with_reducible apply Held.writeRgn

theorem execVacate_held (who : Master) (n : Nat) (v0 : Word) (h : Held v s) : OutHeld v (execVacate who n v0 s) := by
  unfold execVacate
  repeat' first | with_reducible assumption | with_reducible apply Held.writeRgn

theorem execHold_held (who : Master) (n : Nat) (v0 : Word) (h : Held v s) : OutHeld v (execHold who n v0 s) := by
  unfold execHold
  repeat' first | with_reducible assumption | with_reducible apply Held.writeRgn

theorem execRequestedStateEntry_held (n : Nat) (h : Held v s) : OutHeld v (execRequestedStateEntry n s) := by
  unfold execRequestedStateEntry
  repeat' first
    | with_reducible assumption
    | with_reducible apply Held.region
    | with_reducible apply Held.requestedEntry
    | intro _

theorem execRegionIdleEntry_held (n : Nat) (h : Held v s) : OutHeld v (execRegionIdleEntry n s) := by
  unfold execRegionIdleEntry
  repeat' first | with_reducible assumption | with_reducible apply Held.region | with_reducible apply Held.idleEntry | intro _

theorem execRegionNapEntry_held (n : Nat) (h : Held v s) : OutHeld v (execRegionNapEntry n s) := by
  unfold execRegionNapEntry
  repeat' first | with_reducible assumption | with_reducible apply Held.region | with_reducible apply Held.napEntry | intro _

theorem execRegionLogicUp_held (n : Nat) (h : Held v s) : OutHeld v (execRegionLogicUp n s) := by
  unfold execRegionLogicUp
  repeat' first | with_reducible assumption | with_reducible apply Held.region | with_reducible apply Held.logicUp | intro _

theorem execZeroFillDone_held (n : Nat) (h : Held v s) : OutHeld v (execZeroFillDone n s) := by
  unfold execZeroFillDone
  repeat' first | with_reducible assumption | with_reducible apply Held.region | with_reducible apply Held.fillDone | intro _

theorem execRgnVf_held (who : Master) (n : Nat) (v0 : Word) (h : Held v s) : OutHeld v (execRgnVf who n v0 s) := by
  unfold execRgnVf
  repeat' first | with_reducible assumption | with_reducible apply Held.writeRgn

theorem execVoltageRampStep_held (n : Nat) (h : Held v s) : OutHeld v (execVoltageRampStep n s) := by
  unfold execVoltageRampStep
  repeat' first
    | with_reducible assumption
    | with_reducible apply Held.region
    | with_reducible apply Held.onRgn
    | split
    | with_reducible apply Held.upd
    | intro _

theorem execRgnTurns_held (who : Master) (n : Nat) (v0 : Word) (h : Held v s) : OutHeld v (execRgnTurns who n v0 s) := by
  unfold execRgnTurns
  repeat' first | with_reducible assumption | with_reducible apply Held.writeRgn

theorem execRgnEccFlip_held (who : Master) (n : Nat) (v0 : Word) (h : Held v s) : OutHeld v (execRgnEccFlip who n v0 s) := by
  unfold execRgnEccFlip
  repeat' first | with_reducible assumption | with_reducible apply Held.writeRgn

theorem execMarginMeasurement_held (n : Nat) (q : BitVec 7) (m : BitVec 10) (h : Held v s) : OutHeld v (execMarginMeasurement n q m s) := by
  unfold execMarginMeasurement
  repeat' first | with_reducible assumption | with_reducible apply Held.region | with_reducible apply Held.margin | intro _

theorem execIdent_held (r : MonReq) (h : Held v s) : OutHeld v (execIdent r s) := by
  unfold execIdent
  repeat' first
    | with_reducible assumption
    | with_reducible apply out_ok
    | with_reducible apply Held.monitor
    | with_reducible apply Held.reply
    | split
    | intro _

theorem execStatus_held (r : MonReq) (h : Held v s) : OutHeld v (execStatus r s) := by
  unfold execStatus
  repeat' first
    | with_reducible assumption
    | with_reducible apply out_ok
    | with_reducible apply Held.monitor
    | with_reducible apply Held.reply
    | intro _

theorem execAuthStart_held (r : MonReq) (role : BitVec 8) (qh : List (BitVec 8)) (h : Held v s) : OutHeld v (execAuthStart r role qh s) := by
  unfold execAuthStart
  repeat' first
    | with_reducible assumption
    | with_reducible apply out_ok
    | with_reducible apply Held.monitor
    | with_reducible apply Held.reply
    | with_reducible apply Held.setMon
    | dsimp only
    | split
    | with_reducible apply Held.upd
    | intro _

theorem execAuthProve_held (r : MonReq) (ph : List (BitVec 8)) (sig : List (BitVec 8)) (h : Held v s) : OutHeld v (execAuthProve r ph sig s) := by
  unfold execAuthProve
  repeat' first
    | with_reducible assumption
    | with_reducible apply out_ok
    | with_reducible apply Held.proofFailed
    | with_reducible apply Held.monitor
    | with_reducible apply Held.reply
    | with_reducible apply Held.answer
    | with_reducible apply Held.setMon
    | dsimp only
    | split
    | intro _

theorem execAuthEnd_held (r : MonReq) (h : Held v s) : OutHeld v (execAuthEnd r s) := by
  unfold execAuthEnd
  repeat' first
    | with_reducible assumption
    | with_reducible apply out_ok
    | with_reducible apply Held.monitor
    | with_reducible apply Held.reply
    | with_reducible apply Held.setMon
    | dsimp only
    | intro _

theorem execSessionTimeout_held (ch : Channel) (h : Held v s) : OutHeld v (execSessionTimeout ch s) := by
  unfold execSessionTimeout
  repeat' first | with_reducible assumption | with_reducible apply out_ok | with_reducible apply Held.setMon | dsimp only | split

theorem execAuthLockoutEnd_held (ch : Channel) (h : Held v s) : OutHeld v (execAuthLockoutEnd ch s) := by
  unfold execAuthLockoutEnd
  repeat' first | with_reducible assumption | with_reducible apply out_ok | with_reducible apply Held.setMon | dsimp only | split

theorem execMonitorFrameDiscard_held (ch : Channel) (bytes : List (BitVec 8)) (h : Held v s) : OutHeld v (execMonitorFrameDiscard ch bytes s) := by
  unfold execMonitorFrameDiscard
  repeat' first | with_reducible assumption | with_reducible apply out_ok | with_reducible apply Held.setMon | dsimp only | split

theorem execMread_held (r : MonReq) (a : Dbl) (cnt : BitVec 16) (h : Held v s) : OutHeld v (execMread r a cnt s) := by
  unfold execMread
  repeat' first
    | with_reducible assumption
    | with_reducible apply Held.monAccess
    | with_reducible apply Held.monDone
    | with_reducible apply Held.monRead
    | dsimp only
    | with_reducible apply Held.upd
    | intro _

theorem execMwrite_held (r : MonReq) (a : Dbl) (cnt : BitVec 16) (ws : List Word) (h : Held v s) : OutHeld v (execMwrite r a cnt ws s) := by
  unfold execMwrite
  repeat' first
    | with_reducible assumption
    | with_reducible apply out_ok
    | with_reducible apply Held.monAccess
    | with_reducible apply Held.monDone
    | with_reducible apply Held.monWrite
    | with_reducible apply Held.reply
    | dsimp only
    | split
    | intro _

theorem execHalt_held (r : MonReq) (k : BitVec 8) (h : Held v s) : OutHeld v (execHalt r k s) := by
  unfold execHalt
  repeat' first | with_reducible assumption | with_reducible apply Held.monRc

theorem execStep_held (r : MonReq) (k : BitVec 8) (h : Held v s) : OutHeld v (execStep r k s) := by
  unfold execStep
  repeat' first | with_reducible assumption | with_reducible apply Held.monRc

theorem execResume_held (r : MonReq) (k : BitVec 8) (h : Held v s) : OutHeld v (execResume r k s) := by
  unfold execResume
  repeat' first | with_reducible assumption | with_reducible apply Held.monRc

theorem execCread_held (r : MonReq) (k : BitVec 8) (sel : Word) (h : Held v s) : OutHeld v (execCread r k sel s) := by
  unfold execCread
  repeat' first
    | with_reducible assumption
    | with_reducible apply out_ok
    | with_reducible apply Held.monitor
    | with_reducible apply Held.reply
    | with_reducible apply Held.onCore
    | dsimp only
    | split
    | intro _

theorem execCwrite_held (r : MonReq) (k : BitVec 8) (sel : Word) (v0 : Dbl) (h : Held v s) : OutHeld v (execCwrite r k sel v0 s) := by
  unfold execCwrite
  repeat' first
    | with_reducible assumption
    | with_reducible apply out_ok
    | with_reducible apply Held.monitor
    | with_reducible apply Held.reply
    | with_reducible apply Held.onCore
    | dsimp only
    | split
    | intro _

theorem execReplan_held (r : MonReq) (h : Held v s) : OutHeld v (execReplan r s) := by
  unfold execReplan
  repeat' first
    | with_reducible assumption
    | with_reducible apply out_ok
    | with_reducible apply Held.monitor
    | with_reducible apply Held.reply
    | with_reducible apply Held.replan
    | with_reducible apply Held.foldl
    | intro _

theorem execResetWarm_held (r : MonReq) (h : Held v s) : OutHeld v (execResetWarm r s) := by
  unfold execResetWarm
  repeat' first
    | with_reducible assumption
    | with_reducible apply out_ok
    | with_reducible apply Held.lastWord
    | with_reducible apply Held.monitor
    | with_reducible apply Held.reply
    | with_reducible apply Held.warmReset
    | intro _

theorem execPowerStandby_held (r : MonReq) (h : Held v s) : OutHeld v (execPowerStandby r s) := by
  unfold execPowerStandby
  repeat' first
    | with_reducible assumption
    | with_reducible apply out_ok
    | with_reducible apply Held.monitor
    | with_reducible apply Held.reply
    | with_reducible apply Held.pwrReq
    | intro _

theorem execPowerActive_held (r : MonReq) (h : Held v s) : OutHeld v (execPowerActive r s) := by
  unfold execPowerActive
  repeat' first
    | with_reducible assumption
    | with_reducible apply out_ok
    | with_reducible apply Held.monitor
    | with_reducible apply Held.reply
    | with_reducible apply Held.pwrReq
    | intro _

theorem execFabricPieceGrant_held (d : Nat) (p : Nat) (reqs : List PieceReq) (h : Held v s) : OutHeld v (execFabricPieceGrant d p reqs s) := by
  unfold execFabricPieceGrant
  repeat' first
    | with_reducible assumption
    | with_reducible apply out_noUnit
    | with_reducible apply out_ok
    | with_reducible apply Held.setFabric
    | with_reducible apply Held.wakeRegion
    | dsimp only
    | split

theorem execFabricPortClockStop_held (d : Nat) (p : Nat) (h : Held v s) : OutHeld v (execFabricPortClockStop d p s) := by
  unfold execFabricPortClockStop
  repeat' first
    | with_reducible assumption
    | with_reducible apply out_noUnit
    | with_reducible apply out_ok
    | with_reducible apply Held.setFabric
    | dsimp only
    | split

theorem execPtpTodRead_held (who : Master) (h : Held v s) : OutHeld v (execPtpTodRead who s) := by
  unfold execPtpTodRead
  repeat' first | with_reducible assumption | with_reducible apply Held.readBy

theorem execPtpSet_held (who : Master) (v0 : Word) (h : Held v s) : OutHeld v (execPtpSet who v0 s) := by
  unfold execPtpSet
  repeat' first | with_reducible assumption | with_reducible apply Held.writeBy

theorem execPtpAdj_held (who : Master) (v0 : Word) (h : Held v s) : OutHeld v (execPtpAdj who v0 s) := by
  unfold execPtpAdj
  repeat' first | with_reducible assumption | with_reducible apply Held.writeBy

theorem execPtpCtlCap_held (who : Master) (v0 : Word) (h : Held v s) : OutHeld v (execPtpCtlCap who v0 s) := by
  unfold execPtpCtlCap
  repeat' first | with_reducible assumption | with_reducible apply Held.writeBy

theorem execTmrNextWrite_held (who : Master) (t : Nat) (v0 : Word) (h : Held v s) : OutHeld v (execTmrNextWrite who t v0 s) := by
  unfold execTmrNextWrite
  repeat' first | with_reducible assumption | with_reducible apply out_noUnit | with_reducible apply Held.writeBy | split

theorem execTimerEvent_held (t : Nat) (h : Held v s) : OutHeld v (execTimerEvent t s) := by
  unfold execTimerEvent
  repeat' first
    | with_reducible assumption
    | with_reducible apply out_noUnit
    | with_reducible apply out_ok
    | with_reducible apply Held.timerFire
    | split

theorem execPpsInEdge_held (h : Held v s) : OutHeld v (execPpsInEdge s) := by
  unfold execPpsInEdge
  repeat' first
    | with_reducible assumption
    | with_reducible apply out_ok
    | with_reducible apply Held.hostIrq
    | dsimp only
    | with_reducible apply Held.upd

theorem execPpsOutRise_held (h : Held v s) : OutHeld v (execPpsOutRise s) := by
  unfold execPpsOutRise
  repeat' first | with_reducible assumption | with_reducible apply out_ok | dsimp only | split | with_reducible apply Held.upd

theorem execPpsOutFall_held (h : Held v s) : OutHeld v (execPpsOutFall s) := by
  unfold execPpsOutFall
  repeat' first | with_reducible assumption | with_reducible apply out_ok | dsimp only | split | with_reducible apply Held.upd

theorem execSyncerrUpdate_held (h : Held v s) : OutHeld v (execSyncerrUpdate s) := by
  unfold execSyncerrUpdate
  repeat' first | with_reducible assumption | with_reducible apply out_ok | with_reducible apply Held.upd

theorem execPipNowRead_held (who : Master) (h : Held v s) : OutHeld v (execPipNowRead who s) := by
  unfold execPipNowRead
  repeat' first | with_reducible assumption | with_reducible apply Held.readBy

theorem execContextStoreCleared_held (h : Held v s) : OutHeld v (execContextStoreCleared s) := by
  unfold execContextStoreCleared
  refine out_ite (out_ok h) (out_ok (h.lit (SMap.wf_purge _ _ _) id id id id id id id))

theorem execHbmFillDone_held (h : Held v s) : OutHeld v (execHbmFillDone s) := by
  unfold execHbmFillDone
  extract_lets g
  exact out_ite (out_ok h) (out_ok (h.lit id (fun _ => rfl) id id id id id id))

end Sys2Proof.Machine
end

