-- ==== Sys2Proof/Laws/HeldExecFuses.lean ====
section
/-! SUPPORT. The commands that can change the life-cycle fuses: the tables stay in canonical form, the queue and the parts of the
device stand. Kept v o says so of an outcome o. -/

namespace Sys2Proof.Machine

variable {v : Fixed} {s : State}

/-- Of an outcome: everything of v but the fuses stands. -/
def OutKept (v : Fixed) (o : Out) : Prop := match o with | .next t => Held (v.fusesOf t) t | .fault _ => True | .refused _ => True

theorem Held.fuses {t : State} (h : Held v t) : Held (v.fusesOf t) t := ⟨h.1, h.2.1, rfl, rfl, h.2.2.2.2.1, h.2.2.2.2.2⟩

theorem OutHeld.kept {o : Out} (h : OutHeld v o) : OutKept v o := by
  cases h with
  | next h => exact Held.fuses h
  | fault => trivial
  | refused => trivial

/-- A change of the fuses and of nothing else that is kept. -/
theorem Held.newFuses (d : Dev) (hd : d.disabled = s.dev.disabled) (hg : d.gx4816 = s.dev.gx4816) (h : Held v s) :
    Held (v.fusesOf { s with dev := d }) { s with dev := d } :=
  ⟨fun c => ⟨(h.1 c).mem, (h.1 c).hbm, (h.1 c).cores, (h.1 c).regions, (h.1 c).dmas, (h.1 c).ports, (h.1 c).timers⟩, h.2.1, rfl, rfl,
    hd.trans h.2.2.2.2.1, hg.trans h.2.2.2.2.2⟩

/-- What an operation that leaves the fuses does after a change of them. -/
theorem kept_after {t u : State} (h : Held (v.fusesOf t) t) (g : ∀ w, Held w t → Held w u) : OutKept v (ok u) :=
  Held.fuses (v := v.fusesOf t) (g _ h)

theorem OutKept.monitor (r : MonReq) (cmd : Byte) (payload : List Byte) (body : State → Out)
    (hbody : ∀ t, Held v t → OutKept v (body t)) (h : Held v s) : OutKept v (s.monitor r cmd payload body) := by
  unfold State.monitor
  split
  · exact OutHeld.kept (out_ok h)
  · exact OutHeld.kept (out_ok (h.reply _ _ _ _))
  · have ha := h.vet r cmd payload
    split
    · rename_i e; rw [e] at ha; exact OutHeld.kept (out_ok (Held.reply _ _ _ _ ha))
    · rename_i e; rw [e] at ha; exact hbody _ ha

theorem kept_ite {c : Prop} [Decidable c] {a b : Out} (ha : OutKept v a) (hb : OutKept v b) : OutKept v (if c then a else b) := by
  split
  · exact ha
  · exact hb

theorem execLcset_kept (r : MonReq) (x : BitVec 8) (h : Held v s) : OutKept v (execLcset r x s) := by
  unfold execLcset
  refine OutKept.monitor _ _ _ _ (fun t ht => ?_) h
  dsimp only
  split
  · exact OutHeld.kept (out_ok (ht.reply _ _ _ _))
  · rename_i f _
    refine kept_ite (OutHeld.kept (out_ok (ht.reply _ _ _ _))) ?_
    exact kept_after (Held.newFuses { t.dev with fuseOp := f } rfl rfl ht) (fun _ hw => hw.reply r 0x61 0 [])

theorem execEnroll_kept (r : MonReq) (key : List (BitVec 8)) (h : Held v s) : OutKept v (execEnroll r key s) := by
  unfold execEnroll
  refine OutKept.monitor _ _ _ _ (fun t ht => ?_) h
  have hr : ∀ st, OutKept v (ok (t.reply r 0x60 st [])) := fun st => OutHeld.kept (out_ok (ht.reply _ _ _ _))
  refine kept_ite (hr _) (kept_ite (hr _) (kept_ite (hr _) ?_))
  exact kept_after (Held.newFuses { (t.draw 256).2.dev with fuseOp := .enroll (Config.sha384 key) (t.draw 256).1 } rfl rfl
    (Held.draw 256 ht)) (fun _ hw => hw.reply r 0x60 0 [])

theorem execPowerOff_kept (r : MonReq) (h : Held v s) : OutKept v (execPowerOff r s) := by
  unfold execPowerOff
  refine OutKept.monitor _ _ _ _ (fun t ht => ?_) h
  exact kept_after (Held.turnOff false (ht.reply r 0x51 0 [])) (fun _ hw => hw.setMon _ _)

theorem execResetCold_kept (r : MonReq) (h : Held v s) : OutKept v (execResetCold r s) := by
  unfold execResetCold
  refine OutKept.monitor _ _ _ _ (fun t ht => ?_) h
  exact kept_after (Held.coldReset 4 .internalCold (ht.reply r 0x50 0 [])) (fun _ hw => hw.setMon _ _)

theorem execInputPowerArrival_held (n : Nat) (h : Held v s) : OutHeld v (execInputPowerArrival n s) := by
  unfold execInputPowerArrival
  split
  · exact out_ok (h.lit id id id id id id id id)
  · exact out_ok h

theorem execThermtrip_kept (x : BitVec 12) (h : Held v s) : OutKept v (execThermtrip x s) :=
  kept_ite (h.turnOff true) (OutHeld.kept (out_ok h))

theorem execUartWakeByte_kept (b : BitVec 8) (h : Held v s) : OutKept v (execUartWakeByte b s) :=
  kept_ite (h.coldReset 6 .internalCold) (OutHeld.kept (out_ok h))

theorem execLifeCycleProgramDone_kept (h : Held v s) : OutKept v (execLifeCycleProgramDone s) := by
  refine kept_ite (OutHeld.kept (out_ok h)) ?_
  have hp := Dev.programmed_parts s.dev
  exact (h.newFuses s.dev.programmed hp.1 hp.2).coldReset 5 .internalCold

theorem execPorstNAssert_kept (h : Held v s) : OutKept v (execPorstNAssert s) := by
  refine kept_ite (OutHeld.kept (out_ok h)) (kept_ite (OutHeld.kept (out_ok (h.updDev ⟨rfl, rfl, rfl, rfl⟩))) ?_)
  exact Held.updDev (h.coldReset 0 .porst) ⟨rfl, rfl, rfl, rfl⟩

theorem execVinOutOfRange_kept (n : Nat) (h : Held v s) : OutKept v (execVinOutOfRange n s) := by
  refine kept_ite ?_ (OutHeld.kept (out_ok h))
  exact Held.lit h.loseAll id id id id id id id id

end Sys2Proof.Machine
end

