-- ==== Sys2Proof/Laws/HeldExecVector.lean ====
section
/-! SUPPORT. What the loads, the stores and the long-vector commands leave as it is. -/

namespace Sys2Proof.Machine

variable {v : Fixed} {s : State}

theorem execLw_held (k : Nat) (d : BitVec 5) (e : MemEa) (h : Held v s) : OutHeld v (execLw k d e s) := by
  unfold execLw
  repeat' first | with_reducible assumption | with_reducible apply Held.loadOp

theorem execSw_held (k : Nat) (rs : BitVec 5) (e : MemEa) (h : Held v s) : OutHeld v (execSw k rs e s) := by
  unfold execSw
  repeat' first | with_reducible assumption | with_reducible apply Held.storeOp

theorem execLd_held (k : Nat) (d : BitVec 5) (e : MemEa) (h : Held v s) : OutHeld v (execLd k d e s) := by
  unfold execLd
  repeat' first | with_reducible assumption | with_reducible apply Held.loadOp

theorem execSd_held (k : Nat) (rs : BitVec 5) (e : MemEa) (h : Held v s) : OutHeld v (execSd k rs e s) := by
  unfold execSd
  repeat' first | with_reducible assumption | with_reducible apply Held.storeOp

theorem execLq_held (k : Nat) (d : BitVec 5) (e : Mem2) (h : Held v s) : OutHeld v (execLq k d e s) := by
  unfold execLq
  repeat' first | with_reducible assumption | with_reducible apply Held.loadOp

theorem execSq_held (k : Nat) (rs : BitVec 5) (e : Mem2) (h : Held v s) : OutHeld v (execSq k rs e s) := by
  unfold execSq
  repeat' first | with_reducible assumption | with_reducible apply Held.storeOp

theorem execLa_held (k : Nat) (d : BitVec 3) (e : Mem2) (h : Held v s) : OutHeld v (execLa k d e s) := by
  unfold execLa
  repeat' first | with_reducible assumption | with_reducible apply Held.loadOp

theorem execSa_held (k : Nat) (rs : BitVec 3) (e : Mem2) (h : Held v s) : OutHeld v (execSa k rs e s) := by
  unfold execSa
  repeat' first | with_reducible assumption | with_reducible apply Held.storeOp

theorem execLf_held (k : Nat) (d : BitVec 5) (e : Mem2) (h : Held v s) : OutHeld v (execLf k d e s) := by
  unfold execLf
  repeat' first | with_reducible assumption | with_reducible apply Held.loadOp

theorem execSf_held (k : Nat) (rs : BitVec 5) (e : Mem2) (h : Held v s) : OutHeld v (execSf k rs e s) := by
  unfold execSf
  repeat' first | with_reducible assumption | with_reducible apply Held.storeOp

theorem execLfw_held (k : Nat) (d : BitVec 5) (e : Mem2) (h : Held v s) : OutHeld v (execLfw k d e s) := by
  unfold execLfw
  repeat' first | with_reducible assumption | with_reducible apply Held.loadOp

theorem execSfw_held (k : Nat) (rs : BitVec 5) (e : Mem2) (h : Held v s) : OutHeld v (execSfw k rs e s) := by
  unfold execSfw
  repeat' first | with_reducible assumption | with_reducible apply Held.storeOp

theorem execLwx_held (k : Nat) (d : BitVec 5) (a : BitVec 3) (h : Held v s) : OutHeld v (execLwx k d a s) := by
  unfold execLwx
  repeat' first | with_reducible assumption | with_reducible apply Held.load | with_reducible apply Held.instr | intro _

theorem execSwx_held (k : Nat) (d : BitVec 5) (rs : BitVec 5) (a : BitVec 3) (h : Held v s) : OutHeld v (execSwx k d rs a s) := by
  unfold execSwx
  repeat' first
    | with_reducible assumption
    | with_reducible apply Held.atomic
    | with_reducible apply Held.putWord
    | with_reducible apply Held.onCore
    | intro _ _ _
    | dsimp only
    | split

theorem execXadd_held (k : Nat) (d : BitVec 5) (rs : BitVec 5) (a : BitVec 3) (h : Held v s) : OutHeld v (execXadd k d rs a s) := by
  unfold execXadd
  repeat' first | with_reducible assumption | with_reducible apply Held.atomic | with_reducible apply Held.putWord | intro _ _ _

theorem execVld_held (k : Nat) (d : BitVec 3) (e : Mem2) (h : Held v s) : OutHeld v (execVld k d e s) := by
  unfold execVld
  repeat' first | with_reducible assumption | with_reducible apply Held.loadOp

theorem execVst_held (k : Nat) (rs : BitVec 3) (e : Mem2) (h : Held v s) : OutHeld v (execVst k rs e s) := by
  unfold execVst
  repeat' first | with_reducible assumption | with_reducible apply Held.storeOp

theorem execVld2_held (k : Nat) (d : BitVec 3) (e : Mem2) (h : Held v s) : OutHeld v (execVld2 k d e s) := by
  unfold execVld2
  repeat' first | with_reducible assumption | with_reducible apply Held.loadOp

theorem execVld3_held (k : Nat) (d : BitVec 3) (e : Mem2) (h : Held v s) : OutHeld v (execVld3 k d e s) := by
  unfold execVld3
  repeat' first | with_reducible assumption | with_reducible apply Held.loadOp

theorem execVld4_held (k : Nat) (d : BitVec 3) (e : Mem2) (h : Held v s) : OutHeld v (execVld4 k d e s) := by
  unfold execVld4
  repeat' first | with_reducible assumption | with_reducible apply Held.loadOp

theorem execVgath_held (k : Nat) (d : BitVec 3) (a : BitVec 3) (i : BitVec 3) (h : Held v s) : OutHeld v (execVgath k d a i s) := by
  unfold execVgath
  repeat' first
    | with_reducible assumption
    | with_reducible apply Held.load
    | with_reducible apply Held.instr
    | with_reducible apply Held.fault
    | split
    | intro _

theorem execVscat_held (k : Nat) (rs : BitVec 3) (a : BitVec 3) (i : BitVec 3) (h : Held v s) : OutHeld v (execVscat k rs a i s) := by
  unfold execVscat
  repeat' first
    | with_reducible assumption
    | with_reducible apply Held.store
    | with_reducible apply Held.instr
    | with_reducible apply Held.fault
    | split
    | intro _

theorem execLoadDataReturn_held (k : Nat) (h : Held v s) : OutHeld v (execLoadDataReturn k s) := by
  unfold execLoadDataReturn
  repeat' first
    | with_reducible assumption
    | with_reducible apply out_noUnit
    | with_reducible apply out_ok
    | with_reducible apply Held.loadFault
    | with_reducible apply Held.drainLoads
    | with_reducible apply Held.readLoad
    | with_reducible apply Held.onCore
    | with_reducible refine drain_hold_of (by with_reducible assumption) ?_
    | with_reducible refine drain_done_of (by with_reducible assumption) ?_
    | with_reducible refine rd_hold_of (by with_reducible assumption) ?_
    | with_reducible refine rd_got_of (by with_reducible assumption) ?_
    | dsimp only
    | split

theorem execStorePerformed_held (k : Nat) (h : Held v s) : OutHeld v (execStorePerformed k s) := by
  unfold execStorePerformed
  repeat' first
    | with_reducible assumption
    | with_reducible apply out_noUnit
    | with_reducible apply out_ok
    | with_reducible apply Held.performStore
    | with_reducible refine perf_hold_of (by with_reducible assumption) ?_
    | with_reducible refine perf_done_of (by with_reducible assumption) ?_
    | split

theorem execVbar_held (k : Nat) (h : Held v s) : OutHeld v (execVbar k s) := by
  unfold execVbar
  repeat' first
    | with_reducible assumption
    | with_reducible apply Held.afterGroups
    | with_reducible apply Held.instr
    | with_reducible apply Held.done
    | intro _

theorem execVbarCompletion_held (k : Nat) (h : Held v s) : OutHeld v (execVbarCompletion k s) := by
  unfold execVbarCompletion
  repeat' first
    | with_reducible assumption
    | with_reducible apply out_noUnit
    | with_reducible apply out_ok
    | with_reducible apply Held.deliverFault
    | with_reducible apply Held.done
    | with_reducible apply Held.setCore
    | dsimp only
    | split

theorem execMtt_held (k : Nat) (t : BitVec 4) (w : BitVec 3) (rs : BitVec 5) (h : Held v s) : OutHeld v (execMtt k t w rs s) := by
  unfold execMtt
  repeat' first
    | with_reducible assumption
    | with_reducible apply Held.needT
    | with_reducible apply Held.instr
    | with_reducible apply Held.done
    | dsimp only
    | intro _

theorem execMft_held (k : Nat) (d : BitVec 5) (t : BitVec 4) (w : BitVec 3) (h : Held v s) : OutHeld v (execMft k d t w s) := by
  unfold execMft
  repeat' first
    | with_reducible assumption
    | with_reducible apply Held.needT
    | with_reducible apply Held.instr
    | with_reducible apply Held.done
    | dsimp only
    | split
    | intro _

theorem execMtac_held (k : Nat) (m : BitVec 2) (l : BitVec 3) (p : BitVec 2) (rs : BitVec 5) (h : Held v s) : OutHeld v (execMtac k m l p rs s) := by
  unfold execMtac
  repeat' first
    | with_reducible assumption
    | with_reducible apply out_ok
    | with_reducible apply Held.afterGroups
    | with_reducible apply Held.needT
    | with_reducible apply Held.instr
    | with_reducible apply Held.done
    | dsimp only
    | split
    | intro _

theorem execMfac_held (k : Nat) (d : BitVec 5) (m : BitVec 2) (l : BitVec 3) (p : BitVec 2) (h : Held v s) : OutHeld v (execMfac k d m l p s) := by
  unfold execMfac
  repeat' first
    | with_reducible assumption
    | with_reducible apply out_ok
    | with_reducible apply Held.afterGroups
    | with_reducible apply Held.needT
    | with_reducible apply Held.instr
    | with_reducible apply Held.done
    | dsimp only
    | split
    | intro _

theorem execQueuedGroupStart_held (k : Nat) (h : Held v s) : OutHeld v (execQueuedGroupStart k s) := by
  unfold execQueuedGroupStart
  repeat' first
    | with_reducible assumption
    | with_reducible apply out_noUnit
    | with_reducible apply out_ok
    | with_reducible apply Held.done
    | dsimp only
    | split

theorem execGroupStep_held (k : Nat) (h : Held v s) : OutHeld v (execGroupStep k s) := by
  unfold execGroupStep
  repeat' first
    | with_reducible assumption
    | with_reducible apply out_noUnit
    | with_reducible apply out_ok
    | with_reducible apply Held.stepGroup
    | with_reducible apply Held.onCore
    | intro _ _ _
    | dsimp only
    | split

theorem execElementCommit_held (k : Nat) (h : Held v s) : OutHeld v (execElementCommit k s) := by
  unfold execElementCommit
  repeat' first
    | with_reducible assumption
    | with_reducible apply out_noUnit
    | with_reducible apply out_ok
    | with_reducible apply Held.commitElement
    | with_reducible apply Held.maybeCommit
    | with_reducible apply Held.writeRefused
    | with_reducible apply Held.writeWaits
    | with_reducible apply Held.onCore
    | with_reducible refine opt_of (by with_reducible assumption) ?_
    | with_reducible refine optFst_of (by with_reducible assumption) ?_
    | dsimp only
    | split

theorem execGroupFault_held (k : Nat) (h : Held v s) : OutHeld v (execGroupFault k s) := by
  unfold execGroupFault
  repeat' first
    | with_reducible assumption
    | with_reducible apply out_noUnit
    | with_reducible apply out_ok
    | with_reducible apply Held.faultOldest
    | split

theorem execGroupRetire_held (k : Nat) (h : Held v s) : OutHeld v (execGroupRetire k s) := by
  unfold execGroupRetire
  repeat' first
    | with_reducible assumption
    | with_reducible apply out_noUnit
    | with_reducible apply out_ok
    | with_reducible apply Held.oldest
    | with_reducible apply Held.checkpoint
    | with_reducible apply Held.onCore
    | with_reducible apply Held.setCore
    | dsimp only
    | split

theorem execChain_held (k : Nat) (n : BitVec 3) (rsv : BitVec 4) (c : BitVec 5) (h : Held v s) : OutHeld v (execChain k n rsv c s) := by
  unfold execChain
  repeat' first
    | with_reducible assumption
    | with_reducible apply out_ok
    | with_reducible apply Held.launch
    | with_reducible apply Held.rejectGroup
    | with_reducible apply Held.deliverFault
    | with_reducible apply Held.fetchExc
    | with_reducible apply Held.fetchWords
    | with_reducible apply Held.instr
    | with_reducible apply Held.illegal
    | with_reducible apply Held.fault
    | with_reducible apply Held.loadFault
    | with_reducible apply Held.drainStores
    | with_reducible apply Held.drainLoads
    | with_reducible apply Held.setCore
    | with_reducible refine drain_hold_of (by with_reducible assumption) ?_
    | with_reducible refine drain_done_of (by with_reducible assumption) ?_
    | with_reducible refine perf_hold_of (by with_reducible assumption) ?_
    | with_reducible refine perf_done_of (by with_reducible assumption) ?_
    | with_reducible refine fetch_hold_of (by with_reducible assumption) ?_
    | with_reducible refine fetch_ok_of (by with_reducible assumption) ?_
    | with_reducible refine fetch_bad_of (by with_reducible assumption) ?_
    | dsimp only
    | split
    | intro _

end Sys2Proof.Machine
end

