-- ==== Sys2Proof/Laws/Instr.lean ====
section
/-! SUPPORT. What an instruction that computes one word does when its core is ready: the shared forms of the integer meanings. -/

namespace Sys2Proof.Safety

open Sys2Proof.Machine

theorem Frame.setCst {c e : Core} {ws as fs} (h : Frame c e ws as fs) (x : Cst) : Frame c { e with cst := x } ws as fs := by
  obtain ⟨hw, ha, hf, hm, ht, hc, hs⟩ := h
  exact ⟨hw, ha, hf, hm, ht, hc, ⟨hs.1, hs.2, hs.3, hs.4, hs.5, hs.6, hs.7, hs.8, hs.9, hs.10, hs.11, hs.12, hs.13, hs.14⟩⟩

theorem Frame.setVmode {c e : Core} {ws as fs} (h : Frame c e ws as fs) (x : Word) : Frame c { e with vmode := x } ws as fs := by
  obtain ⟨hw, ha, hf, hm, ht, hc, hs⟩ := h
  exact ⟨hw, ha, hf, hm, ht, hc, ⟨hs.1, hs.2, hs.3, hs.4, hs.5, hs.6, hs.7, hs.8, hs.9, hs.10, hs.11, hs.12, hs.13, hs.14⟩⟩

theorem Frame.setFmode {c e : Core} {ws as fs} (h : Frame c e ws as fs) (x : Word) : Frame c { e with fmode := x } ws as fs := by
  obtain ⟨hw, ha, hf, hm, ht, hc, hs⟩ := h
  exact ⟨hw, ha, hf, hm, ht, hc, ⟨hs.1, hs.2, hs.3, hs.4, hs.5, hs.6, hs.7, hs.8, hs.9, hs.10, hs.11, hs.12, hs.13, hs.14⟩⟩

end Sys2Proof.Safety

namespace Sys2Proof.Machine

open Sys2Proof.Safety

/-- A result with its flags. -/
theorem alu_gives {s : State} {k : Nat} {d : BitVec 5} {len : Nat} {f : Core → Word × Cst} {v : Word} {x : Cst} (h : Ready s k)
    (hv : (f (s.core k)).1 = v) (hx : (f (s.core k)).2 = x) (hp : x.pl = (s.core k).cst.pl) :
    Gives s k len (s.alu k len d f) (Writes (s.core k) d v x false) := by
  subst hv hx
  unfold State.alu
  rw [State.instr_ready h]
  refine ⟨_, rfl, by simp [Core.retire_pc _ _ h.2.2], by simp, by simp, by simp [withOv], by simp, ?_⟩
  exact ((Frame_retire _ _).setCst _).setW hp _ _

/-- A result that sets no flag. -/
theorem move_gives {s : State} {k : Nat} {d : BitVec 5} {len : Nat} {f : Core → Word} {v : Word} (h : Ready s k) (hv : f (s.core k) = v) :
    Gives s k len (s.move k len d f) (Writes (s.core k) d v (s.core k).cst false) := by
  subst hv
  unfold State.move
  rw [State.instr_ready h]
  refine ⟨_, rfl, by simp [Core.retire_pc _ _ h.2.2], by simp, by simp, by simp [withOv], by simp, ?_⟩
  exact (Frame_retire _ _).setW (by simp) _ _

end Sys2Proof.Machine
end

