-- ==== Sys2Proof/Laws/Memory.lean ====
section
/-! SUPPORT. Stored words after a write: the word written, every other word, and the canonical form that every write keeps. -/

namespace Sys2Proof.Machine

variable {s : State}

@[simp] theorem stored_putStored (a row : Nat) (x : BitVec 31) : (s.putStored a row x).stored a row = x := by
  simp only [State.stored, State.putStored, SMap.get_set_same, BitVec.xor_assoc, BitVec.xor_self, BitVec.xor_zero]

/-- A replaced word leaves every other word. -/
theorem stored_putStored_other (a b row r : Nat) (x : BitVec 31) (h : b ≠ a) : (s.putStored a row x).stored b r = s.stored b r := by
  simp only [State.stored, State.putStored, SMap.get_set_other 0 s.mem _ h]

/-- What a write of a board stores, the mask of RGN_ECC_FLIP apart, and nothing else of memory. -/
theorem writeBoard_mem (n off : Nat) (v : Word) (c : Bool) : (s.writeBoard n off v c).mem = SMap.set 0 s.mem (0x800000 * n + off)
    ((encode v (rowOf off) ^^^ (if (c && (s.rgn n).armed) = true then (s.rgn n).flip.extractLsb' 0 31 else 0)) ^^^ encode 0 (rowOf off)) := by
  unfold State.writeBoard
  cases c <;> cases h : (s.rgn n).armed <;> simp [State.putStored, State.clearResv, State.setRgn, h]

theorem stored_writeBoard_other (n off b r : Nat) (v : Word) (c : Bool) (h : b ≠ 0x800000 * n + off) :
    (s.writeBoard n off v c).stored b r = s.stored b r := by
  simp only [State.stored, writeBoard_mem, SMap.get_set_other 0 s.mem _ h]

theorem stored_writeStore_other (a b r : Nat) (l : Loc) (v : Word) (h : b ≠ a) : (s.writeStore a l v).stored b r = s.stored b r :=
  stored_putStored_other _ _ _ _ _ h

/-- A word of memory that nothing has written reads 0. -/
theorem peek_of_unlisted (a : Nat) (l : Loc) (h : SMap.get 0 s.mem a = 0) : s.peek a l = .good 0 0 := by
  simp only [State.peek, State.stored, h]
  exact decode_zero _

/-! ## The canonical form -/

theorem putStored_wf (a row : Nat) (x : BitVec 31) (h : Memory.wf s.mem = true) : Memory.wf (s.putStored a row x).mem = true :=
  SMap.wf_set _ _ _ _ h

theorem writeBoard_wf (n off : Nat) (v : Word) (c : Bool) (h : Memory.wf s.mem = true) : Memory.wf (s.writeBoard n off v c).mem = true := by
  rw [writeBoard_mem]
  exact SMap.wf_set _ _ _ _ h

theorem writeStore_wf (a : Nat) (l : Loc) (v : Word) (h : Memory.wf s.mem = true) : Memory.wf (s.writeStore a l v).mem = true :=
  SMap.wf_set _ _ _ _ h

theorem scramble_wf (l : List Nat) (h : Memory.wf s.mem = true) : Memory.wf (s.scramble l).mem = true := by
  induction l generalizing s with
  | nil => exact h
  | cons a l ih =>
    refine ih ?_
    show Memory.wf (match (s.draw 20).2.locOf a with | .region n off => (s.draw 20).2.writeBoard n off (s.draw 20).1 true | _ => (s.draw 20).2).mem = true
    split
    · exact writeBoard_wf _ _ _ _ h
    · exact h

/-- Lanes that become free leave memory. -/
theorem freeLanes_mem (k : Nat) (l : List Nat) : (s.freeLanes k l).mem = s.mem := by
  induction l generalizing s with
  | nil => rfl
  | cons i l ih => exact ih

theorem coefWritten_wf (l : Loc) (h : Memory.wf s.mem = true) : Memory.wf (s.coefWritten l).mem = true := by
  cases l <;> try exact h
  unfold State.coefWritten
  dsimp only
  split
  · exact h
  · rw [freeLanes_mem]
    exact scramble_wf _ h

theorem writeLoc_wf (a : Nat) (l : Loc) (v : Word) (h : Memory.wf s.mem = true) : Memory.wf (s.writeLoc a l v).mem = true := by
  cases l <;> first | exact writeBoard_wf _ _ _ _ h | exact writeStore_wf _ _ _ h | exact coefWritten_wf _ (writeStore_wf _ _ _ h) | exact h

theorem writeLocs_wf (ws : List Word) (a : Nat) (h : Memory.wf s.mem = true) : Memory.wf (s.writeLocs a ws).mem = true := by
  induction ws generalizing s a with
  | nil => exact h
  | cons v vs ih => exact ih _ (writeLoc_wf _ _ _ h)

theorem setCb_wf (c w : Nat) (v : Word) (h : Memory.wf s.mem = true) : Memory.wf (s.setCb c w v).mem = true := writeStore_wf _ _ _ h

theorem reset_wf : Memory.wf State.reset.mem = true := rfl

end Sys2Proof.Machine
end

