-- ==== Sys2Proof/Tests/Slice0.lean ====
section
/-! SUPPORT. The package's own tests: ill-formed terms that the checks refuse, single steps whose expected results are the
manual's worked examples, and for each statement with hypotheses a state and operands that meet them. -/

namespace Sys2Proof.Tests

set_option Elab.async false

open Sys2Proof Sys2Proof.Machine Sys2Proof.Safety

/-! ## Builders -/

/-- Context 5 runs on cluster 3, region 1 runs. -/
def coreAt (c : Core) : State :=
  { cores := [(3, { c with bound := some 5, phase := .running })], regions := [(1, { pstate := .run })] }

/-- The same at U or S, with both profile bits, and a window over region 1 that grants R, W and X. -/
def userAt (c : Core) : State :=
  ((((coreAt c).setCb 5 4 0x3).setCb 5 16 0x7).setCb 5 18 0xFFFF0).setCb 5 19 0x2F

/-- The state that a command leaves. -/
def after (o : Out) : State := match o with | .next t => t | _ => {}

/-- The core that a command on cluster 3 leaves. -/
def coreAfter (o : Out) : Core := (after o).core 3

/-- A word of a region stored. -/
def put (s : State) (a : Nat) (v : Word) : State :=
  match s.locOf a with
  | .region n off => s.writeBoard n off v false
  | l => s.writeStore a l v

/-- A word read. -/
def peekAt (s : State) (a : Nat) : Decoded := s.peek a (s.locOf a)

/-! ## Commands that name what the device has not got -/

theorem test_wf_cluster : Instr.wf (.nop 95) = true ∧ Instr.wf (.nop 96) = false := by decide
theorem test_wf_cluster_and_master : Instr.wf (.clIpost (.core 96) 0 1) = false ∧ Instr.wf (.clMflt .keeper 96 1) = false := by decide
theorem test_wf_master_channel : Instr.wf (.registerWrite (.dma 96) 0 0) = false ∧ Instr.wf (.registerWrite .host 0 0) = true := by decide
theorem test_wf_badop : Instr.wf (.ctxCmdBadop .keeper 7) = true ∧ Instr.wf (.ctxCmdBadop .keeper 6) = false := by decide
theorem test_wf_region : Instr.wf (.scrubTurn 47) = true ∧ Instr.wf (.scrubTurn 48) = false := by decide
theorem test_wf_board_slot : Instr.wf (.boardAccessGrant 0 [⟨17, .keeper, 0, .read⟩]) = false := by decide
theorem test_wf_board_offset : Instr.wf (.boardAccessGrant 0 [⟨16, .keeper, 0x7F0000, .read⟩]) = false := by decide
theorem test_wf_store : Instr.wf (.storeScrubWord (.coef 96)) = false := by decide
theorem test_wf_region_and_master : Instr.wf (.hold .keeper 48 1) = false := by decide
theorem test_wf_die_and_port : Instr.wf (.fabricPortClockStop 4 0) = false ∧ Instr.wf (.fabricPortClockStop 3 80) = true ∧ Instr.wf (.fabricPortClockStop 3 81) = false := by decide
theorem test_wf_piece : let p (n m : Nat) : PieceReq := { master := m, wr := false, c0 := false, beats := n }
    Instr.wf (.fabricPieceGrant 0 0 [p 256 65]) = true ∧ Instr.wf (.fabricPieceGrant 0 0 [p 0 65]) = false
      ∧ Instr.wf (.fabricPieceGrant 0 0 [p 257 65]) = false ∧ Instr.wf (.fabricPieceGrant 0 0 [p 1 66]) = false := by decide
theorem test_wf_channel : Instr.wf (.dmaHalt 95) = true ∧ Instr.wf (.dmaHalt 96) = false := by decide
theorem test_wf_hbm_read : Instr.wf (.hbmRead .keeper 0x100000000 0) = false ∧ Instr.wf (.hbmRead .keeper 0x100000000 1025) = false := by decide
theorem test_wf_hbm_block : Instr.wf (.hbmWholeBlockWrite .keeper 0x100000000 [1]) = false := by decide
theorem test_wf_hbm_part : Instr.wf (.hbmReadModifyWrite .keeper 0x100000000 []) = false := by decide
theorem test_wf_stack : Instr.wf (.hbmScrubBlock 4) = false := by decide
theorem test_wf_link_port : Instr.wf (.replayTimeout 7) = true ∧ Instr.wf (.replayTimeout 8) = false := by decide
theorem test_wf_sub_port : Instr.wf (.frameTransmit 7 8) = false := by decide
theorem test_wf_timer : Instr.wf (.timerEvent 63) = true ∧ Instr.wf (.timerEvent 64) = false := by decide
theorem test_wf_bar_offset : Instr.wf (.hostBarRead .bar2 2 1) = false ∧ Instr.wf (.hostBarRead .bar2 (2 ^ 30) 1) = false := by decide
theorem test_wf_host_length : Instr.wf (.hostBarWrite .bar2 0 []) = false := by decide
theorem test_wf_readings : Instr.wf (.powerCapLower ⟨8192, 0, 0, 0, 0, false⟩) = false := by decide
theorem test_wf_voltage : Instr.wf (.vinOutOfRange 8192) = false := by decide
theorem test_wf_roll_target : Instr.wf (.rollEnd (.region 48) none) = false ∧ Instr.wf (.rollEnd (.cluster 96) none) = false := by decide
theorem test_wf_flash : Instr.wf (.imageVerified ⟨[], [], false⟩ ⟨[], [], false⟩) = false := by decide
theorem test_wf_request_flags : Instr.wf (.ident ⟨.uart, 0, 4, 0⟩) = false := by decide
theorem test_wf_point : Instr.wf (.authStart ⟨.uart, 0, 0, 0⟩ 0 []) = false := by decide
theorem test_wf_signature : Instr.wf (.authProve ⟨.uart, 0, 0, 0⟩ (List.replicate 97 0) []) = false := by decide
theorem test_wf_mwrite : Instr.wf (.mwrite ⟨.uart, 0, 0, 0⟩ 0 0 []) = false := by decide
theorem test_wf_frame_length : Instr.wf (.monitorFrameDiscard .uart []) = true := by decide
theorem test_wf_site : Instr.wf (.storedBitError (.sram 0x7F0000 1)) = false ∧ Instr.wf (.storedBitError (.sram 0x20000000 1)) = true := by decide

/-! ## Single steps and operations, with the manual's own results -/

/-- 00, the example of region 29: the windows, blocks and control block. -/
theorem test_map_of_region_29 :
    State.reset.locOf 0x0E800000 = .region 29 0 ∧ State.reset.locOf 0x0EFEFFFF = .region 29 0x7EFFFF
      ∧ State.reset.locOf 0x0EFF0000 = .none ∧ State.reset.locOf 0x400EC000 = .coef 59 0 ∧ cbAddr 0x1234 0 = 0x20024680 := by
  decide +kernel
/-- 02, the example of one word of region 29. -/
theorem test_square_and_row : squareOf 0xF4240 = 2 ∧ rowOf 0xF4240 = 0x1EC2 := by decide +kernel
/-- 04, the squares of a bit-reversed stream. -/
theorem test_squares_of_stream :
    [0x10000, 0x11000, 0x10800, 0x11800, 0x10400, 0x11400, 0x10C00, 0x11C00].map squareOf = [4, 36, 20, 52, 12, 44, 28, 60] := by
  decide +kernel
/-- 04, T.FMT 0x01908 and 0x01928: the words of elements 0, 1 and 3 of T0 and T1. -/
theorem test_structure_stream :
    let d (f : Word) := descOf [0x10000, 0x00020, 1, 0x1000, f, 0, 0, 0]
    [0, 1, 3].map (fun i => (d 0x01908).words i 0) = [[0x2010000], [0x2011000], [0x2011800]]
      ∧ [0, 1, 3].map (fun i => (d 0x01928).words i 0) = [[0x2010001], [0x2011001], [0x2011801]] := by decide +kernel
/-- 03, the table of the two narrowings. -/
theorem test_narrowings :
    [narrow 0x0030000C0000 19 0 true 20, narrow 0x0030000C0000 19 1 true 20, narrow 0x0030000C0000 19 2 true 20,
      narrow 0x0030000C0000 19 3 true 20, narrow 0x006000000000 19 2 true 20, narrow 0x006000000000 19 2 false 20,
      narrow 0x006000000000 20 2 true 20]
      = [(0x60001, false), (0x60002, false), (0x60002, false), (0x60001, false), (0x7FFFF, true), (0xC0000 - 0x100000, true),
        (0x60000, false)] := by decide +kernel
/-- 03: F20 (1 − 2^−13) × 2^−126 rounds to 0x00800 with NX alone, under either setting of FTZ. -/
theorem test_smallest_normal :
    f20.round 0 true false 8191 (-139) false = (0x00800, { nx := true })
      ∧ f20.round 0 false false 8191 (-139) false = (0x00800, { nx := true }) := by decide +kernel

/-- R242 and R241: 0xFFFFF + 1 wraps to 0 with Z and C. -/
theorem test_add_wraps : let c := coreAfter (exec (.add 3 1 2 3) (coreAt { w := [(2, 0xFFFFF), (3, 1)] }))
    c.wr 1 = 0 ∧ c.cst.z = true ∧ c.cst.c = true ∧ c.cst.n = false ∧ c.pc = 1 := by decide +kernel
/-- R241: 0 − 1 borrows: C is 0. -/
theorem test_sub_borrows : let c := coreAfter (exec (.sub 3 2 2 3) (coreAt { w := [(3, 1)] }))
    c.wr 2 = 0xFFFFF ∧ c.cst.n = true ∧ c.cst.c = false := by decide +kernel
/-- R208: a write of W0 has no effect. -/
theorem test_w0_stays : (coreAfter (exec (.movi 3 0 7) (coreAt {}))).wr 0 = 0 := by decide +kernel
/-- 10, the example of a divide: 0x80000 by −1, forced saturation. -/
theorem test_divide : let s := after (exec (.div 3 8 4 5 2) (coreAt { w := [(4, 0x80000), (5, 0xFFFFF)] }))
    let c := coreAfter (exec (.divisionComplete 3) s)
    c.wr 8 = 0x7FFFF ∧ c.wr 9 = 0 ∧ c.vmode = 0x160 ∧ c.pc = 2 := by decide +kernel
/-- 10, the same with an odd pair: illegal instruction, code 1, and no division. -/
theorem test_divide_odd_pair : let c := coreAfter (exec (.div 3 3 4 5 2) (coreAt { w := [(4, 0x80000), (5, 0xFFFFF), (wKey .m 30, 0x200)], msb := 0x800000 }))
    c.causeM = 1 ∧ c.div = none ∧ c.pc = 16 := by decide +kernel
/-- R68: 0x80000 × 0x80000 as Q1.19 gives 0x7FFFF with OV when S = 1. -/
theorem test_mulq_minus_one : let c := coreAfter (exec (.mulq 3 1 2 2 ⟨true, 0, 2⟩) (coreAt { w := [(2, 0x80000)] }))
    c.wr 1 = 0x7FFFF ∧ c.vmode = 0x160 := by decide +kernel
/-- R229: the exact product of MULW, low word in the even register. -/
theorem test_mulw : let c := coreAfter (exec (.mulw 3 4 2 2) (coreAt { w := [(2, 0x80000)] }))
    c.wr 4 = 0 ∧ c.wr 5 = 0x40000 := by decide +kernel
/-- 10, the reduction loop: LAL and LAH make 0x00_0281_0000. -/
theorem test_lah : (coreAfter (exec (.lah 3 1 0x28) (coreAt { a := [(1, 0x10000)] }))).ar 1 = 0x2810000 := by decide +kernel
/-- 10, the reduction loop: DBNZ W3, −3 from 0x…0B with two passes left, and with one. -/
theorem test_dbnz :
    (coreAfter (exec (.dbnz 3 3 0xFFFFD) (coreAt { pc := 0x202000B, w := [(3, 2)] }))).pc = 0x2020008
      ∧ (coreAfter (exec (.dbnz 3 3 0xFFFFD) (coreAt { pc := 0x202000B, w := [(3, 1)] }))).pc = 0x202000D := by decide +kernel
/-- R246 mode 01: the load leaves A1 one word on; R217: the word comes after the delay slot. -/
theorem test_lw_delay_slot :
    let s := put (userAt { a := [(1, 0x810000)], w := [(5, 7)] }) 0x810000 0x12345
    let t := after (exec (.lw 3 5 (.one 1 1 1)) s)
    let u := after (exec (.add 3 6 6 5) t)
    (t.core 3).ar 1 = 0x810001 ∧ (t.core 3).wr 5 = 7 ∧ (u.core 3).wr 6 = 7
      ∧ (coreAfter (exec (.loadDataReturn 3) u)).wr 5 = 0x12345 := by decide +kernel
/-- R220: a store goes to the buffer; R19: performed, its word is read. -/
theorem test_store :
    let t := after (exec (.sw 3 5 (.one 1 0 2)) (userAt { a := [(1, 0x810000)], w := [(5, 0xABCDE)] }))
    (t.core 3).sbuf = [⟨0x810002, [0xABCDE]⟩] ∧ peekAt t 0x810002 = .good 0 0
      ∧ peekAt (after (exec (.storePerformed 3) t)) 0x810002 = .good 0xABCDE 0 := by decide +kernel
/-- 06, lane 3 of AC1 holding −1.0 as A48, 0xFFC000000000: the three words of R62. -/
theorem test_mfac :
    let s := userAt { ac := [(11, 0xFFC000000000)] }
    let g (p : BitVec 2) := (coreAfter (exec (.mfac 3 4 1 3 p) s)).wr 4
    g 0 = 0 ∧ g 1 = 0xC0000 ∧ g 2 = 0xFFFFF := by decide +kernel
/-- 06: its middle word set to 0x20000. -/
theorem test_mtac :
    SMap.get 0 (coreAfter (exec (.mtac 3 1 3 1 4) (userAt { ac := [(11, 0xFFC000000000)], w := [(4, 0x20000)] }))).ac 11
      = 0xFF2000000000 := by decide +kernel
/-- R211: lanes of F20 and R82: 1 + 1 in the first lane is 2, flags none. -/
theorem test_sfadd :
    (coreAfter (exec (.sfadd 3 ⟨2, 0⟩ 1 0 0) (userAt { f := [(0, 0x3F800)] }))).fr 4 = 0x40000 := by decide +kernel
/-- R77: F20 1 ÷ 0 raises DZ and gives +∞. -/
theorem test_fdiv_by_zero : let c := coreAfter (exec (.fdiv 3 false 2 0 1) (userAt { f := [(0, 0x3F800)] }))
    c.fr 2 = 0x7F800 ∧ c.fmode ≠ 0 := by decide +kernel

/-- 06, the butterfly group: fetched words, and the group that CHAIN issues; the core goes on behind its seven words. -/
theorem test_chain_issue :
    let words : List Word := [0xF0600, 0xF9684, 0x18500, 0xF8014, 0x11001, 0xF821C, 0x11001]
    let t : SMap Word := [(19, 16), (20, 2), (27, 16), (28, 2), (35, 16), (36, 2), (43, 16), (44, 2), (51, 16), (52, 2)]
    let s := userAt { t := t, pc := 0x820000, fbuf := [⟨0x820000, (words ++ [0]).map FWord.ok⟩] }
    let c := coreAfter (exec (.chain 3 3 0 0) s)
    c.pc = 0x820007 ∧ c.stopped.map (fun g => (g.vfc, g.len)) = [] ∧ c.groups.map (fun g => (g.n, g.len, g.running)) = [(3, 16, true)] := by
  decide +kernel
/-- 06: the pair 0xF9A8C, 0x2A0E2 has the reserved OP 0x0D: FORM. -/
theorem test_chain_form :
    let s := userAt { pc := 0x820000, fbuf := [⟨0x820000, ([0xF0200, 0xF9A8C, 0x2A0E2, 0, 0, 0, 0, 0] : List Word).map FWord.ok⟩] }
    let c := coreAfter (exec (.chain 3 1 0 0) s)
    c.groups = [] ∧ c.vfc &&& 0x40007 = 0x40001 ∧ c.stopped.length = 1 := by decide +kernel

/-! ## Exceptions, waits, vector faults -/

/-- The caller of the gate example of 11: context 0x111 at U on cluster 8 (CST 0x00201), its windows, its gate table. -/
def gateCaller : State :=
  let c : Core := { bound := some 0x111, phase := .running, pc := 0x2020040, cst := { pl := .u, ie := true, c := true }, gtb := 0x203F000, gtn := 64, ssb := 0x2040000, a := [(0, 0x2012000)], w := [(1, 0x2000), (wKey .s 30, 0x200)] }
  let s : State := { cores := [(8, c)], regions := [(4, { pstate := .run })] }
  let s := (((s.setCb 0x111 16 0x10003).setCb 0x111 17 0x20).setCb 0x111 18 0x1FFF0).setCb 0x111 19 0x20
  let s := (((s.setCb 0x111 20 0x38007).setCb 0x111 21 0x20).setCb 0x111 22 0x40FF0).setCb 0x111 23 0x20
  put (put (put s 0x203F014 0x38000) 0x203F015 0x20) 0x203F016 0xD0000

/-- 11, the example of a gate call: gate 5's frame at 0x00_0204_01F8, and the caller's state after it. -/
theorem test_gate : let c := (after (exec (.gate 8 5) gateCaller)).core 8
    c.sbuf = [⟨0x20401F8, [0x201, 9, 0x20041, 0x20]⟩, ⟨0x20401FC, [5, 0, 0, 0]⟩] ∧ c.pc = 0x2038000 ∧ c.cst.word false = 0x601
      ∧ SMap.get 0 c.w (wKey .s 30) = 0x1F8 := by decide +kernel
/-- R264, R267: an illegal instruction (major 11100, R239) at M pushes its frame at MSB + W30 − 8 and enters at MEVB + 16. -/
theorem test_illegal_frame :
    let c := coreAfter (exec (.illegalInstruction 3) (coreAt { pc := 0x812345, w := [(wKey .m 30, 0x200)], msb := 0x840000, mevb := 0x800000, fbuf := [⟨0x812345, [FWord.ok 0xE0000]⟩] }))
    c.sbuf = [⟨0x8401F8, [0x00C00, 1, 0x12345, 8]⟩, ⟨0x8401FC, [0, 0, 0, 0]⟩] ∧ c.pc = 0x800010 ∧ c.w = [(wKey .m 30, 0x1F8)] := by
  decide +kernel
/-- R174, 07: the record word of a delivered vector fault and VBAR_COMPLETION with nothing in flight. -/
theorem test_vbar_completion : let c := coreAfter (exec (.vbarCompletion 3) (coreAt { vbar := true }))
    c.vbar = false ∧ c.pc = 1 := by decide +kernel
/-- 08, the beamformer: DMA set in CB.WAKE of a context that waits for it: 0x02008, and READY; W0 reads 0x61A02. -/
theorem test_wake_by_dma :
    let s := ((State.reset.setCb 0x208 0 0x41A02).setCb 0x208 1 0x8).wakeCtx 0x208 3
    s.cb 0x208 1 = 0x2008 ∧ s.cb 0x208 0 = 0x61A02 ∧ SMap.get [] s.sched.ready (queueOf (s.cb 0x208 0)) = [0x208] := by decide +kernel
/-- R187: WAIT whose mask holds a cause returns it and clears it. -/
theorem test_wait_returns :
    let s := ((userAt { cst := { pl := .s }, w := [(2, 0x08)] }).setCb 5 0 0x80101).setCb 5 1 0x2008
    let t := after (exec (.wait 3 4 2 0) s)
    (t.core 3).wr 4 = 8 ∧ t.cb 5 1 = 8 ∧ (t.core 3).pc = 1 := by decide +kernel
/-- R189: ALLOC of a FREE context. -/
theorem test_alloc :
    let s := { State.reset with sched := { State.reset.sched with arg := [(bankOf .keeper, 7)] } }
    let t := after (exec (.alloc .keeper) s)
    t.ctxState 7 = 1 ∧ SMap.get 0 t.sched.stat (bankOf .keeper) = 0 := by decide +kernel

/-! ## Regions, DMA, HBM -/

/-- R42: a double error of a word in a region is uncorrectable, a single one is corrected; R352: the poison vector. -/
theorem test_stored_errors :
    let s := put (coreAt {}) 0x812345 0x5A5A5
    let hit (m : BitVec 31) : Decoded := peekAt (after (exec (.storedBitError (.sram 0x812345 m)) s)) 0x812345
    hit 4 = .good 0x5A5A5 1 ∧ hit 0x21 = .good 0x5A5A5 2 ∧ hit poisonVec = .poison := by decide +kernel
/-- R34: one turn grants one access of each square; a write is read back. -/
theorem test_board_turn :
    let t := after (exec (.boardAccessGrant 1 [⟨3, .core 3, 0x10, .write 0xABCDE⟩]) (coreAt {}))
    peekAt t 0x800010 = .good 0xABCDE 0 ∧ (t.rgn 1).turn = 1 := by decide +kernel
/-- R41: no start while the spare square is in use. -/
theorem test_castle_refused :
    let s := (coreAt {}).setRgn 1 { pstate := .run, moved := 9 }
    ((after (exec (.castleGo .keeper 1 (BitVec.ofNat 20 (3 * 128))) s)).rgn 1).cstat = .refused := by decide +kernel
/-- R47: VCODE and FDIV_K above their ranges are clamped. -/
theorem test_rgn_vf : ((after (exec (.rgnVf .keeper 1 0x3FFF) (coreAt {}))).rgn 1).vf = BitVec.ofNat 20 (120 * 32 + 20) := by decide +kernel
/-- R296: a write of another shadow register clears VALID. -/
theorem test_shadow :
    let s := State.reset.setChan 40 { sh := { ctl := 0xA0020 } }
    ((after (exec (.dmaShadowWrite .keeper 40 8 0x180) s)).chan 40).sh.ctl = 0x20020 := by decide +kernel
/-- 12, the coefficient load: START promotes pass 0. -/
theorem test_start :
    let d : DmaSet := { src := 0xD010000, dst := 0x400D0000, sstr := 0x180, dstr := 0x800, count := 0x180, rows := 8, ctl := 0xA0020 }
    let x := (after (exec (.dmaStart .keeper 40) (State.reset.setChan 40 { sh := d }))).chan 40
    x.state = .running ∧ x.rq.head?.map (fun r => (r.addr, r.cnt)) = some (0xD010000, 8) ∧ x.sh.ctl = 0x20020 ∧ x.rlen = 0x180 := by decide +kernel
/-- R309: a part of an HBM block written and read. -/
theorem test_hbm :
    let t := after (exec (.hbmReadModifyWrite .keeper 0x100000005 [0x12345, 0x6789A]) State.reset)
    (after (exec (.hbmRead .keeper 0x100000004 3) t)).outs.hbmReads = [.ok [0, 0x12345, 0x6789A]] := by decide +kernel

/-! ## Links, time, host, power -/

/-- 13, the 16th message with five bytes of samples: header words and first sample. -/
theorem test_ecpri_entry :
    let p : Port := { ctl := 0x80000, up := 1, lock := 1, mac := 0x020000000001 }
    let bytes : List Byte := [2, 0, 0, 0, 0, 1, 2, 0, 0, 0, 0, 2, 0xAE, 0xFE, 0x10, 0, 0, 9, 0, 0x11, 0x0F, 0x80, 0x12, 0x34, 0x5A, 0xBC, 0xDE]
      ++ List.replicate 33 0
    let s := { State.reset with ports := [(0, p)], lnk := { State.reset.lnk with flow := [(0x33, 0x111), (0x34, 0x80C80)] } }
    (after (exec (.ethernetFrameReceive 0 0 ⟨true, bytes⟩) s)).lnk.deliveries.map (fun d => (d.ctx, d.words))
      = [(0x111, [6, 0x11, 0xF80, 5, 0x12345, 0xABCDE])] := by decide +kernel
/-- R334: a write of PTP_SET word 3 takes the time from the words buffered. -/
theorem test_ptp_set :
    let s := { State.reset with ptp := { State.reset.ptp with setBuf := [(0, 5), (1, 6), (2, 7)] } }
    (after (exec (.ptpSet .keeper 8) s)).ptp.time = BitVec.ofNat 80 (5 + 2 ^ 20 * (6 + 2 ^ 20 * (7 + 2 ^ 20 * 8))) := by decide +kernel
/-- R335: a one-shot timer fires when the time reaches NEXT. -/
theorem test_timer :
    let s := { (State.reset.setTmr 3 { next := 100, en := true }) with ptp := { State.reset.ptp with time := 100 } }
    ((after (exec (.timerEvent 3) s)).tmr 3).fired = true ∧ ((after (exec (.timerEvent 3) s)).tmr 3).en = false := by decide +kernel
/-- R339: a word of a region through BAR2, zero-extended. -/
theorem test_bar2 :
    let s := put ({ (coreAt {}) with host := { lup := true, win := 0x800000 } }) 0x800002 0xFFFFF
    (after (exec (.hostBarRead .bar2 8 1) s)).outs.cpls = [.data 0xFFFFF] := by decide +kernel
/-- R343: a post of the host interrupts the keeper core. -/
theorem test_mailbox :
    let t := after (exec (.mailboxPost .host 9) State.reset)
    t.host.h2kLen = 9 ∧ t.outs.keeper = [.mailbox] := by decide +kernel
/-- R350: a programmed cell that was erased holds its value. -/
theorem test_ledger :
    let t := after (exec .ledgerProgramDone { State.reset with int := { State.reset.int with ldgOp := some (.program 4 0x1234) } })
    SMap.get 0xFFFF t.int.ledger 4 = 0x1234 := by decide +kernel
/-- 16, the shelf on battery: 11.2 V, 27.68 A, 310 W. -/
theorem test_telemetry :
    let p := (State.reset.powerRead ⟨1120, 2768, 3100, 2900, 3100, false⟩).pwr
    p.vin = 0x460 ∧ p.iin = 0xAD0 ∧ p.pin = 0xC1C ∧ p.capnow = 0x1260 ∧ p.low = true ∧ p.bind = false := by decide +kernel
/-- 16: the PMBus words of the same, low byte first. -/
theorem test_pmbus :
    let s := { State.reset with pwr := { State.reset.pwr with vin := 0x460, iin := 0xAD0, pin := 0xC1C } }
    (after (exec .readVin s)).outs.smbus = [0xB3, 0xE0] ∧ (after (exec .readIin s)).outs.smbus = [0xBB, 0xE1]
      ∧ (after (exec .readPin s)).outs.smbus = [0x6C, 0xFA] := by decide +kernel
/-- R366: a roll of a region with a bound context is not taken: RESULT 1. -/
theorem test_roll_busy :
    let t := after (exec (.rollRegion .keeper 1) (coreAt {}))
    SMap.get 0 t.rolls.res (bankOf .keeper) = 1 ∧ (t.rgn 1).pstate = .run := by decide +kernel
/-- R389: HALT, and the halt at the next boundary. -/
theorem test_halt :
    let s := after (exec (.clRcHalt .keeper 3) (coreAt { resv := some 7 }))
    (s.core 3).rc = .halting ∧ (coreAfter (exec (.coreHalted 3) s)).rc = .halted ∧ (coreAfter (exec (.coreHalted 3) s)).resv = none := by
  decide +kernel
/-- R390: the debug master reads a word. -/
theorem test_debug_read :
    let s := { put (coreAt {}) 0x812345 0x77 with dbg := { addr := 0x812345, op := some .read, inc := true } }
    (after (exec .debugAccessDone s)).dbg = { addr := 0x812346, data := 0x77, inc := true } := by decide +kernel
/-- R374: PORST_N falls: the device is held. -/
theorem test_porst : let t := after (exec .porstNAssert State.reset)
    t.dev.stage = .held ∧ t.up = false := by decide +kernel
/-- A step takes the front command; with none it is a pip. -/
theorem test_step :
    (after (step { coreAt {} with pending := [.movi 3 4 9, .nop 3] })).pending = [.nop 3]
      ∧ (after (step State.reset)).pip.now = 1 := by decide +kernel

/-! ## Witnesses: for each statement with hypotheses, states and operands that meet them, at the edges of their ranges -/

/-- The state that an operation goes on with. -/
def perfOf (x : Perf) : Option State := match x with | .done s => some s | .hold _ => none
/-- The state after loads that have all succeeded. -/
def drainOf (x : Drain) : Option State := match x with | .done s none => some s | _ => none
/-- The state after words that have been read. -/
def readOf (x : Rd) : Option (State × List Word) := match x with | .got s (.ok l) => some (s, l) | _ => none
/-- The state of an access that nothing stands in the way of. -/
def gateOf (x : Gate) : Option State := match x with | .go s => some s | _ => none

theorem perf_ex {x : Perf} (p : State → Bool) (h : (perfOf x).any p = true) : ∃ s, x = .done s ∧ p s = true := by
  cases x with
  | done s => exact ⟨s, rfl, h⟩
  | hold s => exact absurd h (by simp [perfOf])
theorem drain_ex {x : Drain} (p : State → Bool) (h : (drainOf x).any p = true) : ∃ s, x = .done s none ∧ p s = true := by
  cases x with
  | done s b =>
    cases b with
    | none => exact ⟨s, rfl, h⟩
    | some f => exact absurd h (by simp [drainOf])
  | hold s => exact absurd h (by simp [drainOf])
theorem read_ex {x : Rd} (p : State → List Word → Bool) (h : (readOf x).any (fun q => p q.1 q.2) = true) :
    ∃ s l, x = .got s (.ok l) ∧ p s l = true := by
  cases x with
  | got s d =>
    cases d with
    | ok l => exact ⟨s, l, rfl, h⟩
    | bad e a => exact absurd h (by simp [readOf])
  | hold s => exact absurd h (by simp [readOf])
theorem gate_eq {x : Gate} {s : State} (h : gateOf x = some s) : x = .go s := by
  cases x with
  | go t => simpa [gateOf] using h
  | wait t => exact absurd h (by simp [gateOf])
  | refuse t => exact absurd h (by simp [gateOf])

/-- SumsAndDifferences, LogicShiftsAndMoves, AddressRegisters, ControlTransfers, ShortVectorLanes: a core ready to run. -/
theorem wit_ready : Ready (coreAt {}) 3 ∧ Ready (userAt { cst := { pl := .u } }) 3
    ∧ Ready { cores := [(95, { bound := some 0xFFFFF, phase := .running })] } 95 := by
  refine ⟨⟨?_, ?_, ?_⟩, ⟨?_, ?_, ?_⟩, ⟨?_, ?_, ?_⟩⟩ <;> decide +kernel
/-- NarrowingAndProducts, ShortVectorProductsAndMoves: every SAT field that is no exclusion, and both pairs at the ends. -/
theorem wit_sat : satOf 0 0x60 = some true ∧ satOf 0 0 = some false ∧ satOf 1 0x60 = some false ∧ satOf 2 0 = some true
    ∧ bit (0 : BitVec 5) 0 = false ∧ bit (30 : BitVec 5) 0 = false ∧ ((coreAt {}).core 3).vm1 = 0x60 := by decide +kernel
/-- DelayedProductAndDivision: a product on its way, and divisions held in X at both ends of the pairs. -/
theorem wit_products_and_divisions :
    let d (n : Nat) : DivPend := { q := 1, r := 2, qk := n, rk := n + 1, ov := false, dz := true, trap := false }
    let s (n : Nat) := coreAt { div := some (d n) }
    (coreAt { mstart := [(2, 5)] }).clusterOn 3 = true ∧ ((coreAt { mstart := [(2, 5)] }).core 3).mstart = [(2, 5)]
      ∧ ∀ n ∈ [0, 30], (s n).clusterOn 3 = true ∧ ((s n).core 3).div = some (d n) ∧ (d n).trap = false ∧ (d n).qk < 32
        ∧ (d n).rk = (d n).qk + 1 ∧ (d n).qk % 2 = 0 ∧ ((s n).core 3).rep = none := by decide +kernel
/-- AddressRegisters: the three modes, the block of a buffer of 1, of 100 and of 2^18 words, reversals of 1 and of 20 bits. -/
theorem wit_address_modes :
    bits (0 : Word) 19 18 ≠ 1 ∧ bits (0xC0000 : Word) 19 18 ≠ 2
      ∧ (∀ p ∈ [((0x40000 : Word), 0, 1), (0x40063, 7, 100), (0x7FFFF, 18, 262144)],
          bits p.1 19 18 = 1 ∧ p.2.2 = bits p.1 17 0 + 1 ∧ p.2.2 ≤ 2 ^ p.2.1 ∧ 2 ^ p.2.1 < 2 * p.2.2)
      ∧ ∀ p ∈ [((0x80001 : Word), 1), (0x80014, 20)], bits p.1 19 18 = 2 ∧ bits p.1 4 0 = p.2 ∧ 1 ≤ p.2 ∧ p.2 ≤ 20 := by decide
/-- ControlTransfers: a word that may be repeated follows REPI and REP, with a count and without. -/
theorem wit_repeat :
    let c : Core := { pc := 0x820000, w := [(1, 0xFFFFF)], fbuf := [⟨0x820000, (List.replicate 8 (0x098C5 : Word)).map FWord.ok⟩] }
    let s := coreAt c
    let d := s.core 3
    Ready s 3 ∧ s.repForbidden d (d.pc + 2) = false ∧ s.repForbidden d (d.pc + 1) = false ∧ d.wr 1 ≠ 0
      ∧ s.fetchPeek (d.retire 2) (d.pc + 2) = some 0x098C5 := by
  refine ⟨⟨?_, ?_, ?_⟩, ?_⟩ <;> decide +kernel

/-- Loads and Stores: each address form, registers at the ends, accesses that pass every check, with data from the buffer and
from memory. -/
theorem wit_loads_and_stores :
    let s := userAt { cst := { pl := .u }, a := [(1, 0x810000)], sbuf := [⟨0x810000, [7]⟩] }
    let c := s.core 3
    Ready s 3 ∧ s.profFV c = true ∧ (c.ea (.one 1 1 31)).isSome ∧ (c.ea (.two ⟨1, 3, 31⟩)).isSome ∧ c.ea (.two ⟨1, 3, 32⟩) = none
      ∧ (30 : BitVec 5).toNat % 2 = 0 ∧ (28 : BitVec 5).toNat % 4 = 0 ∧ (4 : BitVec 3).toNat ≤ 4 ∧ (5 : BitVec 3).toNat ≤ 5
      ∧ (6 : BitVec 3).toNat ≤ 6 ∧ s.checkAll 3 c [.r] false false [[0x810000]] = none
      ∧ s.checkAll 3 c [.r] false true [[0x810000]] = none ∧ s.checkAll 3 c [.w] true false (splitAt 2 [0x810000, 0x810001]) = none
      ∧ (∃ s1, s.beforeLoad 3 [0x810000] false = (.done s1, some [7])) ∧ (∃ s1, s.beforeLoad 3 [0x810001] false = (.done s1, none))
      ∧ ∃ s1, s.room 3 2 = .done s1 ∧ decide ((s1.core 3).sbuf = [⟨0x810000, [7]⟩]) = true := by
  refine ⟨⟨?_, ?_, ?_⟩, ?_, ?_, ?_, ?_, ?_, ?_, ?_, ?_, ?_, ?_, ?_, ?_, ⟨_, rfl⟩, ⟨_, rfl⟩, perf_ex _ ?_⟩ <;> decide +kernel

/-- AccessesPerformed: a load in its delay slot and past it, with data from memory and from the buffer; a buffered store on a
region that runs. -/
theorem wit_accesses :
    let l (n : Nat) (d : Option LdData) : PendLoad := { addrs := [0x810000], slots := [.w 5], age := n, data := d }
    let s (n : Nat) (d : Option LdData) := coreAt { loads := [l n d] }
    let x := coreAt { sbuf := [⟨0x810000, [7]⟩, ⟨0x810008, [8]⟩] }
    (s 0 none).clusterOn 3 = true ∧ ((s 0 none).core 3).loads = [l 0 none] ∧ ((s 1 none).core 3).loads = [l 1 none]
      ∧ (∃ s1 ws, (s 1 none).readLoad 3 (l 1 none) = .got s1 (.ok ws) ∧ decide (ws = [0]) = true)
      ∧ ((s 1 (some (.ok [9]))).core 3).loads = [l 1 (some (.ok [9]))]
      ∧ Canonical x ∧ (x.core 3).sbuf = { addr := 0x810000, ws := [7] } :: [⟨0x810008, [8]⟩] ∧ (x.core 3).loads = []
      ∧ x.locOf 0x810000 = .region 1 0x10000 ∧ x.busGate (.core 3) 0x810000 = .go x ∧ (x.rgn 1).armed = false := by
  refine ⟨?_, ?_, ?_, read_ex (fun _ l => decide (l = [0])) ?_, ?_, ⟨?_, ?_, ?_, ?_, ?_, ?_, ?_⟩, ?_, ?_, ?_, gate_eq ?_, ?_⟩ <;> decide +kernel

/-- AtomicAccesses: XADD, and SWX with its reservation and without. -/
theorem wit_atomics :
    let s (r : Option Nat) := userAt { cst := { pl := .u }, a := [(1, 0x810000)], resv := r, sbuf := if r.isSome then [] else [⟨0x810000, [7]⟩] }
    let c (r : Option Nat) := (s r).core 3
    Ready (s none) 3 ∧ (s none).checkAll 3 (c none) [.r, .w] true true [[0x810000]] = none
      ∧ (s none).checkAll 3 (c none) [.w] true true [[0x810000]] = none
      ∧ (∃ s1, (s none).drainStores 3 = .done s1
          ∧ decide ((readOf (s1.readAll (.core 3) [0x810000])).map (fun q => ((q.1.core 3).resv, q.2)) = some (none, [7])) = true)
      ∧ ∃ s1, (s (some 0x810000)).drainStores 3 = .done s1
          ∧ decide ((readOf (s1.readAll (.core 3) [0x810000])).map (fun q => (q.1.core 3).resv) = some (some 0x810000)) = true := by
  refine ⟨⟨?_, ?_, ?_⟩, ?_, ?_, perf_ex _ ?_, perf_ex _ ?_⟩ <;> decide +kernel
/-- ScalarFloatingPoint: an FV profile, every legal condition and conversion, no trap. -/
theorem wit_floating_point :
    let s := userAt { f := [(0, 0x3F800), (1, 0x40000)] }
    let c := s.core 3
    Ready s 3 ∧ s.profFV c = true ∧ trapFlags (f20.op2 .add c.fm1 0x3F800 0x40000).2 c.vm1 c.fm1 = 0
      ∧ trapFlags (f20.op2 .div c.fm1 0x3F800 0).2 c.vm1 c.fm1 = 0 ∧ (5 : BitVec 3).toNat < 6
      ∧ trapFlags (Fp.cmp 5 (c.fpIn false 0) (c.fpIn false 1)).2 c.vm1 c.fm1 = 0
      ∧ (∀ code ∈ [(0 : BitVec 3), 1, 2, 3], (convCode code).isSome = true) ∧ bit (30 : BitVec 5) 0 = false
      ∧ trapFlags ((c.fpIn false 0).toFixed 1 true 20 0).2 c.vm1 c.fm1 = 0 := by
  refine ⟨⟨?_, ?_, ?_⟩, ?_⟩ <;> decide +kernel
/-- ShortVectorLanes and ShortVectorProductsAndMoves: every lane form and class, the last legal conversion and shift. -/
theorem wit_short_vectors :
    let s := userAt { f := [(0, 0x3F800), (1, 0x40000)] }
    let c := s.core 3
    Ready s 3 ∧ s.profFV c = true ∧ (1 : BitVec 2).toNat < 2 ∧ (2 : BitVec 2) ≠ 3 ∧ satOf 0 c.vm1 = some true
      ∧ trapFlags {} c.vm1 c.fm1 = 0 ∧ trapFlags { ov := true } c.vm1 c.fm1 = 0 ∧ 2 ≤ (2 : BitVec 2).toNat ∧ 2 ≤ (3 : BitVec 2).toNat
      ∧ (47 : BitVec 6).toNat ≤ 47 ∧ bit (6 : BitVec 3) 0 = false ∧ bit (30 : BitVec 5) 0 = false
      ∧ ((7 : BitVec 3) ≠ 6 ∧ (false = true → (7 : BitVec 3) = 1 ∨ (7 : BitVec 3) = 3)
          ∧ (true = true → (7 : BitVec 3) = 2 ∨ (7 : BitVec 3) = 5 ∨ (7 : BitVec 3) = 7))
      ∧ ((3 : BitVec 3) ≠ 6 ∧ (true = true → (3 : BitVec 3) = 1 ∨ (3 : BitVec 3) = 3)) := by
  refine ⟨⟨?_, ?_, ?_⟩, ?_⟩ <;> decide +kernel

/-- A group of the butterfly of 06, at its start. -/
def group : Group :=
  { chain := 0x820000, n := 3, body := [(0xF9684, 0x18500), (0xF8014, 0x11001), (0xF821C, 0x11001)], len := 16, vmode := 0x60, fmode := 0
    descs := [2, 3, 4, 5, 6].map (fun t => (t, [BitVec.ofNat 20 (0x10000 + 0x100 * t), 0x8, 1, 16, 2, 0, 0, 0])) }

/-- Barriers: an empty store buffer and a full one, no group and one in flight, a VBAR that waits. -/
theorem wit_barriers :
    let full := coreAt { sbuf := (List.range 8).map (fun i => ⟨0x810000 + i, [BitVec.ofNat 20 i]⟩) }
    let busy := coreAt { groups := [group] }
    let waits := coreAt { vbar := true }
    (∃ s1, full.drainStores 3 = .done s1 ∧ decide ((s1.core 3).rep = none ∧ (s1.core 3).sbuf = []) = true)
      ∧ ((coreAt {}).core 3).victim = false ∧ ((coreAt {}).core 3).groups = [] ∧ ((coreAt {}).core 3).vfc.getLsbD 18 = false
      ∧ (Ready busy 3 ∧ (busy.core 3).victim = false ∧ (busy.core 3).groups ≠ [])
      ∧ waits.atWork 3 = true ∧ (waits.core 3).vbar = true ∧ (waits.core 3).rep = none ∧ (waits.core 3).groups = [] := by
  refine ⟨perf_ex _ ?_, ?_, ?_, ?_, ⟨⟨?_, ?_, ?_⟩, ?_, ?_⟩, ?_, ?_, ?_, ?_⟩ <;> decide +kernel

/-- ControlRegisters: each level, numbers at the ends, values with no reserved bit, a stopped group and a discard. -/
theorem wit_control_registers :
    let u := userAt { cst := { pl := .u }, w := [(1, 0x003F0)] }
    let m := coreAt { w := [(1, 0xFFFFF), (2, 0x00F87), (3, 0x003FF), (4, 0x80000), (5, 0x8FFFF), (6, 0x00103)] }
    let p := coreAt { stopped := [group] }
    (Ready u 3 ∧ (u.core 3).victim = false ∧ ((u.core 3).cst.pl = .u → (15 : BitVec 5) ≠ 1 ∧ (15 : BitVec 5).toNat < 16)
        ∧ (13, ((u.core 3).vfa.extractLsb' 20 20)) ∈ ctlTable (u.core 3) ∧ (u.core 3).wr 1 &&& ~~~0x003F0 = 0)
      ∧ (Ready m 3 ∧ (21, (0xFFFFF : Word), (0xFFFFF : Word)) ∈ ctlPlain ∧ (m.core 3).wr 1 &&& ~~~0xFFFFF = 0
        ∧ (27, (m.core 3).imask) ∈ ctlTable (m.core 3) ∧ (m.core 3).wr 2 &&& ~~~0x00F87 = 0 ∧ (m.core 3).wr 3 &&& ~~~0x003FF = 0
        ∧ (m.core 3).wr 4 &&& 0x00018 = 0 ∧ (m.core 3).cst.pl ≠ .u ∧ (m.core 3).wr 5 &&& 0x30000 = 0 ∧ (m.core 3).wr 6 &&& 0xFFEFC = 0)
      ∧ (m.core 3).stopped = [] ∧ (p.core 3).stopped = group :: [] ∧ (p.core 3).vfc.getLsbD 18 = false := by
  refine ⟨⟨⟨?_, ?_, ?_⟩, ?_⟩, ⟨⟨?_, ?_, ?_⟩, ?_⟩, ?_⟩ <;> decide +kernel

/-- The eight words of a frame at an address may be pushed. -/
theorem pushOk_of {s : State} {k : Nat} {t : Priv}
    (h : decide (8 ≤ ((s.core k).w30 t).toNat ∧ ((s.core k).w30 t).toNat % 8 = 0) = true)
    (g : (List.range 8).all (fun i => s.isRegion (frameAt (s.core k) t + BitVec.ofNat 40 i).toNat
      && (t == .m || s.permits (s.core k).ctx .w (frameAt (s.core k) t + BitVec.ofNat 40 i).toNat)) = true) : PushOk s k t := by
  have h := of_decide_eq_true h
  refine ⟨h.1, h.2, fun i hi => ?_⟩
  have := List.all_eq_true.mp g i (List.mem_range.mpr hi)
  simp only [Bool.and_eq_true, Bool.or_eq_true, beq_iff_eq] at this
  exact this

/-- No frame may be pushed with this W30. -/
theorem not_pushOk_of {s : State} {k : Nat} {t : Priv}
    (h : decide (8 ≤ ((s.core k).w30 t).toNat ∧ ((s.core k).w30 t).toNat % 8 = 0) = false) : ¬ PushOk s k t :=
  fun p => of_decide_eq_false h ⟨p.1, p.2.1⟩

/-- ExceptionEntry: each cause, from U and from M, with the stack at its last frame and one below it. -/
theorem wit_exceptions :
    let s (w30 : Word) := userAt { cst := { pl := .u }, pc := 0x812345, w := [(wKey .s 30, w30)], ssb := 0x840000 }
    let far := coreAt { pc := 0x7F0000 }
    let x := (userAt { cst := { pl := .u }, pc := 0x20000, ipend := 0x103, imask := 0x103 })
    let y := userAt { cst := { pl := .u }, ipend := 0x3, imask := 0x3 }
    let z := coreAt { mchk := some (0x810000, .refused), w := [(wKey .m 30, 8)], msb := 0x840000 }
    (Ready (s 8) 3 ∧ (∃ s1, (s 8).drainLoads 3 = .done s1 none ∧ decide (s1.core 3 = (s 8).core 3 ∧ (s1.core 3).rep = none) = true)
        ∧ PushOk (s 8) 3 .s ∧ ¬ PushOk (s 0) 3 .s ∧ ¬ PushOk (s 12) 3 .s)
      ∧ (homeLevel ((s 0).core 3) = .s ∧ ((s 0).core 3).sfh = false ∧ homeLevel ((coreAt {}).core 3) = .m ∧ ¬ PushOk (coreAt {}) 3 .m)
      ∧ (far.atWork 3 = true ∧ (far.core 3).free = true ∧ (far.core 3).inVec = false ∧ far.isRegion 0x7F0000 = false)
      ∧ (x.atWork 3 = true ∧ x.isRegion 0x20000 = true ∧ (x.core 3).cst.pl ≠ .m ∧ x.permits (x.core 3).ctx .x 0x20000 = true
        ∧ (coreAt { cst := { pl := .u } }).permits 5 .x 0x20000 = false)
      ∧ (x.atWork 3 = true ∧ (x.core 3).div = none ∧ (x.core 3).mchk = none
        ∧ ((x.core 3).ipend.getLsbD 8 && (x.core 3).imask.getLsbD 8) = true ∧ ((y.core 3).ipend.getLsbD 8) = false
        ∧ ((y.core 3).ipend.getLsbD 0 && (y.core 3).imask.getLsbD 0) = true ∧ ((y.core 3).ipend.getLsbD 1 && (y.core 3).imask.getLsbD 1) = true)
      ∧ (z.atWork 3 = true ∧ (z.core 3).div = none ∧ (z.core 3).mchk = some (0x810000, .refused)
        ∧ (∃ s1, z.drainLoads 3 = .done s1 none ∧ ((perfOf (s1.room 3 3)).any (fun t => decide (t.core 3 = z.core 3))) = true)
        ∧ PushOk z 3 .m) := by
  refine ⟨⟨⟨?_, ?_, ?_⟩, drain_ex _ ?_, pushOk_of ?_ ?_, not_pushOk_of ?_, not_pushOk_of ?_⟩, ⟨?_, ?_, ?_, not_pushOk_of ?_⟩, ?_, ?_, ?_,
    ⟨?_, ?_, ?_, drain_ex _ ?_, pushOk_of ?_ ?_⟩⟩
  all_goals decide +kernel
theorem perf_eq {x : Perf} {s : State} (h : perfOf x = some s) : x = .done s := by
  cases x with
  | done t => simpa [perfOf] using h
  | hold t => exact absurd h (by simp [perfOf])
theorem drain_eq {x : Drain} {s : State} (h : drainOf x = some s) : x = .done s none := by
  cases x with
  | done t b =>
    cases b with
    | none => simpa [drainOf] using h
    | some f => exact absurd h (by simp [drainOf])
  | hold t => exact absurd h (by simp [drainOf])
theorem read_eq {x : Rd} {s : State} {l : List Word} (h : readOf x = some (s, l)) : x = .got s (.ok l) := by
  cases x with
  | got t d =>
    cases d with
    | ok m =>
      have h : t = s ∧ m = l := by simpa [readOf] using h
      rw [h.1, h.2]
    | bad e a => exact absurd h (by simp [readOf])
  | hold t => exact absurd h (by simp [readOf])

theorem before_eq {x : Perf × Option (List Word)} {s : State} {d : Option (List Word)} (h : perfOf x.1 = some s) (g : x.2 = d) :
    x = (.done s, d) := by
  obtain ⟨p, q⟩ := x
  rw [show p = .done s from perf_eq h, show q = d from g]

/-- GateCall: the caller of 11's example, whose argument words lie in its window 0. -/
theorem wit_gate_call :
    let s := gateCaller
    let l := addrsFrom (0x203F000 + BitVec.ofNat 40 (4 * 5)) 4
    Ready s 8 ∧ s.drainLoads 8 = .done s none ∧ 5 % 512 < (s.core 8).gtn.toNat ∧ s.checkAccess 8 (s.core 8) [] false false l = none
      ∧ s.beforeLoad 8 l false = (.done s, none) ∧ s.readMixed (.core 8) l = .got s (.ok [0x38000, 0x20, 0xD0000, 0])
      ∧ ((0xD0000 : Word).getLsbD 19 = true ∧ (0xD0000 : Word).toNat % 2 ^ 16 = 0 ∧ (0xD0000 : Word).getLsbD 18 = true
        ∧ (0xD0000 : Word).getLsbD 16 = true ∧ (0xD0000 : Word).getLsbD 17 = false ∧ (s.core 8).cst.pl ≠ .m)
      ∧ s.windowGrants 0x111 0 .r 0x2012000 (0x2012000 + ((s.core 8).wr 1).toNat - 1) = true ∧ PushOk s 8 .s
      ∧ s.room 8 2 = .done s := by
  refine ⟨⟨?_, ?_, ?_⟩, drain_eq ?_, ?_, ?_, before_eq ?_ ?_, read_eq ?_, ?_, ?_, pushOk_of ?_ ?_, perf_eq ?_⟩ <;> decide +kernel

/-- Returns: a frame of U on the S stack, one that repeats, one in the scratch area, and an armed core. -/
def inHandler (w0 : Word) (mflt : Bool) : State :=
  put (put (userAt { cst := { pl := .s }, w := [(wKey .s 30, 0x1F8)], ssb := 0x840000, cnt := 5, mflt := mflt }) 0x8401F8 w0) 0x8401FA 0x20041
theorem frame_eq {x : FrameRd} {s : State} {f : Dbl} {l : List Word}
    (h : (match x with | .got t g m => some (t, g, m) | _ => none) = some (s, f, l)) : x = .got s f l := by
  cases x with
  | got t g m =>
    have h : t = s ∧ g = f ∧ m = l := by simpa using h
    rw [h.1, h.2.1, h.2.2]
  | hold t => exact absurd h (by simp)
  | fail t g => exact absurd h (by simp)
theorem wit_returns :
    ([((0x00207 : Word), false), (0x00300, false), (0x00200, true)].all (fun p =>
        let s := inHandler p.1 p.2
        decide (drainOf (s.drainLoads 3) = some s ∧ perfOf (s.drainStores 3) = some s ∧ (s.core 3).cst.pl ≠ .u
          ∧ p.1.extractLsb' 10 2 ≠ 2 ∧ ((s.core 3).cst.pl = .s → p.1.extractLsb' 10 2 ≠ 3) ∧ p.1 &&& 0xFF078 = 0
          ∧ (s.core 3).mflt = p.2 ∧ (s.core 3).victim = false ∧ (s.core 3).stopped = []
          ∧ (p.1.getLsbD 8 = true → (s.core 3).cnt ≠ 0))) = true)
      ∧ Ready (inHandler 0x207 false) 3
      ∧ (inHandler 0x207 false).readFrame 3 false = .got (inHandler 0x207 false) 0x8401F8 [0x207, 0, 0x20041, 0, 0, 0, 0, 0]
      ∧ (let s := coreAt { sfh := true, scratch := [(0xF8, 0x207)] }
        Ready s 3 ∧ (s.core 3).cst.pl = .m ∧ s.readFrame 3 false = .got s 0x30200FF8 [0x207, 0, 0, 0, 0, 0, 0, 0]) := by
  refine ⟨?_, ⟨?_, ?_, ?_⟩, frame_eq ?_, ⟨?_, ?_, ?_⟩, ?_, frame_eq ?_⟩ <;> decide +kernel

/-- Context 5 at S with a mask of SIGNAL in Ws; at U with context 7, which waits, in another GROUP. -/
def waiter (wake : Word) : State :=
  ((userAt { cst := { pl := .s }, w := [(2, 0x48)] }).setCb 5 0 0x80101).setCb 5 1 wake
def signaller : State := ((userAt { cst := { pl := .u }, w := [(2, 7)] }).setCb 5 0 0x80101).setCb 7 0 0x40102
/-- WaitsAndSignals: a mask with its cause set and not, a deadline that has been reached; a FREE target, a waiting one, and one
of another GROUP signalled from U. -/
theorem wit_waits_and_signals :
    (Ready (waiter 8) 3 ∧ Ready signaller 3)
      ∧ ((waiter 8).drainLoads 3 = .done (waiter 8) none ∧ ((waiter 8).cbReads (1, 3) 5 [0, 1, 9, 10, 11]).2 = true)
      ∧ ((waiter 0x2008).drainLoads 3 = .done (waiter 0x2008) none ∧ ((waiter 0x2008).cbReads (1, 3) 5 [0, 1, 9, 10, 11]).2 = true)
      ∧ (((waiter 8).core 3).cst.pl ≠ .m ∧ (((waiter 8).core 3).wr 2).toNat / 64 % 4 ≠ 3 ∧ ((waiter 8).core 3).rep = none)
      ∧ ((signaller.core 3).cst.pl = .u ∧ signaller.ctxState 7 = 2 ∧ (signaller.ctl 7).toNat % 256 ≠ (signaller.ctl 5).toNat % 256)
      ∧ (((waiter 8).core 3).cst.pl ≠ .u ∧ perfOf ((waiter 8).drainStores 3) = some (waiter 8) ∧ (waiter 8).ctxState 9 = 0)
      ∧ signaller.peek (cbAddr 7 0) (.ctx (32 * 7)) = .good 0x40102 0
      ∧ signaller.peek (cbAddr 7 1) (.ctx (32 * 7 + 1)) = .good 0 0 := by
  refine ⟨⟨⟨?_, ?_, ?_⟩, ⟨?_, ?_, ?_⟩⟩,
      ⟨drain_eq ?_, ?_⟩, ⟨drain_eq ?_, ?_⟩,
      ?_, ?_, ?_, ?_, ?_⟩ <;> decide +kernel
/-- A core at the CHAIN of the butterfly group of 06, with its words fetched. -/
def chainCore : State :=
  userAt { t := [(19, 16), (20, 2), (27, 16), (28, 2), (35, 16), (36, 2), (43, 16), (44, 2), (51, 16), (52, 2)], pc := 0x820000
           fbuf := [⟨0x820000, ([0xF0600, 0xF9684, 0x18500, 0xF8014, 0x11001, 0xF821C, 0x11001, 0] : List Word).map FWord.ok⟩] }
theorem fetch_eq {x : FetchB} {s : State} {l : List Word}
    (h : (match x with | .ok t m => some (t, m) | _ => none) = some (s, l)) : x = .ok s l := by
  cases x with
  | ok t m =>
    have h : t = s ∧ m = l := by simpa using h
    rw [h.1, h.2]
  | hold t => exact absurd h (by simp)
  | bad t a b c d => exact absurd h (by simp)
/-- ChainIssue and VectorStateMoves: the T profile, no group, no fault to deliver, a body in the fetch buffer. -/
theorem wit_chain_issue :
    Ready chainCore 3 ∧ ((chainCore.core 3).victim = false ∧ chainCore.profT (chainCore.core 3) = true
        ∧ (chainCore.core 3).vfc.getLsbD 18 = false ∧ (chainCore.core 3).stopped = [] ∧ (chainCore.core 3).groups.length < 2
        ∧ (chainCore.core 3).rep = none ∧ (chainCore.core 3).groups = [] ∧ (6 : BitVec 3) = 6 ∧ (2 : BitVec 2) ≠ 3)
      ∧ chainCore.drainStores 3 = .done chainCore
      ∧ chainCore.fetchWords 3 (chainCore.core 3) ((chainCore.core 3).pc + 1) 0 (2 * (3 : BitVec 3).toNat)
          = .ok chainCore [0xF9684, 0x18500, 0xF8014, 0x11001, 0xF821C, 0x11001]
      ∧ chainCore.drainLoads 3 = .done chainCore none := by
  refine ⟨⟨?_, ?_, ?_⟩, ?_, perf_eq ?_, fetch_eq ?_,
      drain_eq ?_⟩ <;> decide +kernel

theorem canonical_of {s : State} (h : (SMap.wf 0 s.mem && SMap.wf 0 s.hbm && SMap.wf {} s.cores && SMap.wf {} s.regions
    && SMap.wf {} s.dmas && SMap.wf {} s.ports && SMap.wf {} s.timers) = true) : Canonical s := by
  simp only [Bool.and_eq_true] at h
  exact ⟨h.1.1.1.1.1.1, h.1.1.1.1.1.2, h.1.1.1.1.2, h.1.1.1.2, h.1.1.2, h.1.2, h.2⟩

/-- GroupSteps: a queued group alone and behind one that has read all its elements, and groups that may step, the older or the
younger. -/
theorem wit_group_steps :
    let done : Group := { group with running := true, pos := 16, vprog := 16 }
    let next : Group := { group with descs := [2, 3, 4, 5, 6].map (fun t => (t, [BitVec.ofNat 20 (0x20000 + 0x100 * t), 0, 1, 16, 2, 0, 0, 0])) }
    let runs : Group := { group with running := true, pos := 15 }
    let s (l : List Group) := coreAt { groups := l }
    Canonical (s [done, next]) ∧ (s [group]).clusterOn 3 = true ∧ ((s [group]).core 3).groups = [group] ∧ group.running = false
      ∧ (((s [done, next]).core 3).groups = [done, next] ∧ next.running = false ∧ ((s [done, next]).core 3).victim = false
        ∧ mayStart done next = true)
      ∧ runs.canStep = true ∧ done.canStep = false ∧ ((s [done, runs]).core 3).groups = done :: runs :: []
      ∧ ((s [done, runs]).core 3).victim = false := by
  refine ⟨canonical_of ?_, ?_, ?_, ?_, ?_, ?_,
      ?_, ?_, ?_⟩ <;> decide +kernel

/-- ElementCommitsAndGroupEnds: an element that writes one word of a region, the last one of its checkpoint; a group that has
committed all its elements, alone and with one behind it; a fault; a preempted group at its stop point. -/
theorem wit_group_ends :
    let e : ElemOut := { writes := [(0x810000, 0x12345, 2, 1)] }
    let f : VFault := { cause := 5, va := 0x2014259, flg := 1, instr := 0, vfe := 4 }
    let w : Group := { group with running := true, pos := 8, vprog := 63, len := 64, outq := [e] }
    let full : Group := { group with running := true, pos := 16, vprog := 16 }
    let bad : Group := { group with running := true, pos := 5, vprog := 4, outq := [{ cnt := 0, fault := some f }] }
    let part : Group := { group with running := true, vprog := 4, stopAt := some 4 }
    let o : Outgoing := { ctx := 9, why := .higher, words := [], profT := true, live := true }
    let s (l : List Group) := coreAt { groups := l }
    let p := coreAt { groups := [part], out := some o }
    (Canonical (s [w]) ∧ ((s [w]).core 3).groups = w :: [] ∧ w.outq = e :: [] ∧ e.fault = none ∧ w.vprog < w.stopAt.getD w.len
        ∧ w.unpred = false ∧ w.unpredAcc = false ∧ e.coefs = [] ∧ e.zset = [] ∧ e.accs = [] ∧ (s [w]).locOf 0x810000 = .region 1 0x10000
        ∧ (s [w]).gate (0, 3) 0x810000 (.region 1 0x10000) = .go (s [w]) ∧ ((s [w]).rgn 1).armed = false)
      ∧ (((s [full]).core 3).groups = full :: [] ∧ full.len ≤ full.vprog ∧ ((s [full]).core 3).victim = false
        ∧ ((s [full, group]).core 3).groups = full :: [group])
      ∧ (((s [bad, group]).core 3).groups = bad :: [group] ∧ bad.outq.map (fun x => x.fault) = [some f])
      ∧ ((p.core 3).out = some o ∧ o.live = true ∧ (p.core 3).vecIn = none ∧ part.stopAt = some part.vprog ∧ part.vprog < part.len) := by
  refine ⟨⟨canonical_of ?_, ?_, ?_, ?_, ?_, ?_,
        ?_, ?_, ?_, ?_, ?_, gate_eq ?_,
        ?_⟩, ?_, ?_, ?_⟩ <;> decide +kernel

/-- InterruptPosts, ClusterEvents, RunControl, DebugMaster: an up device, legal values, posters that may and may not, a line to
fill, counts at both warnings, each state of run control, and the debug master idle and at work. -/
theorem wit_cluster_commands :
    let m := coreAt { wctl := 0x8FFFF, wcnt := 131070 }
    let z := coreAt { wctl := 0x80000, cst := { pl := .u } }
    let line := put (coreAt { pc := 0x820003 }) 0x820000 7
    let rc (x : RcState) := coreAt { rc := x, rcSel := 0x00380 }
    let g (o : Option DbgOp) : State := { coreAt {} with dbg := { addr := 0x812345, op := o } }
    ((coreAt {}).up = true ∧ (coreAt {}).clusterOn 3 = true ∧ (0x00101 : Word) &&& 0xFFEFE = 0)
      ∧ (((m.core 3).wctl.getLsbD 19 = true ∧ (m.core 3).wcnt.toNat = 2 * max 1 ((m.core 3).wctl.toNat % 2 ^ 16))
        ∧ ((z.core 3).wcnt = 0 ∧ (z.core 3).phase = .running ∧ (z.core 3).cst.pl ≠ .m))
      ∧ ((line.core 3).pc.toNat / 8 * 8 ≤ 0x820000 ∧ (line.core 3).fbuf = [] ∧ line.isRegion 0x820000 = true ∧ (line.core 3).sbuf = []
        ∧ line.gate (1, 3) 0x820000 (line.locOf 0x820000) = .go line
        ∧ ∀ i, i < 8 → line.peek (0x820000 + i) (line.locOf (0x820000 + i)) = .good (([7] : List Word).getD i 0) 0)
      ∧ (((rc .stepping).core 3).rc = .stepping ∧ ((rc .haltedErr).core 3).rcSel.toNat / 2 ^ 7 % 8 = 7
        ∧ ((rc .halting).core 3).phase = .running ∧ (rc .halting).drainLoads 3 = .done (rc .halting) none)
      ∧ ((g none).dbg.op = none ∧ (g (some (.write 3))).locOf 0x812345 = .region 1 0x12345
        ∧ (g (some .read)).busGate .debug 0x812345 = .go (g (some .read))
        ∧ (g (some .read)).peek 0x812345 ((g (some .read)).locOf 0x812345) = .good 0 0
        ∧ ({ g (some .read) with mem := [(0x812345, 7)] } : State).peek 0x812345 (.region 1 0x12345) = .uncorr) := by
  refine ⟨?_, ?_, ⟨?_, ?_, ?_, ?_,
      gate_eq ?_, ?_⟩, ⟨?_, ?_, ?_, drain_eq ?_⟩,
      ?_, ?_, gate_eq ?_, ?_, ?_⟩ <;> decide +kernel
theorem mayWrite_of {s : State} {who : Master} {off : Nat}
    (h : (s.up && s.mapped who (0x30000000 + off) true && !s.rcRefused off && !s.regsOff off) = true)
    (g : (match who with
      | .core k => s.clusterOn k && s.levelAllows k (s.core k).cst.pl (.regs off) true
      | _ => true) = true) : MayWrite s who off := by
  simp only [Bool.and_eq_true, Bool.not_eq_true'] at h
  refine ⟨h.1.1.1, h.1.1.2, h.1.2, h.2, fun k e => ?_⟩
  subst e
  simpa only [Bool.and_eq_true] using g
theorem mayRead_of {s : State} {who : Master} {off : Nat}
    (h : (s.up && s.mapped who (0x30000000 + off) false && !s.rcRefused off && !s.regsOff off) = true)
    (g : (match who with
      | .core k => s.clusterOn k && s.levelAllows k (s.core k).cst.pl (.regs off) false
      | _ => true) = true) : MayRead s who off := by
  simp only [Bool.and_eq_true, Bool.not_eq_true'] at h
  refine ⟨h.1.1.1, h.1.1.2, h.1.2, h.2, fun k e => ?_⟩
  subst e
  simpa only [Bool.and_eq_true] using g

/-- A context with CB.CTL v and CB.WAKE w, named by the keeper core's CTX_ARG. -/
def named (c : Nat) (v w : Word) : State :=
  ({ coreAt { cst := { pl := .s } } with sched := { arg := [(bankOf .keeper, BitVec.ofNat 20 c), (bankOf (.core 3), BitVec.ofNat 20 c)] } }.setCb c 0 v).setCb c 1 w
/-- ContextCommands: the first and the last context, each state, a full quota, a full class 0, a held command behind another. -/
theorem wit_context_commands :
    let s := named 0xFFFFF 0x40102 0x00002
    let r := { named 5 0x80101 0 with sched := { qa := [(1, 1)], ua := [(1, 1)], c0act := 4096 } }
    let h : HeldCmd := { who := bankOf .keeper, op := 3, ctx := 9, begun := true }
    let j : HeldCmd := { who := bankOf .host, op := 4, ctx := 8 }
    let q : State := { coreAt {} with sched := { held := [j, h] } }
    MayWrite s .keeper 0x20000 ∧ MayWrite s (.core 3) 0x20000 ∧ (s.result (bankOf .keeper) ≠ 1 ∧ s.switching 0xFFFFF = false ∧ s.sched.held = [])
      ∧ CbIs s 0xFFFFF 0 0x40102 ∧ CbIs s 0xFFFFF 1 0x00002 ∧ CbIs r 5 0 0x80101 ∧ r.clusterOf 5 = some 3
      ∧ ((SMap.get 0xFFFFF r.sched.qa 1).toNat ≤ SMap.get 0 r.sched.ua 1 ∧ 4096 ≤ r.sched.c0act)
      ∧ (q.sched.held = [j] ++ h :: [] ∧ h.who = bankOf .keeper ∧ j.who ≠ h.who ∧ j.ctx ≠ h.ctx ∧ q.switching h.ctx = false) := by
  refine ⟨mayWrite_of ?_ ?_, mayWrite_of ?_ ?_, ?_,
      ?_, ?_, ?_, ?_,
      ?_, ?_⟩ <;> first | decide +kernel | (unfold CbIs; decide +kernel)

/-- SchedulerEvents: a deadline at its pip, a slice run out with a context waiting, a free cluster with an eligible context behind
one that is not. -/
theorem wit_scheduler_events :
    let d := { (((named 7 0x44101 0x00002).setCb 7 9 0x64)) with pip := { now := 0x64 } }
    let s := { ((coreAt { boundPips := 0x40 }).setCb 5 0 0x84101).setCb 6 0 0x64101 with sched := { ready := [(1, [6])] } }
    let f : State := { ((State.reset.setCb 6 0 0x64101).setCb 8 0 0x64201).setRgn 1 { pstate := .run } with
      cores := [(3, { mset := 0x7F })], sched := { ready := [(1, [8, 6])] } }
    (CbIs d 7 0 0x44101 ∧ CbIs d 7 1 0x00002 ∧ d.cbReadable 7 [9, 10, 11] = true ∧ d.deadline 7 = d.pip.now)
      ∧ ((s.core 3).bound = some 5 ∧ (s.ctl 5).toNat / 2 ^ 14 % 8 = 1 ∧ (s.core 3).preempt = none ∧ s.sched.slice ≠ 0
        ∧ s.sched.slice.toNat ≤ (s.core 3).boundPips ∧ 6 ∈ SMap.get [] s.sched.ready 1 ∧ (s.ctl 6).toNat / 2 ^ 8 % 64 = 1)
      ∧ (f.clusterOn 3 = true ∧ (f.core 3).bound = none ∧ (f.core 3).rolling = false ∧ (f.rgn 1).ctl.getLsbD 1 = false
        ∧ (f.core 3).mset = 0x7F ∧ (f.core 3).phase = .free ∧ f.sched.rebuilt = true ∧ f.fabricOff 0 = false
        ∧ SMap.get [] f.sched.ready 1 = [8] ++ 6 :: [] ∧ f.eligible 1 8 = false ∧ SMap.get [] f.sched.ready 0 = [] ∧ f.eligible 1 6 = true) := by
  refine ⟨⟨?_, ?_, ?_, ?_⟩, ?_, ?_⟩ <;> first | decide +kernel | (unfold CbIs; decide +kernel)
/-- SchedulerEvents: after a warm reset the control blocks of an all-zero context store read 0. -/
theorem wit_rebuild : let s : State := { State.reset with sched := { rebuilt := false } }
    s.sched.rebuilt = false ∧ s.up = true ∧ ∀ d i, CbIs s d i 0 :=
  ⟨rfl, by decide, fun _ _ => decode_zero _⟩

/-- ContextSwitch: a victim at a boundary, a save area in a region, and a bound context with its save area. -/
theorem wit_context_switch :
    let v := coreAt { preempt := some .higher, pc := 0x812345, cst := { pl := .u } }
    let o : Outgoing := { ctx := 9, why := .slice, words := [(0x1F, 7), (0x20, 8)], profT := false, live := false }
    let a := ((coreAt { out := some o }).setCb 9 4 0x10000).setCb 9 5 8
    let b := ((({ coreAt {} with cores := [(3, { bound := some 5, phase := .restoring })] } : State).setCb 5 4 0x10000).setCb 5 5 8)
    ((v.core 3).bound = some 5 ∧ (v.core 3).preempt = some .higher ∧ v.mayLeave 3 .higher = true ∧ v.drainLoads 3 = .done v none)
      ∧ (Canonical a ∧ (a.core 3).out = some o ∧ o.live = false ∧ o.faulted = false ∧ (a.core 3).sbuf = []
        ∧ a.locOf (a.saveArea 9) = .region 1 0x10000 ∧ (a.rgn 1).armed = false ∧ o.words.Pairwise (fun p q => p.1 < q.1)
        ∧ a.locOf (a.saveArea 9 + 0x20) = .region 1 0x10020 ∧ a.busGate (.core 3) (a.saveArea 9 + 0x20) = .go a
        ∧ a.busGate (.core 3) (a.saveArea 9 + 0x1F) = .go a)
      ∧ ((b.core 3).bound = some 5 ∧ (b.core 3).phase = .restoring ∧ (b.rgn 1).pstate = .run ∧ b.cbReadable 5 [0, 1, 2, 3, 4, 5] = true
        ∧ b.areaOk (b.saveArea 5) = true ∧ (b.cb 5 4).getLsbD 1 = false
        ∧ (readOf (b.readAll (.core 3) ((restoreOffsets (b.cb 5 4)).map (fun i => b.saveArea 5 + i)))).any (fun q =>
            q.2.length == (restoreOffsets (b.cb 5 4)).length && (q.1.core 3).sbuf.isEmpty && (q.1.core 3).out.isNone
              && SMap.get 0 q.1.sched.waitRegs 5 == 0 && !(q.2.getD 0x38 0).getLsbD 8) = true) := by
  refine ⟨⟨?_, ?_, ?_, drain_eq ?_⟩,
      ⟨canonical_of ?_, ?_, ?_, ?_, ?_, ?_,
        ?_, ?_, ?_, gate_eq ?_, gate_eq ?_⟩, ?_⟩ <;> decide +kernel

/-- InboxDeliveries: the smallest ring, which lies whole in a region, with room for the entry and without. -/
theorem wit_inbox :
    let s (wr : Word) : State := { put (put ((((coreAt {}).setCb 9 0 0x40101).setCb 9 1 1).setCb 9 12 0x10000 |>.setCb 9 13 8) 0x810000 6) 0x810001 wr
      with lnk := { deliveries := [{ ctx := 9, words := [4, 1, 2, 3], flow := none, buf := none }] } }
    ∀ wr ∈ [(0x3C : Word), 0x3D], Canonical (s wr) ∧ (s wr).lnk.deliveries = { ctx := 9, words := [4, 1, 2, 3], flow := none, buf := none } :: []
      ∧ CbIs (s wr) 9 0 0x40101 ∧ CbIs (s wr) 9 1 1 ∧ CbIs (s wr) 9 12 0x10000 ∧ CbIs (s wr) 9 13 8
      ∧ (6 ≤ 6 ∧ (wr - 0).toNat ≤ 2 ^ 6 ∧ ([4, 1, 2, 3] : List Word).length ≤ 2 ^ 6)
      ∧ Holds (s wr) 0x810000 6 ∧ Holds (s wr) 0x810001 wr ∧ Holds (s wr) 0x810002 0 ∧ Holds (s wr) 0x810003 0
      ∧ (s wr).gate (3, 0) 0x810000 ((s wr).locOf 0x810000) = .go (s wr) ∧ (s wr).locOf 0x810047 = .region 1 0x10047 := by
  intro s wr h
  simp only [List.mem_cons, List.not_mem_nil, or_false] at h
  rcases h with rfl | rfl <;>
    exact ⟨canonical_of (by decide +kernel), by decide +kernel, by unfold CbIs; decide +kernel, by unfold CbIs; decide +kernel,
      by unfold CbIs; decide +kernel, by unfold CbIs; decide +kernel, by decide +kernel,
      ⟨⟨1, 0x10000, by decide +kernel, by decide +kernel⟩, by decide +kernel⟩, ⟨⟨1, 0x10001, by decide +kernel, by decide +kernel⟩, by decide +kernel⟩,
      ⟨⟨1, 0x10002, by decide +kernel, by decide +kernel⟩, by decide +kernel⟩, ⟨⟨1, 0x10003, by decide +kernel, by decide +kernel⟩, by decide +kernel⟩,
      gate_eq (by decide +kernel), by decide +kernel⟩
/-- BoardTurns and FlipMask: a board that runs, in a turn that the scrubber does not take, the last word of its window. -/
theorem wit_board :
    let s := (coreAt {}).setRgn 1 { pstate := .run, turn := 127, turnsNow := 0xC0 }
    let d := (coreAt {}).setRgn 1 { pstate := .run, turn := 1024 }
    let f := (coreAt {}).setRgn 1 { pstate := .run, flip := 0x8000000003#40 }
    (s.regionOn 1 = true ∧ (s.rgn 1).pstate = .run ∧ (s.rgn 1).waiting = [] ∧ (s.rgn 1).armed = false
        ∧ (s.rgn 1).turn % (128 * 2 ^ ((s.rgn 1).turnsNow.toNat / 2 ^ 6 % 8)) ≠ 0
        ∧ s.peek 0xFEFFFF (s.locOf 0xFEFFFF) = .good 0 0 ∧ 0x7EFFFF < 0x7F0000 ∧ 15 < 16)
      ∧ ((d.rgn 1).turn % (128 * 2 ^ ((d.rgn 1).turnsNow.toNat / 2 ^ 6 % 8)) = 0 ∧ (d.rgn 1).scrubDue = false ∧ d.int.ivl ≠ 0)
      ∧ (MayWrite f .keeper (0x100201 + 1 * 0x1000) ∧ (0x807FF : Word) &&& 0x7F800 = 0 ∧ (f.rgn 1).armed = true) := by
  refine ⟨?_, ?_, mayWrite_of ?_ ?_, ?_, ?_⟩ <;> decide +kernel

/-- Scrubbing: a row due at its interval, a scrub turn with nothing held and with a write-back, a word with an error, the walker
of the context store at rest and with a write-back. -/
theorem wit_scrubbing :
    let s : State := { (coreAt {}) with pip := { now := 0x38400 } }
    let t := (coreAt {}).setRgn 1 { pstate := .run, scrubDue := true, scrubPtr := 516 }
    let x := after (exec (.storedBitError (.sram 0x810000 2)) (put t 0x810000 7))
    let y := t.setRgn 1 { pstate := .run, scrubDue := true, scrubWb := [⟨0x810000, encode 7 (0x10000 / 127)⟩] }
    let w : State := { coreAt {} with walkWb := [⟨0x20000000, encode 7 0⟩] }
    ((s.rgn 1).scrubDue = false ∧ s.int.ivl.toNat + (s.rgn 1).scrubLast ≤ s.pip.now.toNat ∧ (s.rgn 1).pstate ≠ .off)
      ∧ ((t.rgn 1).scrubDue = true ∧ (t.rgn 1).waiting = [] ∧ (t.rgn 1).scrubWb = [])
      ∧ (0x10000 / 127 = (x.rgn 1).scrubPtr ∧ x.peek 0x810000 (x.locOf 0x810000) = .good 7 1)
      ∧ (y.locOf 0x810000 = .region 1 0x10000 ∧ (y.rgn 1).scrubWb = [{ addr := 0x810000, cell := encode 7 (0x10000 / 127) }])
      ∧ (t.walkWb = [] ∧ t.peek 0x20000000 (.ctx 0) = .good 0 0 ∧ w.walkWb = [⟨0x20000000, encode 7 0⟩]
        ∧ (after (exec (.storedBitError (.sram 0x20000000 4)) t)).peek 0x20000000 (.ctx 0) = .good 0 1) := by decide +kernel

/-- Castling: a legal value, the first and the last row, and a copy that is complete. -/
theorem wit_castling :
    let s := (coreAt {}).setRgn 1 { pstate := .run, cstat := .copying, copySq := 126, row := 65535 }
    let t := (coreAt {}).setRgn 1 { pstate := .run, cstat := .copying, copySq := 126, row := 65536, spare := [(65535, 5)] }
    MayWrite s .keeper (0x100005 + 1 * 0x1000) ∧ (0x03F00 : Word) &&& 0xE0000 = 0
      ∧ ((s.rgn 1).cstat = .copying ∧ (s.rgn 1).row < 65536 ∧ (s.rgn 1).pstate = .run ∧ (s.rgn 1).copySq.toNat < 127
        ∧ s.peek (0x800000 + 65535 * 127 + 126) (.region 1 (65535 * 127 + 126)) = .good 0 0)
      ∧ ((t.rgn 1).row = 65536 ∧ (t.rgn 1).copyWr = none ∧ SMap.wf 0 (t.rgn 1).spare = true ∧ ∀ e ∈ (t.rgn 1).spare, e.1 < 65536) := by
  refine ⟨mayWrite_of ?_ ?_, ?_, ?_, ?_⟩ <;> decide +kernel

/-- RegionPower: each request, a region that is vacated and drained, one that has been idle long enough, and both wakes. -/
theorem wit_region_power :
    let s (r : Region) := State.reset.setRgn 1 r
    MayWrite (s {}) .keeper (0x100000 + 1 * 0x1000) ∧ (0x0001F : Word) &&& 0xFFFE0 = 0
      ∧ (let t := s { pstate := .run, ctl := 0x00006 }
        (t.rgn 1).hold = false ∧ t.vacated 1 = true ∧ t.drained 1 = true ∧ (t.rgn 1).rollNext = false ∧ (t.rgn 1).preq = 1)
      ∧ ((s { pstate := .nap, ctl := 0x0000A }).rgn 1).preq = 2
      ∧ (let t := s { pstate := .run }
        t.unbound 1 = true ∧ (t.rgn 1).scrubDue = false ∧ t.int.ivl ≠ 0 ∧ t.drained 1 = true ∧ (t.rgn 1).preq = 0 ∧ (t.rgn 1).scrubWake = none)
      ∧ (let t := s { pstate := .idle, idlePips := 0x400 }
        t.pwr.napidle ≠ 0 ∧ t.pwr.napidle.toNat ≤ (t.rgn 1).idlePips ∧ t.unbound 1 = true ∧ t.drained 1 = true ∧ (t.rgn 1).hold = false)
      ∧ ((s { pstate := .waking, fromNap := true }).rgn 1).filling = false ∧ ((s { pstate := .waking, filling := true }).rgn 1).filling = true := by
  refine ⟨mayWrite_of ?_ ?_, ?_, ?_, ?_, ?_,
      ?_, ?_⟩ <;> decide +kernel

/-- RegionPlans: legal values, a ramp up and down, a margin under the threshold, the spare square's own measurement, and the edges
of the throttle. -/
theorem wit_region_plans :
    let s (r : Region) := (coreAt {}).setRgn 1 r
    MayWrite (s {}) .keeper (0x100002 + 1 * 0x1000) ∧ MayWrite (s {}) .keeper (0x100004 + 1 * 0x1000)
      ∧ ((0x03FFF : Word) &&& 0xFC000 = 0 ∧ (0x001FF : Word) &&& 0xFFE00 = 0)
      ∧ (((s { ramp := true, vnow := 36 }).rgn 1).vnow < ((s {}).rgn 1).vf.toNat / 2 ^ 5 % 2 ^ 8 ∧ ((s { ramp := true, vnow := 40 }).rgn 1).ramp = true)
      ∧ (((s { pstate := .run }).rgn 1).pstate = .run ∧ ((s { pstate := .nap }).rgn 1).pstate ≠ .off)
      ∧ (((s {}).rgn 1).moved = 0x7F ∧ (126 : BitVec 7) ≠ 127 ∧ ((s {}).rgn 1).low = false ∧ (0x3B : BitVec 10).toNat < ((s {}).rgn 1).rmth.toNat
        ∧ ((s {}).rgn 1).sq = [])
      ∧ ((s { moved := 3 }).rgn 1).moved ≠ 0x7F
      ∧ (800 ≤ (800 : BitVec 12).toInt ∧ 776 ≤ (776 : BitVec 12).toInt ∧ (799 : BitVec 12).toInt < 800 ∧ (775 : BitVec 12).toInt < 776
        ∧ ((s { cap := 20 }).rgn 1).kNow = 20 ∧ ((s { know := 0 }).rgn 1).kNow < 20) := by
  refine ⟨mayWrite_of ?_ ?_, mayWrite_of ?_ ?_, ?_,
      ?_, ?_, ?_, ?_, ?_⟩ <;> decide +kernel

/-- FabricAndStackAccesses: a port with pieces of two masters and classes, a region target that runs, blocks of each kind, whole
and part writes to the last word of a block. -/
theorem wit_fabric_and_stacks :
    let s := coreAt {}
    let w : List PieceReq := [{ master := 65, wr := false, c0 := false, beats := 256 }, { master := 0, wr := true, c0 := true, beats := 1 }]
    let p : State := { s with hbm := [(0, blockEncode 0 (hbmIndex 0 0) 0x5A5 ^^^ blockEncode 0 (hbmIndex 0 0) 0)] }
    (0 < 4 ∧ 15 < 16 ∧ s.regionOn (12 * 0 + 1) = true ∧ SMap.get [] (s.fabric 0).waiting 1 = [] ∧ s.fabricOff 0 = false
        ∧ w ≠ [] ∧ (∀ x ∈ w, x.master < 66) ∧ (s.rgn (12 * 0 + 1)).pstate = .run)
      ∧ (s.up = true ∧ s.locOf 0x100000017 = .hbm 0 23 ∧ reaches .keeper (.hbm 0 23) true = true ∧ 23 % 24 + ([7] : List Word).length ≤ 24)
      ∧ blockDecode (s.block 0 0) (hbmIndex 0 0) = .clean 0 0 ∧ blockDecode (p.block 0 0) (hbmIndex 0 0) = .poisoned 0 0
      ∧ blockDecode (s.block 0 0 ^^^ 0x15) (hbmIndex 0 0) = .uncorr ∧ (0 : Nat) < 2 ^ 480 := by decide +kernel

/-- Triggers and ChannelCommandsAndTransfers: each master and state, a channel that reads and writes a region, its last write, its
end, its failure, and a host read. -/
theorem wit_channels :
    let c (d : Dma) := (coreAt {}).setChan 95 d
    let r := c { state := .running, act := { src := 0x810000, dst := 0x812000, count := 8, rows := 1 }, rlen := 8 }
    let q : DmaWrite := { t := 0, addr := 0x812000, ws := [7] }
    let w := c { state := .running, act := { count := 0, rows := 0 }, rlen := 1, rows0 := 1, dst0 := 0x812000, readT := 1, wq := [q] }
    MayWrite (c {}) .keeper (0x30000 + 95 * 0x40 + (0x10 + (9 : BitVec 4).toNat)) ∧ MayWrite (c {}) (.core 3) (0x30000 + 95 * 0x40 + 0x20)
      ∧ ((9 : BitVec 4).toNat < 10 ∧ 63 ∈ dieChans 3 ∧ ((c { trig := 0x8005F }).chan 95).trig.toNat / 2 ^ 18 = 2)
      ∧ ((r.chan 95).state = .running ∧ (r.chan 95).fail = none ∧ (r.chan 95).killed = false ∧ (r.chan 95).act.rows ≠ 0 ∧ (r.chan 95).wq.length < 15
        ∧ (r.chan 95).act.skind = 0 ∧ (r.chan 95).act.dkind = 0 ∧ r.gate (2, 95) 0x810000 (r.locOf 0x810000) = .go r
        ∧ (∀ i, i < 8 → r.peek (0x810000 + i) (r.locOf (0x810000 + i)) = .good 0 0
          ∧ reaches (.dma 95) (r.dmaLoc (0x812000 + i)) true = true))
      ∧ ((w.chan 95).wq = q :: [] ∧ w.writeWhole (w.chan 95) q = true ∧ (w.chan 95).unpred = false ∧ w.locOf 0x812000 = .region 1 0x12000
        ∧ w.gate (2, 95) 0x812000 (w.locOf 0x812000) = .go w)
      ∧ (((c { state := .running }).chan 95).act.rows = 0 ∧ ((c { state := .running }).chan 95).wq = []
        ∧ ((c { state := .armed, fail := some ⟨4, false, 3, 0⟩ }).chan 95).fail = some ⟨4, false, 3, 0⟩)
      ∧ ((c { state := .running, act := { ctl := 0x2000, rows := 1 } }).chan 95).act.skind = 2 := by
  refine ⟨mayWrite_of ?_ ?_, mayWrite_of ?_ ?_, ?_,
      ⟨?_, ?_, ?_, ?_, ?_, ?_, ?_,
        gate_eq ?_, ?_⟩,
      ⟨?_, ?_, ?_, ?_, gate_eq ?_⟩, ?_, ?_⟩ <;> decide +kernel
/-- An Ethernet port that is up, and a frame for it with an EtherType and an eCPRI header. -/
def ethPort : Port := { ctl := 0x81000, lock := 1, up := 1, mac := 0x020000000001, svc := 7 }
def ethFrame (t1 t2 v type : Byte) : EthFrame :=
  ⟨true, [2, 0, 0, 0, 0, 1, 2, 0, 0, 0, 0, 2, t1, t2, v, type, 0, 8, 0, 0x11, 0x0F, 0x80] ++ List.replicate 38 0⟩
/-- A Bosum port that is up, with a frame unacknowledged and one queued. -/
def bosumPort : Port :=
  let f := mkFrame 0 false 0 1 2 3 4 5 []
  { ctl := 0xC0000, lock := 1, up := 1, linkUp := true, tok0 := 128, tok1 := 896, unacked := [⟨0, f⟩], txSeq := 1, txq := [(0, .msg false f)]
    ret0 := 1024, ackDue := true }
/-- FrameReception: a frame that the port hears of each type, and Bosum frames in order, out of order and of each type. -/
theorem wit_frame_reception :
    let hears (x : Port) : Prop := x.ctl.getLsbD 19 = true ∧ x.ctl.getLsbD 18 = false ∧ 0 < 2 ^ (x.ctl.toNat / 2 ^ 16 % 4) ∧ x.up.toNat / 2 ^ 0 % 2 = 1
    let ok (f : EthFrame) : Prop := f.fcsOk = true ∧ 60 ≤ f.bytes.length ∧ f.bytes.length ≤ 9212
      ∧ ¬ ((f.bytes.headD 0).getLsbD 0 = false ∧ beNat (slice f.bytes 0 6) ≠ ethPort.mac.toNat)
    let s : State := { State.reset with ports := [(0, bosumPort)] }
    let f (type : Nat) (seq : BitVec 12) : BosumFrame := { mkFrame type false 0 1 0 3 4 5 [] with h1 := putField 0 8 12 seq.toNat }
    7 < 8 ∧ hears ethPort ∧ (ok (ethFrame 0x88 0xF7 0 0) ∧ ok (ethFrame 0xAE 0xFE 0x10 0) ∧ ok (ethFrame 0xAE 0xFE 0x10 5) ∧ ok (ethFrame 8 0 0 0))
      ∧ (beNat (slice (untag (ethFrame 0x88 0xF7 0 0).bytes) 12 2) = 0x88F7 ∧ beNat (slice (untag (ethFrame 0xAE 0xFE 0x10 5).bytes) 15 1) = 5
        ∧ beNat (slice (untag (ethFrame 0xAE 0xFE 0x11 0).bytes) 14 1) % 2 = 1 ∧ beNat (slice (untag (ethFrame 8 0 0 0).bytes) 12 2) ≠ 0xAEFE)
      ∧ ((s.port 0).en = true ∧ (s.port 0).bosum = true ∧ (s.port 0).linkUp = true)
      ∧ ((f 0 0).legal = true ∧ (f 1 0).legal = true ∧ (f 2 0).legal = true ∧ (f 3 0).legal = true ∧ (f 4 0).legal = true)
      ∧ ((f 0 0).type = 0 ∧ (f 1 0).type = 1 ∧ (f 2 0).type = 2 ∧ (f 3 0).type = 3 ∧ (f 4 0).type = 4 ∧ (s.port 0).replays < 15)
      ∧ ((f 0 0).seq = (s.port 0).rxSeq ∧ (f 0 1).seq ≠ (s.port 0).rxSeq ∧ (f 0 0).ddev = s.lnk.devnum) := by
  decide +kernel

/-- LinkOperation: replays at 14 and 15, tokens to return, a link that is not up, frames queued behind another sub-port's. -/
theorem wit_link_operation :
    let b := bosumPort
    let d : Port := { ctl := 0xC0000, lock := 1 }
    let e : Port := { ethPort with ctl := 0x91000, up := 3, txq := [(0, .eth false 0 false 0 []), (1, .eth false 5 false 0 [])] }
    let f := mkFrame 0 false 0 1 2 3 4 5 []
    (b.en = true ∧ b.bosum = true ∧ b.linkUp = true ∧ b.unacked ≠ [] ∧ (b.ackDue = true ∨ b.ret0 ≠ 0 ∨ b.ret1 ≠ 0))
      ∧ ((14 : Nat) < 15 ∧ (15 : Nat) ≤ 15 ∧ d.en = true ∧ d.bosum = true ∧ d.linkUp = false ∧ d.lock.getLsbD 0 = true)
      ∧ (e.en = true ∧ e.bosum = false ∧ e.up.toNat / 2 ^ 1 % 2 = 1 ∧ e.txq = [(0, .eth false 0 false 0 [])] ++ (1, .eth false 5 false 0 []) :: []
        ∧ ∀ x ∈ [((0 : Nat), TxFrame.eth false 0 false 0 [])], x.1 ≠ 1)
      ∧ (b.up.getLsbD 0 = true ∧ b.txq = [] ++ (0, .msg false f) :: []
        ∧ (b.unacked.map (fun u => u.f.cost)).foldl (· + ·) 0 + f.cost ≤ 1024 ∧ b.unacked.length < 2047 ∧ f.cost ≤ b.tok0) := by decide +kernel

/-- LinkRegisters, PtpClock, LedgerOperations, Rolls, HostAccessesAndEvents: the registers that each command writes may be written,
by the keeper core and by a core at S where R23 lets it. -/
theorem wit_registers :
    let s := coreAt { cst := { pl := .s } }
    (MayWrite s .keeper (0x40000 + 7 * 0x100) ∧ MayWrite s .keeper 0x40803 ∧ MayWrite s .keeper 0x40804 ∧ MayWrite s .keeper 0x40805)
      ∧ (MayRead s .keeper 0x50000 ∧ MayRead s (.core 3) 0x10104 ∧ MayWrite s .keeper 0x50007 ∧ MayWrite s .keeper 0x50009
        ∧ MayWrite s .keeper 0x5000C ∧ MayWrite s .keeper (0x50100 + 8 * 63 + 3))
      ∧ (MayWrite s .keeper 0x90008 ∧ MayWrite s .keeper 0x9000B ∧ MayWrite s .keeper 0x9000A ∧ MayWrite s .keeper 0x70000 ∧ MayRead s .keeper 0x60011)
      ∧ ((0xFF000 : Word) &&& 0xFFF = 0 ∧ (0x0FFFF : Word) &&& 0xF0000 = 0 ∧ (0xFFF80 : Word) &&& 0x7F = 0) := by
  refine ⟨⟨mayWrite_of ?_ ?_, mayWrite_of ?_ ?_, mayWrite_of ?_ ?_, mayWrite_of ?_ ?_⟩, ⟨mayRead_of ?_ ?_, mayRead_of ?_ ?_, mayWrite_of ?_ ?_,
    mayWrite_of ?_ ?_, mayWrite_of ?_ ?_, mayWrite_of ?_ ?_⟩, ⟨mayWrite_of ?_ ?_, mayWrite_of ?_ ?_, mayWrite_of ?_ ?_, mayWrite_of ?_ ?_,
    mayRead_of ?_ ?_⟩, ?_⟩ <;> decide +kernel

/-- LinkRegisters and PtpClock: a device that is the target and one that a route reaches, a timer that is due and one that is not,
PPS_OUT at both edges, a correction that stays in range. -/
theorem wit_links_and_time :
    let s : State := { State.reset with ports := [(2, { bosumPort with txq := [] })], lnk := { route := [(7, 0x80002)] } }
    let p (q : Ptp) : State := { State.reset.setTmr 63 { next := 0x100000005, en := true, period := 1000 } with ptp := q }
    ((0x700000 : BitVec 40).extractLsb' 20 12 ≠ s.lnk.devnum ∧ (SMap.get 0 s.lnk.route 7).getLsbD 19 = true ∧ (s.port 2).linkUp = true
        ∧ (0xFFFFFFFF : Dbl).toNat < 2 ^ 32)
      ∧ (((p { time := 0x100000005 }).tmr 63).en = true ∧ ((p { time := 0x100000005 }).tmr 63).next.toNat ≤ (p { time := 0x100000005 }).ptp.time.toNat
        ∧ (0x100000005 : Nat) % 2 ^ 32 < 10 ^ 9 ∧ (p { time := 0x100000004 }).ptp.time.toNat < ((p {}).tmr 63).next.toNat)
      ∧ ((p { ppsen := true, time := 0x100000000 }).ptp.time.toNat / 2 ^ 32 ≠ (p {}).ptp.ppsRise.toNat / 2 ^ 32)
      ∧ (timeNs 0 + max 1 (100 : BitVec 8).toNat * 10 ^ 6 ≤ timeNs 100000000)
      ∧ (0 ≤ (timeNs 5 : Int) + (-5 : BitVec 40).toInt ∧ (timeNs 5 : Int) + (-5 : BitVec 40).toInt < 2 ^ 48 * 10 ^ 9) := by decide +kernel

/-- HostAccessesAndEvents: a link that is up, the last words of BAR2's window on a region, an unmapped address, a register, enabled
and disabled bytes, a mailbox in use and free, the masks and the events of the endpoint. -/
theorem wit_host :
    let s : State := { coreAt {} with host := { lup := true, win := 0x800000, h2kBusy := true, k2hBusy := true, pba := 1, lten := true } }
    (s.up = true ∧ s.host.lup = true ∧ s.host.d3 = false ∧ (2 ^ 26 - 4) + 4 * 1 ≤ 2 ^ 26)
      ∧ (s.locOf (0x800000 + 8 / 4) = .region 1 2 ∧ (s.rgn 1).armed = false ∧ s.peek 0x800002 (s.locOf 0x800002) = .good 0 0)
      ∧ s.busGate .host 0x800002 = .go s ∧ s.locOf (0x800000 + 0x1FF0000 / 4) = .none
      ∧ (s.regMapped .host 0x90000 = true ∧ s.rcRefused 0x90000 = false ∧ (s.regRead .host 0x90000).isSome = true)
      ∧ ((0x7 : BitVec 4) &&& 7 = 7 ∧ (0xB : BitVec 4) &&& 7 ≠ 7 ∧ s.busGate .host (s.barAddr .bar2 8 0) = .go s)
      ∧ (s.host.hrst = false ∧ (3 : BitVec 3).toNat ≤ 3 ∧ 1 ≤ (5 : BitVec 3).toNat ∧ (5 : BitVec 3).toNat ≤ 5 ∧ s.host.pba.getLsbD 0 = true) := by
  refine ⟨?_, ?_, gate_eq ?_, ?_, ?_,
      ⟨?_, ?_, gate_eq ?_⟩, ?_⟩ <;> decide +kernel

/-- LedgerOperations, Rolls, PmbusAndInputPower: operations in progress, rolling units, power in range and out of it, and the edges
of each threshold. -/
theorem wit_ledger_rolls_power :
    let l (o : LdgOp) : State := { State.reset with int := { ldgOp := some o } }
    let r := (coreAt {}).setRgn 1 { pstate := .rolling }
    let c : State := { (coreAt {}) with cores := [(3, { rolling := true })] }
    (State.reset.up = true ∧ (l (.program 32767 0)).int.ldgOp = some (.program 32767 0) ∧ (l (.erase 31)).int.ldgOp = some (.erase 31)
        ∧ (0x0FFFF : Word) &&& 0xF0000 = 0)
      ∧ (r.regionOn 1 = true ∧ (r.rgn 1).pstate = .rolling ∧ c.clusterOn 3 = true ∧ (c.core 3).rolling = true ∧ (c.rgn (3 / 2)).pstate = .run)
      ∧ (State.reset.pwr.dev ≠ .unpowered ∧ (839 : Nat) < 840 ∧ 6200 < (6201 : Nat) ∧ (880 : Nat) ≤ 6100 ∧ (8191 : Nat) < 2 ^ 13
        ∧ 920 ≤ (920 : BitVec 12).toInt ∧ State.reset.dev.thermtrip = false)
      ∧ ((coreAt {}).regionOn 1 = true ∧ ((coreAt {}).rgn 1).pstate = .run ∧ ((({} : State).setRgn 1 { pstate := .run, know := 0 }).rgn 1).kNow < 20
        ∧ ({ State.reset with pwr := { dev := .unpowered } } : State).pwr.dev = .unpowered
        ∧ ({ State.reset with dev := { rst := .power } } : State).dev.porst = true
        ∧ ({ State.reset with dev := { rst := .power, porst := false } } : State).dev.porst = false) := by decide +kernel

/-- StartUp and DeviceResets: each stage, each hold, each device state. -/
theorem wit_start_up :
    let s (d : Dev) : State := { State.reset with dev := d }
    (∀ g ∈ [BootStage.started, .fused, .rom, .rolled, .cleared], (s { stage := g }).up = true ∧ (s { stage := g }).dev.stage = g)
      ∧ (({ State.reset with pwr := { dev := .entering } } : State).up = true ∧ ({ State.reset with pwr := { dev := .returning } } : State).up = true)
      ∧ (State.reset.dev.porst = true ∧ State.reset.dev.rst ≠ .power ∧ (s { rst := .porst, porst := false }).dev.rst = .porst
        ∧ State.reset.dev.wrst = true ∧ State.reset.dev.rst = .none ∧ State.reset.pwr.dev = .active ∧ (s { rst := .internalCold }).dev.tmode = 0
        ∧ ({ State.reset with host := { lup := true, hrst := true } } : State).up = true)
      ∧ (∀ n, n < 96 → (State.reset.chan n).wq = [] ∧ (State.reset.core n).groups = [])
      ∧ (∀ n, n < 48 → let t : State := { State.reset with regions := (List.range 48).map (fun i => (i, { ctl := 2 })) }
        t.regionOn n = true ∧ t.vacated n = true ∧ t.drained n = true)
      ∧ ∀ n, n < 96 → (State.reset.chan n).state = .idle := by decide +kernel
theorem wit_device_resets : Canonical State.reset := canonical_of (by decide +kernel)

/-- R400: a core halted by R269 asserts ALERT_N, and a warning of VIN holds it until CLEAR_FAULTS. -/
theorem test_alert : State.reset.alertN = false ∧ (State.reset.haltCore 3 1).alertN = true
    ∧ (∃ t u, exec (.vinWarning 880) State.reset = .next t ∧ t.alertN = true ∧ exec .clearFaults t = .next u ∧ u.alertN = false) := by
  refine ⟨?_, ?_, _, _, rfl, ?_, rfl, ?_⟩ <;> decide +kernel

/-- A request with flags and a MAC, and the keeper firmware's monitor with a session. -/
def request (flags : Byte) (mac : BitVec 128) : MonReq := ⟨.uart, 9, flags, mac⟩
def monitor (lc : BitVec 3) (m : MonCh) : State := { coreAt { rc := .halted } with dev := { stage := .firmware, lc := lc }, monU := m }
theorem taken_open (s : State) (r : MonReq) (cmd : Byte) (l : List Byte) (h : (s.mon r.ch).key = none) (u : s.up = true)
    (f : s.dev.stage = .firmware) (o : OpenCommand s cmd = true) : Taken s r cmd l s := by
  simp only [Taken, h]
  exact ⟨u, f, o, trivial⟩
theorem taken_mac (s : State) (r : MonReq) (cmd : Byte) (l key : List Byte) (h : (s.mon r.ch).key = some key) (u : s.up = true)
    (f : s.dev.stage = .firmware) (b : r.flags.getLsbD 0 = true) (m : Config.hmac128 key (macInput r cmd l) = r.mac)
    (q : r.seq = (s.mon r.ch).next) :
    Taken s r cmd l (s.setMon r.ch { s.mon r.ch with next := (s.mon r.ch).next + 1, last := s.pip.now.toNat }) := by
  simp only [Taken, h, b, if_true]
  exact ⟨u, f, m, q, trivial⟩
/-- MonitorSessionsAndCommands: requests taken without a session and in one, refused ones, and what each command asks of the
state. -/
theorem wit_monitor :
    (∀ cmd l, Taken (monitor 0 {}) (request 0 0) cmd l (monitor 0 {}))
      ∧ (∀ cmd l, ∃ mac t, Taken (monitor 2 { key := some [1], next := 9 }) (request 1 mac) cmd l t)
      ∧ (OpenCommand (monitor 2 {}) 0x40 = false ∧ (monitor 2 {}).up = true ∧ (List.replicate 97 (0 : Byte)).length = 97
        ∧ (List.replicate 96 (0 : Byte)).length = 96 ∧ ((monitor 0 { exch := some (1, [], 4) }).mon .uart).exch = some (1, [], 4)
        ∧ ((monitor 0 { lockedAt := some 5 }).mon .uart).lockedAt = some 5 ∧ frameOk [] = false)
      ∧ (∃ mac, Config.hmac128 [1] (macInput (request 1 mac) 0x01 []) ≠ mac)
      ∧ ((monitor 0 {}).dbg.op = none ∧ (monitor 0 {}).locOf 0x810000 = .region 1 0x10000 ∧ ((monitor 0 {}).rgn 1).armed = false
        ∧ (monitor 0 {}).peek 0x810000 ((monitor 0 {}).locOf 0x810000) = .good 0 0)
      ∧ (monitor 0 {}).busGate .debug 0x810000 = .go (monitor 0 {})
      ∧ ((monitor 0 {}).clusterOn (3 : BitVec 8).toNat = true ∧ ((monitor 0 {}).core 3).rolling = false ∧ ((monitor 0 {}).core 3).rc = .halted
        ∧ (0x003FF : Word).toNat / 2 ^ 7 = 7 ∧ (0x00380 : Word).toNat % 2 ^ 7 < [32, 8, 8, 32, 32, 128, 3, 1].getD 7 0
        ∧ (monitor 0 {}).dev.fuseOp = .none ∧ ((monitor 0 {}).rgn 1).vnow ≤ 100) := by
  refine ⟨fun cmd l => taken_open _ _ _ _ (by decide) (by decide) (by decide) ?_, fun cmd l => ⟨Config.hmac128 [1] (macInput (request 1 0) cmd l), _,
    taken_mac _ _ _ _ [1] rfl (by decide) (by decide) (show (1 : Byte).getLsbD 0 = true by decide) rfl rfl⟩, by decide +kernel,
    ⟨Config.hmac128 [1] (macInput (request 1 0) 0x01 []) + 1, fun h => ?_⟩, by decide +kernel, gate_eq (by decide +kernel), by decide +kernel⟩
  · simp [OpenCommand, monitor]
  · have e : macInput (request 1 (Config.hmac128 [1] (macInput (request 1 0) 0x01 []) + 1)) 0x01 [] = macInput (request 1 0) 0x01 [] := rfl
    rw [e] at h
    exact absurd h (by simp)

/-- RegisterWritesAndBitErrors, PoisonAndWrites, ErrorCorrection: the first and last plain register of a kind, one that may be written
and one on a device that is held, sites in each store, the last row, and one, two and three wrong bits. -/
theorem wit_registers_and_bits :
    (Plain 0x10101 0xFFFFF ∧ Plain (0x2003FF + 95 * 0x400) 0xFFFFF) ∧ MayWrite (coreAt {}) .keeper (0x30022 + 95 * 0x40)
      ∧ ({ State.reset with dev := { rst := .porst } } : State).up = false
      ∧ ((coreAt {}).dev.disabled = [] ∧ (ErrSite.sram 0x17FEFFFF 1).wf = true ∧ (ErrSite.sram 0x21FFFFFF 1).wf = true ∧ (ErrSite.hbm 0x9FFFFFFFF 511).wf = true)
      ∧ ((65535 : Nat) < 2 ^ 16 ∧ ((coreAt {}).rgn 1).armed = false ∧ (Loc.ctx 0x1FFFFFF).row < 2 ^ 16)
      ∧ (ones (0x40000001 : BitVec 31).toNat 31 = 2 ∧ ones (7 : BitVec 31).toNat 31 = 3 ∧ ones (65535 ^^^ 65534) 16 = 1 ∧ ones (0 ^^^ 3) 16 = 2)
      ∧ (coreAt {}).peek 0x810000 (.region 1 0x10000) = .good 0 0 := by
  refine ⟨⟨⟨(0x10101, 1, 1, 0xFFFFF), by decide, 0, by decide, rfl, rfl⟩, ⟨(0x2003FF, 0x400, 96, 0xFFFFF), by decide, 95, by decide, rfl, rfl⟩⟩,
      mayWrite_of ?_ ?_, ?_, ?_, ?_, ?_, ?_⟩ <;> decide +kernel

/-- IdlePip, StepKeepsCanonical, CommandsComplete, LifeCycle: a canonical state with an empty queue and one that steps, every
region, fuse programming of each kind that fits its state. -/
theorem wit_steps :
    (Canonical State.reset ∧ State.reset.pending = [] ∧ State.reset.powered = true) ∧ (∃ t, step State.reset = .next t)
      ∧ (Instr.wf (.nop 95) = true ∧ AllRegions State.reset ∧ State.reset.dev.gx4816 = false)
      ∧ FuseFits State.reset.dev ∧ FuseFits { lc := 1, fuseOp := .enroll 0 0 } ∧ FuseFits { lc := 0, fuseOp := .sealing }
      ∧ FuseFits { lc := 2, fuseOp := .toReturn } ∧ FuseFits { lc := 3, fuseOp := .toVoid }
      ∧ (({ State.reset with dev := { fuseOp := .sealing } } : State).up = true ∧ (FuseOp.sealing) ≠ .none) :=
  ⟨⟨wit_device_resets, rfl, by decide⟩, ⟨_, rfl⟩, ⟨by decide, rfl, rfl⟩, trivial, rfl, rfl, rfl, by unfold FuseFits; decide, by decide⟩

/-! ## Witnesses of the later clauses -/

/-- DelayedProductAndDivision: a division by zero held in X under DZE, at M with its stack. -/
theorem wit_division_trap :
    let p : DivPend := { q := 0, r := 0, qk := 8, rk := 9, ov := false, dz := true, trap := true }
    let s := coreAt { div := some p, w := [(wKey .m 30, 0x200)], msb := 0x840000 }
    let d := s.setCore 3 { s.core 3 with vmode := mergeV (s.core 3).vmode { dz := true } }
    (s.clusterOn 3 = true ∧ (s.core 3).div = some p ∧ p.trap = true) ∧ d.drainLoads 3 = .done d none ∧ PushOk d 3 .m
      ∧ ∃ s1, (d.onCore 3 Core.saveRep).room 3 2 = .done s1 ∧ decide ((s1.core 3).sbuf = []) = true := by
  refine ⟨?_, drain_eq ?_, pushOk_of ?_ ?_, perf_ex _ ?_⟩ <;> decide +kernel

/-- ControlTransfers: a count of 0, a word that may not be repeated, and repetitions under way, the last one among them. -/
theorem wit_repetitions :
    let c (w : Word) (n : Option Nat) : Core := { pc := 0x820000, rep := n, fbuf := [⟨0x820000, (List.replicate 8 w).map FWord.ok⟩] }
    let s := coreAt (c 0x098C5 none)
    let f := coreAt (c 0xA8000 none)
    ((s.core 3).wr 2 = 0 ∧ s.repForbidden (s.core 3) 0x820001 = false ∧ s.fetchPeek ((s.core 3).retire 1) 0x820001 = some 0x098C5)
      ∧ (Ready f 3 ∧ f.repForbidden (f.core 3) 0x820002 = true ∧ f.repForbidden (f.core 3) 0x820001 = true)
      ∧ ∀ n ∈ [1, 2], let x := coreAt (c 0x098C5 (some n))
        x.atWork 3 = true ∧ (x.core 3).free = true ∧ (x.core 3).rep = some n ∧ (x.core 3).repNew = false := by
  refine ⟨?_, ⟨⟨?_, ?_, ?_⟩, ?_⟩, ?_⟩ <;> decide +kernel

/-- Stores, AccessesPerformed: lanes that no region refuses, a word that has been captured, a buffered store to a register, and
one to a region that rolls. -/
theorem wit_later_accesses :
    let s := userAt { cst := { pl := .u } }
    let l : PendLoad := { addrs := [0x810000], slots := [.w 5], age := 1, data := some (.ok [9]) }
    let b (a : Nat) := (coreAt { sbuf := [⟨a, [7]⟩] }).setRgn 2 { pstate := .rolling }
    s.refusedLane 3 ((List.range 8).map (fun i => 0x810000 + i)) = none
      ∧ (0 < l.age ∧ l.data = some (.ok [9]) ∧ l.slots = [.w 5])
      ∧ ((b 0x30010101).locOf 0x30010101 = .regs 0x10101 ∧ ((b 0x30010101).core 3).loads = [])
      ∧ (b 0x30010101).busGate (.core 3) 0x30010101 = .go (b 0x30010101)
      ∧ (∃ x, (b 0x1000000).busGate (.core 3) 0x1000000 = .refuse x) ∧ ((b 0x1000000).core 3).mchk = none := by
  refine ⟨?_, ?_, ?_, gate_eq ?_, ⟨_, rfl⟩, ?_⟩ <;> decide +kernel

/-- AtomicAccesses: an older load of the word, whose delay slot the atomic is in. -/
theorem wit_atomic_after_load :
    let s := userAt { cst := { pl := .u }, a := [(1, 0x810000)], sbuf := [⟨0x810000, [7]⟩]
                      loads := [{ addrs := [0x810000], slots := [.w 5], behind := 1 }] }
    Ready s 3 ∧ ∃ s0, s.drainStores 3 = .done s0 ∧ decide (((perfOf (s0.captureLoads 3 (fun l => l.lwx || s0.sameTarget l.addrs [0x810000]))).bind
      (fun s1 => readOf (s1.readAll (.core 3) [0x810000]))).map (fun q => ((q.1.core 3).loads.map (fun l => l.data), q.2)) = some ([some (.ok [7])], [7])) = true := by
  refine ⟨⟨?_, ?_, ?_⟩, perf_ex _ ?_⟩ <;> decide +kernel

/-- ControlRegisters: a value with a reserved bit set, and a record that waits to be delivered. -/
theorem wit_reserved_bits :
    let m := coreAt { w := [(1, 0xFFFFF)], vfc := 0x40005, stopped := [group] }
    (3, (0x003F0 : Word), (0x003F0 : Word)) ∈ ctlPlain ∧ (m.core 3).wr 1 &&& ~~~0x003F0 ≠ 0 ∧ (m.core 3).vfc.getLsbD 18 = true := by decide +kernel

/-- ExceptionEntry: a word that is no instruction, at M and at U with a push that fails, and a word that could not be fetched. -/
theorem wit_words_fetched :
    let s (p : Priv) (w : FWord) := userAt { cst := { pl := p }, pc := 0x820000, fbuf := [⟨0x820000, [w]⟩] }
    (∀ p ∈ [Priv.u, .m], (s p (.ok 0xE0000)).decoded 3 ((s p (.ok 0xE0000)).core 3) = some none)
      ∧ (∀ e ∈ [BusErr.uncorr, .poison, .refused], ((s .m (.bad e)).core 3).fetched 0x820000 = some (.bad e))
      ∧ (Ready (s .u (.ok 0xE0000)) 3 ∧ ¬ PushOk (s .u (.ok 0xE0000)) 3 .s ∧ ¬ PushOk (s .m (.ok 0xE0000)) 3 .m)
      ∧ (let v := coreAt { cst := { pl := .m }, pc := 0x7F0000, inVec := true }
        v.atWork 3 = true ∧ (v.core 3).free = true ∧ (v.core 3).inVec = true ∧ v.isRegion 0x7F0000 = false) := by
  refine ⟨?_, ?_, ⟨⟨?_, ?_, ?_⟩, not_pushOk_of ?_, not_pushOk_of ?_⟩, ?_⟩ <;> decide +kernel

/-- The caller of 11's example with the entry of its gate still in the store buffer. -/
def gateStorer : State := gateCaller.onCore 8 (fun c => { c with sbuf := [⟨0x203F014, [0x38000, 0x20, 0xD0000, 0]⟩] })
/-- GateCall: an entry of the table that is still in the store buffer. -/
theorem wit_gate_forwarded :
    let s := gateStorer
    Ready s 8 ∧ s.beforeLoad 8 (addrsFrom 0x203F014 4) false = (.done s, some [0x38000, 0x20, 0xD0000, 0]) := by
  refine ⟨⟨?_, ?_, ?_⟩, before_eq ?_ ?_⟩ <;> decide +kernel

/-- A handler at S that returns to a context with a stopped group. -/
def reissuer : State := (inHandler 0x300 false).onCore 3 (fun c => { c with cnt := 0, stopped := [group] })
/-- Returns: a stopped group is issued again, and a count of 0 under RPT. -/
theorem wit_reissue :
    let s := reissuer
    (Ready s 3 ∧ s.readFrame 3 false = .got s 0x8401F8 [0x300, 0, 0x20041, 0, 0, 0, 0, 0])
      ∧ (let c := s.core 3
        c.cnt = 0 ∧ (match s.reissue 3 { c with cst := { pl := .u, ie := true, rpt := true } } with
          | .done t => decide ((t.core 3).w = c.w ∧ (t.core 3).sfh = c.sfh ∧ (t.core 3).cst = c.cst ∧ (t.core 3).cnt = c.cnt)
          | _ => false) = true) := by
  refine ⟨⟨⟨?_, ?_, ?_⟩, frame_eq ?_⟩, ?_⟩ <;> decide +kernel

/-- ElementCommitsAndGroupEnds, InterruptPosts, ClusterEvents, RunControl, DebugMaster: a context of the control-block store, an element
of two words and two coefficients, a fabric that is on, counts at 2 × PERIOD and at 0 while a core counts, a core at M. -/
theorem wit_cluster_later :
    let e : ElemOut := { writes := [(0x810000, 1, 2, 1), (0x810001, 1, 2, 1)], coefs := [(0, 1, 2), (0x3FFF, 1, 2)] }
    let s := coreAt { wctl := 0x80001, wcnt := 2, groups := [group] }
    ((s.core 3).groupCtx < 2 ^ 20 ∧ (∀ w ∈ e.writes, s.locOf w.1 = .region 1 (w.1 - 0x800000)) ∧ e.writes.Pairwise (fun x y => x.1 ≠ y.1)
        ∧ (∀ w ∈ e.coefs, w.1 < 0x4000) ∧ e.coefs.Pairwise (fun x y => x.1 ≠ y.1))
      ∧ (s.fabricOff (dieOf (3 / 2)) = false ∧ s.host.fell = false ∧ (s.core 3).cst.pl = .m ∧ (s.core 3).rep ≠ some 0)
      ∧ ((s.core 3).wctl.getLsbD 19 = true ∧ (s.core 3).bound.isSome = true ∧ (s.core 3).rc ≠ .halted ∧ (s.core 3).rc ≠ .haltedErr
        ∧ (s.core 3).wcnt.toNat = 2 * max 1 ((s.core 3).wctl.toNat % 2 ^ 16))
      ∧ (group.stopAt = none ∧ (((coreAt { groups := [group], wctl := 0x80000 }).core 3).wcnt = 0)) := by decide +kernel

/-- ContextCommands, SchedulerEvents, ContextSwitch, InboxDeliveries: a held command that has not begun, one that has and whose context is
FAULTED, a region that does not roll, readable control blocks, and a delivery by a flow whose count reaches 2^WK. -/
theorem wit_contexts_later :
    let j : HeldCmd := { who := bankOf .keeper, op := 4, ctx := 8 }
    let h : HeldCmd := { who := bankOf .keeper, op := 3, ctx := 9, begun := true }
    let q (x : HeldCmd) : State := { ((coreAt {}).setCb 9 0 0xA0101) with sched := { held := [x] } }
    let s := coreAt {}
    let d : Delivery := { ctx := 9, words := [4], flow := some 2, buf := none, wk := 3 }
    let f : State := { s with lnk := { flow := [(8, 7)] } }
    ((q j).sched.held = [] ++ j :: [] ∧ j.begun = false ∧ (q h).sched.held = [] ++ h :: [] ∧ h.begun = true ∧ (q h).switching 9 = false
        ∧ (q h).ctxState 9 = 5 ∧ ((q h).cb 9 4).toNat / 2 ^ 5 % 16 ≠ 3)
      ∧ ((s.rgn 1).pstate ≠ .rolling ∧ (s.rgn 1).rollNext = false ∧ s.cbReadable 9 [0, 4] = true)
      ∧ (d.ctx < 2 ^ 20 ∧ d.buf = none ∧ d.old = none ∧ (0x810000 % 8 = 0 ∧ 0x810000 ≠ 0)
        ∧ (((f.flowWord 2 2).setWidth 16 : BitVec 16) + 1).toNat % 2 ^ d.wk = 0
        ∧ ∀ i, i < 72 → s.locOf (0x810000 + i) = .region 1 (0x10000 + i)) := by decide +kernel

/-- BoardTurns: two accesses of different slots to one square, in a rotation turn and in a reserved one. -/
theorem wit_board_pair :
    let q : BoardReq := ⟨3, .core 3, 0x10, .read⟩
    let p : BoardReq := ⟨0, .core 2, 0x10 + 127, .write 5⟩
    let reserved (t g : Nat) : Bool := decide ((t % 128 + 1) * (g % 2 ^ 6) / 128 ≠ t % 128 * (g % 2 ^ 6) / 128)
    (p.slot < 16 ∧ p.off < 0x7F0000 ∧ p.off % 127 = q.off % 127 ∧ p.slot ≠ q.slot)
      ∧ reserved 127 0xC1 = true ∧ reserved 0 0xC1 = false ∧ reserved 3 0xE0 = true := by decide

/-- Scrubbing, Castling, RegionPower: a row due while one is due, a castling that woke its region, a copier with a row still to write, a
reserved code of PREQ, and a region that returns to NAP after its scrub row. -/
theorem wit_regions_later :
    let s (r : Region) : State := { (State.reset.setRgn 1 r) with pip := { now := 0x38400 } }
    let d := s { pstate := .run, scrubDue := true }
    let w := s { pstate := .waking, fromNap := true, castleWait := true, copySq := 126 }
    let c := s { pstate := .run, cstat := .copying, copySq := 0, row := 7, copyWr := some 6, copyCell := encode 3 6 }
    let n := s { pstate := .run, scrubWake := some .nap }
    ((d.rgn 1).scrubDue = true ∧ d.int.ivl.toNat + (d.rgn 1).scrubLast ≤ d.pip.now.toNat ∧ (d.rgn 1).pstate ≠ .off)
      ∧ ((w.rgn 1).castleWait = true ∧ (w.rgn 1).pstate = .waking ∧ (w.rgn 1).filling = false ∧ (w.rgn 1).fromNap = true
        ∧ (w.rgn 1).needsClear = false ∧ (w.rgn 1).rollNext = false)
      ∧ ((c.rgn 1).cstat = .copying ∧ (c.rgn 1).row < 65536 ∧ c.peek (0x800000 + 7 * 127) (.region 1 (7 * 127)) = .good 0 0
        ∧ (c.rgn 1).copyWr = some 6)
      ∧ (2 < (0x0000C : Word).toNat / 2 ^ 2 ∧ (0x0000B : Word).toNat / 2 ^ 2 ≤ 2)
      ∧ ((n.rgn 1).scrubWake = some .nap ∧ (n.rgn 1).scrubDue = false ∧ n.unbound 1 = true ∧ n.drained 1 = true ∧ (n.rgn 1).preq = 0
        ∧ (n.rgn 1).hold = false) := by decide +kernel

/-- FabricAndStackAccesses: bursts of two masters whose lanes are free, one that goes on after its piece, one at a region that rolls
and at one asleep, and a fabric with nothing of a master. -/
theorem wit_fabric_lanes :
    let s := coreAt {}
    let q (m n : Nat) (w : Bool) : PieceReq := { master := m, wr := w, c0 := false, beats := n }
    let b (m n : Nat) (w : Bool) : Burst := { req := q m n w, left := n }
    let f : Fabric := { flight := [(1, [{ b 48 240 false with begun := true }])] }
    let g := { s with fabrics := [(0, f)] }
    (¬ s.withdraws 0 (b 65 256 false) ∧ ¬ s.withdraws 0 (b 0 1 true) ∧ s.fabricOff 0 = false)
      ∧ (∀ x ∈ [b 65 256 false, b 0 1 true], x.req.master < 66 ∧ (s.fabric 0).laneFree 1 x = true)
      ∧ (SMap.get [] (g.fabric 0).flight 1 = [{ b 48 240 false with begun := true }]
        ∧ ((g.fabric 0).land 1).laneFree 1 (b 48 240 false) = true ∧ SMap.get [] (g.fabric 0).waiting 1 = [])
      ∧ (((s.setRgn 2 { pstate := .rolling }).rgn 2).pstate = .rolling ∧ ((s.setRgn 2 { pstate := .rolling }).fabricOff 0 = false)
        ∧ (s.rgn 3).pstate = .off)
      ∧ (∀ e ∈ (g.fabric 0).waiting ++ (g.fabric 0).flight, ∀ x ∈ e.2, x.req.master ≠ 65) := by decide +kernel

/-- Triggers and ChannelCommandsAndTransfers: a source that the channel may read, the reads outstanding behind the oldest one, a beat that
no presented write hinders, a read of host memory, a write whose words lie in a region, a completion that triggers another channel. -/
theorem wit_channels_later :
    let c (d : Dma) := (coreAt {}).setChan 95 d
    let r (t : Nat) : DmaRead := { t := t, addr := Int.ofNat (0x810000 + t), cnt := 8, writes := 0 }
    let d : Dma := { state := .running, act := { src := 0x810080, dst := 0x812000, count := 0x80, rows := 1 }, rlen := 0x100, src0 := 0x810000
                     dst0 := 0x812000, rows0 := 1, readT := 128, rq := (List.range 16).map (fun i => r (8 * i)) }
    let h : Dma := { d with act := { src := 0x80, dst := 0x812000, count := 0x80, rows := 1, ctl := 0x2000 } }
    (∀ i, i < 8 → reaches (.dma 95) ((c d).dmaLoc ((0x810000 : Int) + (i : Nat))) false = true)
      ∧ (((c d).chan 95).rq = r 0 :: (List.range 15).map (fun i => r (8 * i + 8)) ∧ ((c d).chan 95).writeBeats < 15
        ∧ (∀ q ∈ ((c d).chan 95).wq, (c d).meet d (r 0) q = false) ∧ (r 0).addr = Int.ofNat 0x810000 ∧ d.act.rows ≠ 0 ∧ d.act.count ≠ 0
        ∧ (List.range 15).length = 15 ∧ (∀ i, i < 8 → reaches (.dma 95) ((c d).dmaLoc (d.srcAt d.readT + (i : Nat))) false = true))
      ∧ (((c h).chan 95).act.skind = 2 ∧ HostCpl.poisoned ≠ .good ∧ ((c h).chan 95).rq ≠ [] ∧ ((c h).chan 95).fail = none)
      ∧ (∀ i, i < 8 → (c d).locOf (0x812000 + i) = .region 1 (0x12000 + i))
      ∧ ¬ (d.trig.toNat / 2 ^ 18 = 2 ∧ d.trig.toNat % 2 ^ 7 = 95) := by decide +kernel

/-- FrameReception, LinkOperation, LinkRegisters, PtpClock: frames with their CRC, a flow entry that accepts a frame, an express frame
behind another on a port with verified preemption, a core with no store to perform, and a second that has turned. -/
theorem wit_links_later :
    let g (type : Nat) : BosumFrame := (mkFrame type false 0 1 0 3 4 5 []).seal
    let x : Port := { ethPort with ctl := 0x89000, pver := true, txq := [(0, .eth false 4 false 0 []), (0, .eth true 0 false 0 [])] }
    let s : State := { State.reset with lnk := { flow := [(3 * 0x11, 7), (3 * 0x11 + 1, 0x80C60)] } }
    (∀ t ∈ [0, 1, 2, 3, 4], (g t).crcOk = true ∧ (g t).legal = true) ∧ ({ g 0 with crc := (g 0).crc + 1 } : BosumFrame).crcOk = false
      ∧ (let w := SMap.get 0 s.lnk.flow (3 * 0x11 + 1)
        w.getLsbD 19 = true ∧ w.toNat / 2 ^ (11 + 0) % 2 = 1 ∧ w.getLsbD 10 = true)
      ∧ (x.preempting = true ∧ x.en = true ∧ x.bosum = false ∧ x.up.toNat / 2 ^ 0 % 2 = 1
        ∧ x.txq = [(0, .eth false 4 false 0 [])] ++ (0, .eth true 0 false 0 []) :: []
        ∧ ∀ e ∈ [((0 : Nat), TxFrame.eth false 4 false 0 [])], e.1 = 0 → e.2.express = false)
      ∧ ((coreAt {}).core 3).sbuf = []
      ∧ ({ ppsen := true, turned := true, time := 0x100000000 } : Ptp).time.toNat / 2 ^ 32 ≠ (0 : BitVec 80).toNat / 2 ^ 32 := by decide +kernel

/-- HostAccessesAndEvents: a register of a die whose fabric is on, the first and last words of the table and of the pending bits, and a
configuration space whose link is up. -/
theorem wit_host_later :
    let s : State := { coreAt {} with host := { lup := true, msixEn := true, pba := 1, msix := [(0, 3)] } }
    (s.regsOff 0x100005 = false ∧ s.regMapped .host 0x90000 = true ∧ s.regsOff 0x90000 = false)
      ∧ (0x3FC % 4 = 0 ∧ 0x3FC < 0x400 ∧ 0x3F8 % 16 < 12 ∧ (0x2004 : Nat) = 0x2004)
      ∧ (s.host.pba.getLsbD 0 = true ∧ s.host.lup = true ∧ s.host.d3 = false ∧ s.up = true)
      ∧ (let d : Dma := { state := .running, act := { ctl := 0x2000 } }
        d.act.skind = 2 ∧ d.fail = none) := by decide +kernel

/-- DeviceResets, RegisterWritesAndBitErrors, MonitorSessionsAndCommands: a link whose training is
turned off with HRST at 1, registers whose die's fabric is off, a host's access to an unmapped address, a re-plan of a region that does not
ramp. -/
theorem wit_blocks_later :
    let s : State := { coreAt {} with host := { lup := true, lten := true, hrst := true } }
    (s.up = true ∧ s.host.lup = true ∧ s.host.lten = true ∧ s.host.hrst = true ∧ s.host.fell = false
        ∧ ∀ n, n < 96 → (s.chan n).wq = [] ∧ (s.core n).groups = [] ∧ (s.core n).sbuf = [])
      ∧ (({ coreAt {} with pwr := { dev := .standby } } : State).regsOff (0x100102 + 47 * 0x1000) = true ∧ (coreAt {}).locOf 0x7F0000 = .none ∧ (coreAt {}).regMapped .host 0x200003 = false ∧ (coreAt {}).locOf 0x30200003 = .regs 0x200003)
      ∧ (((coreAt {}).rgn 1).vnow ≤ 100 ∧ ((coreAt {}).rgn 1).vnow = ((coreAt {}).rgn 1).vf.toNat / 2 ^ 5 % 2 ^ 8
        ∧ ((coreAt {}).setRgn 1 { vnow := 36 }).regionOn 1 = true) := by decide +kernel

/-- IdlePip, StepKeepsCanonical: a device whose keeper firmware runs, before and at the hour, a measured region, and a GX-4816. -/
theorem wit_pip_later :
    let k : Keeper := { restored := true }
    let s (now : BitVec 60) : State := { coreAt {} with dev := { stage := .firmware }, keeper := k, pip := { now := now } }
    (∀ n, (s n).dev.stage = .firmware ∧ (s n).host.fell = false ∧ (s n).int.ldgOp = none ∧ k.low = [] ∧ k.plans = [] ∧ k.due = false)
      ∧ ((s 0).up = true ∧ (s 0).powered = true ∧ ((3774873599 : BitVec 60) + 1).toNat = k.lastRecord + 3600 * 2 ^ 20)
      ∧ (({ tempOk := true, temp := 1000 } : Region).tempOk = true)
      ∧ (let d : Dev := { gx4816 := true, disabled := [0, 1, 2, 12, 13, 14, 24, 36] }
        d.disabled.Nodup ∧ d.disabled.length = 8 ∧ (∀ n ∈ d.disabled, n < 48)
          ∧ ∀ e, e < 4 → (d.disabled.filter (fun n => dieOf n == e)).length ≤ 3) := by
  refine ⟨fun n => ⟨rfl, rfl, rfl, rfl, rfl, rfl⟩, ?_, ?_, ?_⟩ <;> decide +kernel

/-! ## A ledger with two records, 31 apart (R361 to R363) -/

/-- One bit of the CRC on a number. -/
def bitN (c : Nat) : Nat := (c / 2) ^^^ (c % 2 * 0xEDB88320)
/-- One byte of the CRC on a number. -/
def byteN (c b : Nat) : Nat := bitN (bitN (bitN (bitN (bitN (bitN (bitN (bitN (c ^^^ b))))))))
/-- The CRC of cells on numbers, each of which is forced. -/
def crcN : List (BitVec 16) → Nat → Nat
  | [], c => c
  | x :: l, c => if Nat.ble c 0xFFFFFFFF then crcN l (byteN (byteN c (x.toNat % 256)) (x.toNat / 256 % 256)) else 0
theorem bitN_eq (c : BitVec 32) : (crcBit c).toNat = bitN c.toNat := by
  unfold crcBit bitN bit
  have h : c.getLsbD 0 = decide (c.toNat % 2 = 1) := by simp [BitVec.getLsbD, Nat.testBit_zero]
  rw [h]
  rcases Nat.mod_two_eq_zero_or_one c.toNat with g | g <;> simp [g, BitVec.toNat_ushiftRight, Nat.shiftRight_eq_div_pow]
theorem byteN_eq (c : BitVec 32) (b : Byte) : (crcByte c b).toNat = byteN c.toNat b.toNat := by
  unfold crcByte byteN
  simp only [bitN_eq, BitVec.toNat_xor, BitVec.toNat_setWidth, BitVec.zeroExtend]
  rw [Nat.mod_eq_of_lt (a := b.toNat) (by omega)]
theorem crcN_eq (l : List (BitVec 16)) : ∀ c : BitVec 32, ((cellBytes l).foldl crcByte c).toNat = crcN l c.toNat := by
  induction l with
  | nil => intro c; rfl
  | cons x l ih =>
    intro c
    have g : Nat.ble c.toNat 0xFFFFFFFF = true := Nat.ble_eq_true_of_le (by omega)
    rw [cellBytes, List.flatMap_cons, List.foldl_append, ← cellBytes, ih, crcN, if_pos g]
    congr 1
    simp only [leBytes, List.foldl_cons, List.foldl_nil, byteN_eq, BitVec.toNat_ofNat, Nat.reducePow]
theorem crc32_cells (l : List (BitVec 16)) : (crc32 (cellBytes l)).toNat = 2 ^ 32 - 1 - crcN l 0xFFFFFFFF := by
  rw [crc32, BitVec.toNat_not, crcN_eq]; rfl
/-- SEQ 0 in slot 0 and SEQ 31 in slot 31, with region 0's equivalent time 0 in the first. -/
def ledger31 : IntBlk :=
  { ledger := [(1, 0), (2, 0), (10, 0), (11, 0), (12, 0), (1022, 0xEAED), (1023, 0x0251), (31745, 31), (31746, 0), (32766, 0x1A3F), (32767, 0x34B9)] }
theorem ledger31_first : ledger31.slotOk 0 = true := by
  rw [IntBlk.slotOk, crc32_cells]; decide +kernel
theorem ledger31_last : ledger31.slotOk 31 = true := by
  rw [IntBlk.slotOk, crc32_cells]; decide +kernel
/-- An erased slot holds no record. -/
theorem erased_slot (i : IntBlk) (x : Nat) (cell : ∀ j, j < 1024 → i.cell (1024 * x + j) = 0xFFFF) : i.slotOk x = false := by
  have cells (a n : Nat) (hn : a + n ≤ 1024) : i.cells x a n = List.replicate n 0xFFFF := by
    unfold IntBlk.cells
    rw [List.eq_replicate_iff]
    refine ⟨by simp, fun c hc => ?_⟩
    obtain ⟨j, hj, rfl⟩ := List.mem_map.mp hc
    have := List.mem_range.mp hj
    rw [Nat.add_assoc]
    exact cell _ (by omega)
  rw [IntBlk.slotOk, cells 0 1022 (by omega), cells 1022 2 (by omega), crc32_cells]
  decide +kernel
theorem ledger31_erased (x : Nat) (h : 0 < x) (g : x < 31) : ledger31.slotOk x = false := by
  refine erased_slot _ _ fun j hj => ?_
  unfold IntBlk.cell ledger31
  simp only [SMap.get]
  repeat rw [if_neg (by omega)]
theorem ledger31_valid : ledger31.valid = some 31 := by
  have ok : (List.range 32).filter ledger31.slotOk = [0, 31] := by
    rw [List.filter_congr (q := fun x => x == 0 || x == 31)]
    · decide
    · intro x hx
      have := List.mem_range.mp hx
      by_cases h : x = 0
      · subst h; exact ledger31_first
      · by_cases g : x = 31
        · subst g; exact ledger31_last
        · rw [ledger31_erased x (by omega) (by omega)]; simp [h, g]
  rw [IntBlk.valid, ok]
  decide +kernel

/-- LedgerOperations: an erased ledger, and a record that is being written. -/
theorem wit_ledger_later :
    ({} : IntBlk).valid = none ∧ ({ ldgOp := some (.record 33 [1, 2]) } : IntBlk).ldgOp = some (.record 33 [1, 2]) := by
  refine ⟨?_, rfl⟩
  rw [IntBlk.valid, List.filter_eq_nil_iff.mpr]
  · rfl
  · intro x _
    have z : ({} : IntBlk).slotOk x = false := erased_slot {} x (fun j _ => rfl)
    simp only [z]
    exact Bool.false_ne_true
/-- A region one of whose monitors reads v. -/
def monitored (v : Word) : Region := { eqt := 5, cp := [(0, v)] }
theorem monitored_delay (v : Word) : (monitored v).delay = bits v 15 0 := by
  have z : bits (0#20) 15 0 = 0 := by decide
  simp [Region.delay, monitored, SMap.get, List.range, List.range.loop]
  omega
/-- LedgerOperations: the growth over 32 records, with a delay between the nominal one and the ceiling on a part whose nominal delay is
below it; a delay that is not above the nominal one; and the records that there are. -/
theorem wit_life (h : 16 * (Config.ageD0 0).toNat + 16 ≤ 64 * 460) :
    let d (r : Region) : Int := 16 * r.delay + (Config.ageSens 0).toNat * ((r.vf.toNat / 2 ^ 5 % 2 ^ 8 : Nat) - 40) - 16 * (Config.ageD0 0).toNat
    let r := monitored (BitVec.ofNat 20 ((Config.ageD0 0).toNat + 1))
    let dC : Int := 64 * 460 + (Config.ageSens 0).toNat * 60 - 16 * (Config.ageD0 0).toNat
    0 < d r ∧ d r ≤ dC ∧ d { vf := 0 } ≤ 0 ∧ ledger31.valid = some 31
      ∧ State.growth { coreAt {} with regions := [(0, r)], int := ledger31 } 0 = some 5 := by
  intro d r dC
  have a : r.delay = (Config.ageD0 0).toNat + 1 := by
    rw [monitored_delay, bits, BitVec.toNat_ofNat]
    omega
  have b : r.vf.toNat / 2 ^ 5 % 2 ^ 8 = 40 := by decide +kernel
  have c : Region.delay { vf := 0 } = 0 := by decide +kernel
  refine ⟨?_, ?_, ?_, ledger31_valid, ?_⟩
  · simp only [d, a, b]; push_cast; omega
  · simp only [d, dC, a, b]; push_cast; omega
  · simp only [d, c]; simp; omega
  · have e : ledger31.nextSeq = 32 := by rw [IntBlk.nextSeq, ledger31_valid]; decide +kernel
    unfold State.growth
    simp only [e, Nat.mod_self]
    rw [if_pos ⟨Nat.le_refl _, ledger31_first, by decide +kernel⟩]
    decide +kernel

end Sys2Proof.Tests
end

section
/-! ## The canonical form and the grade along a run (R1, R2, R17, R21) -/

namespace Sys2Proof.Machine

open Sys2Proof.Safety

/-! ### Every command, by its own law of Laws/HeldExec -/

/-- Whatever the command, what v gives stands, but for the life-cycle fuses. -/
theorem exec_kept {v : Fixed} {s : State} (i : Instr) (h : Held v s) : OutKept v (exec i s) :=
  match i with
  -- integer
  | .add .. => (execAdd_held _ _ _ _ h).kept
  | .sub .. => (execSub_held _ _ _ _ h).kept
  | .adc .. => (execAdc_held _ _ _ _ h).kept
  | .sbc .. => (execSbc_held _ _ _ _ h).kept
  | .and .. => (execAnd_held _ _ _ _ h).kept
  | .or .. => (execOr_held _ _ _ _ h).kept
  | .xor .. => (execXor_held _ _ _ _ h).kept
  | .mul .. => (execMul_held _ _ _ _ h).kept
  | .mulw .. => (execMulw_held _ _ _ _ h).kept
  | .shl .. => (execShl_held _ _ _ _ h).kept
  | .shr .. => (execShr_held _ _ _ _ h).kept
  | .sha .. => (execSha_held _ _ _ _ h).kept
  | .lw .. => (execLw_held _ _ _ h).kept
  | .sw .. => (execSw_held _ _ _ h).kept
  | .ld .. => (execLd_held _ _ _ h).kept
  | .sd .. => (execSd_held _ _ _ h).kept
  | .addi .. => (execAddi_held _ _ _ _ h).kept
  | .subi .. => (execSubi_held _ _ _ _ h).kept
  | .andi .. => (execAndi_held _ _ _ _ h).kept
  | .ori .. => (execOri_held _ _ _ _ h).kept
  | .xori .. => (execXori_held _ _ _ _ h).kept
  | .movi .. => (execMovi_held _ _ _ h).kept
  | .adds .. => (execAdds_held _ _ _ _ _ h).kept
  | .subs .. => (execSubs_held _ _ _ _ _ h).kept
  | .neg .. => (execNeg_held _ _ _ _ h).kept
  | .abs .. => (execAbs_held _ _ _ _ h).kept
  | .shls .. => (execShls_held _ _ _ _ _ h).kept
  | .shli .. => (execShli_held _ _ _ _ h).kept
  | .shri .. => (execShri_held _ _ _ _ h).kept
  | .shai .. => (execShai_held _ _ _ _ h).kept
  | .shlsi .. => (execShlsi_held _ _ _ _ _ h).kept
  | .shar .. => (execShar_held _ _ _ _ _ h).kept
  | .mulu .. => (execMulu_held _ _ _ _ _ h).kept
  | .mulq .. => (execMulq_held _ _ _ _ _ h).kept
  | .mulwu .. => (execMulwu_held _ _ _ _ h).kept
  | .mstart .. => (execMstart_held _ _ _ h).kept
  | .mstartProductWrite .. => (execMstartProductWrite_held _ h).kept
  | .div .. => (execDiv_held _ _ _ _ _ h).kept
  | .divu .. => (execDivu_held _ _ _ _ h).kept
  | .divq .. => (execDivq_held _ _ _ _ _ h).kept
  | .divw .. => (execDivw_held _ _ _ _ _ h).kept
  | .divwu .. => (execDivwu_held _ _ _ _ _ h).kept
  | .divisionComplete .. => (execDivisionComplete_held _ h).kept
  | .min .. => (execMin_held _ _ _ _ h).kept
  | .max .. => (execMax_held _ _ _ _ h).kept
  | .minu .. => (execMinu_held _ _ _ _ h).kept
  | .maxu .. => (execMaxu_held _ _ _ _ h).kept
  -- memory
  | .lq .. => (execLq_held _ _ _ h).kept
  | .sq .. => (execSq_held _ _ _ h).kept
  | .la .. => (execLa_held _ _ _ h).kept
  | .sa .. => (execSa_held _ _ _ h).kept
  | .lf .. => (execLf_held _ _ _ h).kept
  | .sf .. => (execSf_held _ _ _ h).kept
  | .lfw .. => (execLfw_held _ _ _ h).kept
  | .sfw .. => (execSfw_held _ _ _ h).kept
  | .lwx .. => (execLwx_held _ _ _ h).kept
  | .swx .. => (execSwx_held _ _ _ _ h).kept
  | .vld .. => (execVld_held _ _ _ h).kept
  | .vst .. => (execVst_held _ _ _ h).kept
  | .vld2 .. => (execVld2_held _ _ _ h).kept
  | .vld3 .. => (execVld3_held _ _ _ h).kept
  | .vld4 .. => (execVld4_held _ _ _ h).kept
  | .vgath .. => (execVgath_held _ _ _ _ h).kept
  | .vscat .. => (execVscat_held _ _ _ _ h).kept
  | .xadd .. => (execXadd_held _ _ _ _ h).kept
  -- address registers
  | .adda .. => (execAdda_held _ _ _ _ h).kept
  | .addai .. => (execAddai_held _ _ _ _ h).kept
  | .lal .. => (execLal_held _ _ _ h).kept
  | .lah .. => (execLah_held _ _ _ h).kept
  | .mtal .. => (execMtal_held _ _ _ h).kept
  | .mtah .. => (execMtah_held _ _ _ h).kept
  | .mfal .. => (execMfal_held _ _ _ h).kept
  | .mfah .. => (execMfah_held _ _ _ h).kept
  | .mtam .. => (execMtam_held _ _ _ h).kept
  | .mfam .. => (execMfam_held _ _ _ h).kept
  | .upda .. => (execUpda_held _ _ _ h).kept
  | .mova .. => (execMova_held _ _ _ h).kept
  -- branches, jumps, loops
  | .beq .. => (execBeq_held _ _ _ _ h).kept
  | .bne .. => (execBne_held _ _ _ _ h).kept
  | .blt .. => (execBlt_held _ _ _ _ h).kept
  | .bge .. => (execBge_held _ _ _ _ h).kept
  | .bltu .. => (execBltu_held _ _ _ _ h).kept
  | .bgeu .. => (execBgeu_held _ _ _ _ h).kept
  | .bcs .. => (execBcs_held _ _ h).kept
  | .bcc .. => (execBcc_held _ _ h).kept
  | .bmi .. => (execBmi_held _ _ h).kept
  | .bpl .. => (execBpl_held _ _ h).kept
  | .bzs .. => (execBzs_held _ _ h).kept
  | .bzc .. => (execBzc_held _ _ h).kept
  | .b .. => (execB_held _ _ h).kept
  | .j .. => (execJ_held _ _ h).kept
  | .jal .. => (execJal_held _ _ h).kept
  | .dbnz .. => (execDbnz_held _ _ _ h).kept
  | .repi .. => (execRepi_held _ _ h).kept
  | .rep .. => (execRep_held _ _ h).kept
  -- system
  | .nop .. => (execNop_held _ h).kept
  | .sync .. => (execSync_held _ h).kept
  | .isync .. => (execIsync_held _ h).kept
  | .ret .. => (execRet_held _ h).kept
  | .jr .. => (execJr_held _ _ h).kept
  | .jalr .. => (execJalr_held _ _ h).kept
  | .mfc .. => (execMfc_held _ _ _ h).kept
  | .mtc .. => (execMtc_held _ _ _ h).kept
  | .vfcDiscard .. => (execVfcDiscard_held _ _ h).kept
  | .vprogWrite .. => (execVprogWrite_held _ _ h).kept
  | .signal .. => (execSignal_held _ _ h).kept
  | .gate .. => (execGate_held _ _ h).kept
  | .bkpt k code => (execBkpt_held k code h).kept
  | .rfe .. => (execRfe_held _ h).kept
  | .rfg .. => (execRfg_held _ h).kept
  | .wait .. => (execWait_held _ _ _ _ h).kept
  -- scalar floating point
  | .fadd .. => (execFadd_held _ _ _ _ _ h).kept
  | .fsub .. => (execFsub_held _ _ _ _ _ h).kept
  | .fmul .. => (execFmul_held _ _ _ _ _ h).kept
  | .fdiv .. => (execFdiv_held _ _ _ _ _ h).kept
  | .fsqrt .. => (execFsqrt_held _ _ _ _ h).kept
  | .fmin .. => (execFmin_held _ _ _ _ _ h).kept
  | .fmax .. => (execFmax_held _ _ _ _ _ h).kept
  | .fabs .. => (execFabs_held _ _ _ _ h).kept
  | .fneg .. => (execFneg_held _ _ _ _ h).kept
  | .fmov .. => (execFmov_held _ _ _ _ h).kept
  | .fcmp .. => (execFcmp_held _ _ _ _ _ _ h).kept
  | .fcvt .. => (execFcvt_held _ _ _ _ h).kept
  | .ftow .. => (execFtow_held _ _ _ _ _ _ h).kept
  | .ffrw .. => (execFfrw_held _ _ _ _ _ h).kept
  | .fmfw .. => (execFmfw_held _ _ _ _ h).kept
  | .fmtw .. => (execFmtw_held _ _ _ _ h).kept
  -- short vector
  | .sadd .. => (execSadd_held _ _ _ _ _ _ h).kept
  | .ssub .. => (execSsub_held _ _ _ _ _ _ h).kept
  | .sand .. => (execSand_held _ _ _ _ _ h).kept
  | .sor .. => (execSor_held _ _ _ _ _ h).kept
  | .sxor .. => (execSxor_held _ _ _ _ _ h).kept
  | .sshl .. => (execSshl_held _ _ _ _ _ h).kept
  | .sshr .. => (execSshr_held _ _ _ _ _ h).kept
  | .ssha .. => (execSsha_held _ _ _ _ _ h).kept
  | .sshls .. => (execSshls_held _ _ _ _ _ _ h).kept
  | .scmp .. => (execScmp_held _ _ _ _ _ _ h).kept
  | .ssel .. => (execSsel_held _ _ _ _ _ _ h).kept
  | .smin .. => (execSmin_held _ _ _ _ _ h).kept
  | .smax .. => (execSmax_held _ _ _ _ _ h).kept
  | .sabs .. => (execSabs_held _ _ _ _ _ h).kept
  | .sneg .. => (execSneg_held _ _ _ _ _ h).kept
  | .ssrs .. => (execSsrs_held _ _ _ _ _ _ _ h).kept
  | .ssrsp .. => (execSsrsp_held _ _ _ _ _ _ h).kept
  | .smulq .. => (execSmulq_held _ _ _ _ _ _ h).kept
  | .smulwL .. => (execSmulwL_held _ _ _ _ _ h).kept
  | .smulwH .. => (execSmulwH_held _ _ _ _ _ h).kept
  | .sdot .. => (execSdot_held _ _ _ _ _ h).kept
  | .sdota .. => (execSdota_held _ _ _ _ _ _ h).kept
  | .sfadd .. => (execSfadd_held _ _ _ _ _ h).kept
  | .sfsub .. => (execSfsub_held _ _ _ _ _ h).kept
  | .sfmul .. => (execSfmul_held _ _ _ _ _ h).kept
  | .scvt .. => (execScvt_held _ _ _ _ _ _ _ h).kept
  | .sspl .. => (execSspl_held _ _ _ _ h).kept
  | .smtl .. => (execSmtl_held _ _ _ _ h).kept
  | .smfl .. => (execSmfl_held _ _ _ _ h).kept
  | .smov .. => (execSmov_held _ _ _ h).kept
  -- chain groups
  | .chain .. => (execChain_held _ _ _ _ h).kept
  | .vbar .. => (execVbar_held _ h).kept
  | .vbarCompletion .. => (execVbarCompletion_held _ h).kept
  | .mtt .. => (execMtt_held _ _ _ _ h).kept
  | .mft .. => (execMft_held _ _ _ _ h).kept
  | .mtac .. => (execMtac_held _ _ _ _ _ h).kept
  | .mfac .. => (execMfac_held _ _ _ _ _ h).kept
  | .queuedGroupStart .. => (execQueuedGroupStart_held _ h).kept
  | .groupStep .. => (execGroupStep_held _ h).kept
  | .elementCommit .. => (execElementCommit_held _ h).kept
  | .groupRetire .. => (execGroupRetire_held _ h).kept
  | .groupFault .. => (execGroupFault_held _ h).kept
  | .groupPreemptStop .. => (execGroupPreemptStop_held _ h).kept
  -- core events
  | .loadDataReturn .. => (execLoadDataReturn_held _ h).kept
  | .storePerformed .. => (execStorePerformed_held _ h).kept
  | .fetchRefillReturn .. => (execFetchRefillReturn_held _ _ h).kept
  | .interruptTaken .. => (execInterruptTaken_held _ h).kept
  | .clIpost .. => (execClIpost_held _ _ _ h).kept
  | .clMflt .. => (execClMflt_held _ _ _ h).kept
  | .watchdogWarning .. => (execWatchdogWarning_held _ h).kept
  | .watchdogExpiry .. => (execWatchdogExpiry_held _ h).kept
  | .wdogCntWrite .. => (execWdogCntWrite_held _ _ h).kept
  -- contexts and scheduler
  | .alloc .. => (execAlloc_held _ h).kept
  | .activate .. => (execActivate_held _ h).kept
  | .suspend .. => (execSuspend_held _ h).kept
  | .wake .. => (execWake_held _ h).kept
  | .resumeContext .. => (execResumeContext_held _ h).kept
  | .release .. => (execRelease_held _ h).kept
  | .ctxCmdBadop .. => (execCtxCmdBadop_held _ _ h).kept
  | .ctxCmdCompletion .. => (execCtxCmdCompletion_held _ h).kept
  | .deadlineReached .. => (execDeadlineReached_held _ h).kept
  | .bindDecision .. => (execBindDecision_held _ h).kept
  | .sliceExpiry .. => (execSliceExpiry_held _ h).kept
  | .victimBoundary .. => (execVictimBoundary_held _ h).kept
  | .restoreComplete .. => (execRestoreComplete_held _ h).kept
  | .saveComplete .. => (execSaveComplete_held _ h).kept
  | .queueRebuild => (execQueueRebuild_held h).kept
  | .inboxDelivery => (execInboxDelivery_held h).kept
  -- region board
  | .boardAccessGrant .. => (execBoardAccessGrant_held _ _ h).kept
  | .scrubRowDue .. => (execScrubRowDue_held _ h).kept
  | .scrubTurn .. => (execScrubTurn_held _ h).kept
  | .storeScrubWord .. => (execStoreScrubWord_held _ h).kept
  | .castleGo .. => (execCastleGo_held _ _ _ h).kept
  | .castleCopyRow .. => (execCastleCopyRow_held _ h).kept
  | .castleSwitchover .. => (execCastleSwitchover_held _ h).kept
  | .rgnPreqNap .. => (execRgnPreqNap_held _ _ _ h).kept
  | .rgnPreqOff .. => (execRgnPreqOff_held _ _ _ h).kept
  | .rgnPreqAutomatic .. => (execRgnPreqAutomatic_held _ _ _ h).kept
  | .vacate .. => (execVacate_held _ _ _ h).kept
  | .hold .. => (execHold_held _ _ _ h).kept
  | .requestedStateEntry .. => (execRequestedStateEntry_held _ h).kept
  | .regionIdleEntry .. => (execRegionIdleEntry_held _ h).kept
  | .regionNapEntry .. => (execRegionNapEntry_held _ h).kept
  | .regionLogicUp .. => (execRegionLogicUp_held _ h).kept
  | .zeroFillDone .. => (execZeroFillDone_held _ h).kept
  | .rgnVf .. => (execRgnVf_held _ _ _ h).kept
  | .voltageRampStep .. => (execVoltageRampStep_held _ h).kept
  | .rgnTurns .. => (execRgnTurns_held _ _ _ h).kept
  | .rgnEccFlip .. => (execRgnEccFlip_held _ _ _ h).kept
  -- fabric, DMA, HBM
  | .fabricPieceGrant .. => (execFabricPieceGrant_held _ _ _ h).kept
  | .fabricPortClockStop .. => (execFabricPortClockStop_held _ _ h).kept
  | .dmaStart .. => (execDmaStart_held _ _ h).kept
  | .dmaStop .. => (execDmaStop_held _ _ h).kept
  | .dmaClear .. => (execDmaClear_held _ _ h).kept
  | .dmaKill .. => (execDmaKill_held _ _ h).kept
  | .dmaShadowWrite .. => (execDmaShadowWrite_held _ _ _ _ h).kept
  | .dmaReadReturn .. => (execDmaReadReturn_held _ _ _ h).kept
  | .dmaWriteResponse .. => (execDmaWriteResponse_held _ h).kept
  | .dmaCompletion .. => (execDmaCompletion_held _ h).kept
  | .dmaHalt .. => (execDmaHalt_held _ h).kept
  | .hbmRead .. => (execHbmRead_held _ _ _ h).kept
  | .hbmWholeBlockWrite .. => (execHbmWholeBlockWrite_held _ _ _ h).kept
  | .hbmReadModifyWrite .. => (execHbmReadModifyWrite_held _ _ _ h).kept
  | .hbmScrubBlock .. => (execHbmScrubBlock_held _ h).kept
  -- links
  | .lnkPnCtl .. => (execLnkPnCtl_held _ _ _ h).kept
  | .ethernetFrameReceive .. => (execEthernetFrameReceive_held _ _ _ h).kept
  | .bosumMsgReceive .. => (execBosumMsgReceive_held _ _ h).kept
  | .bosumSigReceive .. => (execBosumSigReceive_held _ _ h).kept
  | .bosumCtrlReceive .. => (execBosumCtrlReceive_held _ _ h).kept
  | .bosumNakReceive .. => (execBosumNakReceive_held _ _ h).kept
  | .bosumInitReceive .. => (execBosumInitReceive_held _ _ h).kept
  | .replayTimeout .. => (execReplayTimeout_held _ h).kept
  | .ctrlFrameSend .. => (execCtrlFrameSend_held _ h).kept
  | .initFrameSend .. => (execInitFrameSend_held _ h).kept
  | .pcsBlockLockLoss .. => (execPcsBlockLockLoss_held _ _ h).kept
  | .frameTransmit .. => (execFrameTransmit_held _ _ h).kept
  | .lnkTxsig .. => (execLnkTxsig_held _ _ h).kept
  | .lnkFtIdx .. => (execLnkFtIdx_held _ _ h).kept
  | .lnkFtCmdWr .. => (execLnkFtCmdWr_held _ h).kept
  -- time
  | .ptpTodRead .. => (execPtpTodRead_held _ h).kept
  | .ptpSet .. => (execPtpSet_held _ _ h).kept
  | .ptpAdj .. => (execPtpAdj_held _ _ h).kept
  | .ptpCtlCap .. => (execPtpCtlCap_held _ _ h).kept
  | .tmrNextWrite .. => (execTmrNextWrite_held _ _ _ h).kept
  | .timerEvent .. => (execTimerEvent_held _ h).kept
  | .ppsInEdge => (execPpsInEdge_held h).kept
  | .ppsOutRise => (execPpsOutRise_held h).kept
  | .ppsOutFall => (execPpsOutFall_held h).kept
  | .syncerrUpdate => (execSyncerrUpdate_held h).kept
  | .pipNowRead .. => (execPipNowRead_held _ h).kept
  -- host
  | .hostBarRead .. => (execHostBarRead_held _ _ _ h).kept
  | .hostBarWrite .. => (execHostBarWrite_held _ _ _ h).kept
  | .hostKpost .. => (execHostKpost_held _ _ h).kept
  | .mailboxPost .. => (execMailboxPost_held _ _ h).kept
  | .mailboxRelease .. => (execMailboxRelease_held _ h).kept
  | .hostDmaTimeout .. => (execHostDmaTimeout_held _ h).kept
  | .functionLevelReset => (execFunctionLevelReset_held h).kept
  | .pcieHotReset => (execPcieHotReset_held h).kept
  | .pcieLinkDown => (execPcieLinkDown_held h).kept
  | .pcieLinkUp .. => (execPcieLinkUp_held _ _ h).kept
  -- integrity, ageing
  | .intLdgDataRead .. => (execIntLdgDataRead_held _ h).kept
  | .intLdgDataWrite .. => (execIntLdgDataWrite_held _ _ h).kept
  | .intLdgCtlErase .. => (execIntLdgCtlErase_held _ h).kept
  | .ledgerProgramDone => (execLedgerProgramDone_held h).kept
  | .ledgerEraseDone => (execLedgerEraseDone_held h).kept
  | .marginMeasurement .. => (execMarginMeasurement_held _ _ _ h).kept
  | .thermalThrottleStep .. => (execThermalThrottleStep_held _ _ h).kept
  -- power input
  | .powerCapLower .. => (execPowerCapLower_held _ h).kept
  | .powerCapRestore .. => (execPowerCapRestore_held _ h).kept
  | .inputCurrentClamp .. => (execInputCurrentClamp_held _ h).kept
  | .vinOutOfRange .. => execVinOutOfRange_kept _ h
  | .vinWarning .. => (execVinWarning_held _ h).kept
  | .inputPowerArrival .. => (execInputPowerArrival_held _ h).kept
  | .thermtrip .. => execThermtrip_kept _ h
  -- rolls
  | .rollRegion .. => (execRollRegion_held _ _ h).kept
  | .rollCluster .. => (execRollCluster_held _ _ h).kept
  | .rollIoDie .. => (execRollIoDie_held _ h).kept
  | .rollEnd .. => (execRollEnd_held _ _ h).kept
  -- device power and resets
  | .enterStandby .. => (execEnterStandby_held _ h).kept
  | .standbyEntry => (execStandbyEntry_held h).kept
  | .returnToActive .. => (execReturnToActive_held _ h).kept
  | .activeReached => (execActiveReached_held h).kept
  | .porstNAssert => execPorstNAssert_kept h
  | .porstNRelease .. => (execPorstNRelease_held _ _ h).kept
  | .wrstNAssert => (execWrstNAssert_held h).kept
  | .uartWakeByte .. => execUartWakeByte_kept _ h
  | .fusesSensed => (execFusesSensed_held h).kept
  | .hubPllLock => (execHubPllLock_held h).kept
  | .ioDieRollDone .. => (execIoDieRollDone_held _ h).kept
  | .contextStoreCleared => (execContextStoreCleared_held h).kept
  | .hbmFillDone => (execHbmFillDone_held h).kept
  | .imageVerified .. => (execImageVerified_held _ _ h).kept
  | .lifeCycleProgramDone => execLifeCycleProgramDone_kept h
  -- monitor
  | .ident .. => (execIdent_held _ h).kept
  | .status .. => (execStatus_held _ h).kept
  | .authStart .. => (execAuthStart_held _ _ _ h).kept
  | .authProve .. => (execAuthProve_held _ _ _ h).kept
  | .authEnd .. => (execAuthEnd_held _ h).kept
  | .mread .. => (execMread_held _ _ _ h).kept
  | .mwrite .. => (execMwrite_held _ _ _ _ h).kept
  | .halt .. => (execHalt_held _ _ h).kept
  | .step .. => (execStep_held _ _ h).kept
  | .resume .. => (execResume_held _ _ h).kept
  | .cread .. => (execCread_held _ _ _ h).kept
  | .cwrite .. => (execCwrite_held _ _ _ _ h).kept
  | .replan .. => (execReplan_held _ h).kept
  | .resetWarm .. => (execResetWarm_held _ h).kept
  | .resetCold .. => execResetCold_kept _ h
  | .powerStandby .. => (execPowerStandby_held _ h).kept
  | .powerActive .. => (execPowerActive_held _ h).kept
  | .powerOff .. => execPowerOff_kept _ h
  | .enroll .. => execEnroll_kept _ _ h
  | .lcset .. => execLcset_kept _ _ h
  | .monitorFrameDiscard .. => (execMonitorFrameDiscard_held _ _ h).kept
  | .sessionTimeout .. => (execSessionTimeout_held _ h).kept
  | .authLockoutEnd .. => (execAuthLockoutEnd_held _ h).kept
  -- run control and debug master
  | .clRcHalt .. => (execClRcHalt_held _ _ h).kept
  | .clRcStep .. => (execClRcStep_held _ _ h).kept
  | .clRcResume .. => (execClRcResume_held _ _ h).kept
  | .coreHalted .. => (execCoreHalted_held _ h).kept
  | .clRcData .. => (execClRcData_held _ _ _ h).kept
  | .dbgDataRead .. => (execDbgDataRead_held _ h).kept
  | .dbgDataWrite .. => (execDbgDataWrite_held _ _ h).kept
  | .debugAccessDone => (execDebugAccessDone_held h).kept
  -- PMBus
  | .clearFaults => (execClearFaults_held h).kept
  | .capability => (execCapability_held h).kept
  | .statusWord => (execStatusWord_held h).kept
  | .statusInput => (execStatusInput_held h).kept
  | .statusTemperature => (execStatusTemperature_held h).kept
  | .readVin => (execReadVin_held h).kept
  | .readIin => (execReadIin_held h).kept
  | .readTemperature1 => (execReadTemperature1_held h).kept
  | .readTemperature2 .. => (execReadTemperature2_held _ h).kept
  | .readPin => (execReadPin_held h).kept
  | .pmbusRevision => (execPmbusRevision_held h).kept
  | .mfrId => (execMfrId_held h).kept
  | .mfrModel => (execMfrModel_held h).kept
  | .alertResponseAddress => (execAlertResponseAddress_held h).kept
  | .pmbusUnsupportedCommand code => (execPmbusUnsupportedCommand_held code h).kept
  -- others
  | .registerWrite .. => (execRegisterWrite_held _ _ _ h).kept
  | .pcsBlockLockGain .. => (execPcsBlockLockGain_held _ _ h).kept
  | .wrstNRelease => (execWrstNRelease_held h).kept
  | .internalResetHoldEnd => (execInternalResetHoldEnd_held h).kept
  | .vinInRange5Ms => (execVinInRange5Ms_held h).kept
  | .currentClampEnd .. => (execCurrentClampEnd_held _ h).kept
  | .pendingMchkTaken .. => (execPendingMchkTaken_held _ h).kept
  | .pcieConfigurationWrite .. => (execPcieConfigurationWrite_held _ _ h).kept
  | .msiXTableWrite .. => (execMsiXTableWrite_held _ _ _ h).kept
  | .storedBitError .. => (execStoredBitError_held _ h).kept
  | .illegalInstruction .. => (execIllegalInstruction_held _ h).kept
  | .fetchFault .. => (execFetchFault_held _ h).kept

theorem exec_keeps {i : Instr} {s t : State} (e : exec i s = .next t) :
    (Canonical s → Canonical t) ∧ t.pending = s.pending ∧ t.dev.disabled = s.dev.disabled ∧ t.dev.gx4816 = s.dev.gx4816 := by
  have h := exec_kept i (held_self s)
  rw [e] at h
  obtain ⟨hc, hp, -, -, hd, hg⟩ := h
  exact ⟨hc, hp, hd, hg⟩

theorem tick_keeps (s : State) :
    (Canonical s → Canonical s.tick) ∧ s.tick.dev.disabled = s.dev.disabled ∧ s.tick.dev.gx4816 = s.dev.gx4816 := by
  obtain ⟨hc, -, -, -, hd, hg⟩ := (held_self s).tick
  exact ⟨hc, hd, hg⟩

/-- The canonical form says nothing of the queue. -/
theorem canonical_setPending {s : State} (l : List Instr) (h : Canonical s) : Canonical { s with pending := l } :=
  ⟨h.mem, h.hbm, h.cores, h.regions, h.dmas, h.ports, h.timers⟩

/-- What a step keeps, whether it carries out a command or lets a pip pass. -/
theorem step_keeps {s t : State} (e : step s = .next t) :
    (Canonical s → Canonical t) ∧ t.dev.disabled = s.dev.disabled ∧ t.dev.gx4816 = s.dev.gx4816 := by
  unfold step at e
  split at e
  · cases e
    exact tick_keeps s
  · obtain ⟨hc, -, hd, hg⟩ := exec_keeps e
    exact ⟨fun h => hc (canonical_setPending _ h), hd, hg⟩

/-! ### The grade -/

theorem gradeOk_of_parts {d e : Dev} (hd : e.disabled = d.disabled) (hg : e.gx4816 = d.gx4816) (h : GradeOk d) : GradeOk e := by
  unfold GradeOk at *
  rwa [hd, hg]

/-- Of two lists without repetition, the entries of one that are not in the other. -/
theorem length_filter_not_contains {l m : List Nat} (hl : l.Nodup) (hm : m.Nodup) :
    (l.filter (fun n => !m.contains n)).length + (m.filter (fun n => l.contains n)).length = l.length := by
  have common : (l.filter (fun n => m.contains n)).Perm (m.filter (fun n => l.contains n)) := by
    refine (List.perm_ext_iff_of_nodup (hl.filter _) (hm.filter _)).mpr fun n => ?_
    simp [and_comm]
  have parts := List.length_eq_countP_add_countP (fun n => m.contains n) (l := l)
  simp only [Bool.not_eq_true, Bool.decide_eq_false, List.countP_eq_length_filter] at parts
  rw [← common.length_eq, Nat.add_comm, parts]

/-- The regions of a die. -/
def dieRegions (d : Nat) : List Nat := (List.range 12).map (fun i => 12 * d + i)

theorem mem_dieRegions (d n : Nat) : n ∈ dieRegions d ↔ dieOf n = d := by
  simp only [dieRegions, List.mem_map, List.mem_range, dieOf]
  constructor
  · rintro ⟨i, hi, rfl⟩
    omega
  · intro h
    exact ⟨n - 12 * d, by omega, by omega⟩

theorem nodup_dieRegions (d : Nat) : (dieRegions d).Nodup :=
  List.pairwise_map.mpr (List.nodup_range.imp fun ne same => ne (Nat.add_left_cancel same))

theorem length_filter_die (d : Nat) (p : Nat → Bool) :
    ((List.range 12).filter (fun i => p (12 * d + i))).length = ((dieRegions d).filter p).length := by
  rw [dieRegions, List.filter_map, List.length_map]
  rfl

theorem regionOn_of_gx4820 {s : State} (hg : s.dev.gx4816 = false) {n : Nat} (hn : n < 48) : s.regionOn n = true := by
  simp [State.regionOn, hg, hn]

theorem regionOn_of_gx4816 {s : State} (hg : s.dev.gx4816 = true) {n : Nat} (hn : n < 48) :
    s.regionOn n = !s.dev.disabled.contains n := by
  simp [State.regionOn, hg, hn]

/-- The regions that the grade leaves (R1, R2). -/
theorem gradeOk_regions {s : State} (h : GradeOk s.dev) :
    ((List.range 48).filter s.regionOn).length = (if s.dev.gx4816 then 40 else 48)
      ∧ ∀ d, d < 4 → 9 ≤ ((dieRegions d).filter s.regionOn).length := by
  have inDie {d n : Nat} (hd : d < 4) (hn : n ∈ dieRegions d) : n < 48 := by
    rw [mem_dieRegions, dieOf] at hn
    omega
  cases hg : s.dev.gx4816 with
  | false =>
    have all {l : List Nat} (hl : ∀ n ∈ l, n < 48) : l.filter s.regionOn = l :=
      List.filter_eq_self.mpr fun n hn => regionOn_of_gx4820 hg (hl n hn)
    refine ⟨by simp [all], fun d hd => ?_⟩
    rw [all fun n => inDie hd]
    simp [dieRegions]
  | true =>
    simp only [GradeOk, hg, if_true] at h
    obtain ⟨nodup, eight, bound, perDie⟩ := h
    have enabled {l : List Nat} (hl : ∀ n ∈ l, n < 48) : l.filter s.regionOn = l.filter (fun n => !s.dev.disabled.contains n) :=
      List.filter_congr fun n hn => regionOn_of_gx4816 hg (hl n hn)
    constructor
    · have count := length_filter_not_contains List.nodup_range nodup (l := List.range 48)
      have allIn : s.dev.disabled.filter (fun n => (List.range 48).contains n) = s.dev.disabled :=
        List.filter_eq_self.mpr fun n hn => by simpa using bound n hn
      rw [allIn, eight, List.length_range] at count
      rw [enabled fun n => List.mem_range.mp, if_pos rfl]
      omega
    · intro d hd
      have count := length_filter_not_contains (nodup_dieRegions d) nodup
      have few := perDie d hd
      have same : s.dev.disabled.filter (fun n => (dieRegions d).contains n) = s.dev.disabled.filter (fun n => dieOf n == d) :=
        List.filter_congr fun n _ => by rw [Bool.eq_iff_iff]; simp [mem_dieRegions]
      rw [same, show (dieRegions d).length = 12 by simp [dieRegions]] at count
      rw [enabled fun n => inDie hd]
      omega

/-- Settles O58, by the law of each command and of the pip, and by counting the regions that the fuses leave. -/
theorem stepKeepsCanonical : Obligations.StepKeepsCanonical := by
  refine ⟨fun s t h e => ?_, fun s t h e => ?_, fun s h => ?_⟩
  · exact (step_keeps e).1 h
  · obtain ⟨-, hd, hg⟩ := step_keeps e
    exact gradeOk_of_parts hd hg h
  · obtain ⟨enabled, perDie⟩ := gradeOk_regions h
    refine ⟨enabled, fun d hd => ?_⟩
    rw [length_filter_die]
    exact perDie d hd

end Sys2Proof.Machine
end

section
/-! ## Every command of units that the device has answers with a next state (R1, R4, R16)

A definition is split along its branches: each ends in a state, or in an operation of which this is said before. -/

namespace Sys2Proof.Machine

open Sys2Proof.Safety

/-- The outcome is a next state. -/
def Goes (o : Out) : Prop := ∃ t, o = .next t

@[simp] theorem goes_next (t : State) : Goes (.next t) := ⟨t, rfl⟩

@[simp] theorem goes_ite {c : Prop} [Decidable c] {a b : Out} : Goes (if c then a else b) ↔ (c → Goes a) ∧ (¬ c → Goes b) := by
  split <;> simp [*]

/-! ### What every instruction of a core shares -/

section
variable {s : State} {k : Nat}

@[simp] theorem goes_done (c : Core) : Goes (s.done k c) := goes_next _

@[simp] theorem goes_enter (x : Exc) : Goes (s.enter k x) := by
  unfold State.enter
  dsimp only
  split <;> simp

@[simp] theorem goes_loadFault (f : LoadFail) : Goes (s.loadFault k f) := goes_enter _

@[simp] theorem goes_takeExc (x : Exc) : Goes (s.takeExc k x) := by
  unfold State.takeExc
  split <;> simp

@[simp] theorem goes_fault (code : Nat) : Goes (s.fault k code) := goes_takeExc _
@[simp] theorem goes_illegal : Goes (s.illegal k) := goes_fault 1
@[simp] theorem goes_privFault : Goes (s.privFault k) := goes_fault 2
@[simp] theorem goes_gateFault (sub : Nat) : Goes (s.gateFault k sub) := goes_takeExc _
@[simp] theorem goes_fetchExc (code sub : Nat) (a : Dbl) : Goes (s.fetchExc k code sub a) := goes_takeExc _
@[simp] theorem goes_dataFault (e : BusErr) (a : Nat) (wr : Bool) : Goes (s.dataFault k e a wr) := goes_takeExc _

@[simp] theorem goes_deliverFault : Goes (s.deliverFault k) := by
  unfold State.deliverFault
  repeat' split
  all_goals simp

/-- A command of a unit whose number is below a bound goes on where its effect there does. -/
theorem goes_below {n m : Nat} {o : Out} (hn : n < m) (h : Goes o) : Goes (if m ≤ n then noUnit else o) := by
  rwa [if_neg (Nat.not_le.mpr hn)]

/-- A command of a cluster goes on where its effect on an enabled one does. -/
theorem goes_ofCluster {o : Out} (hk : s.clusterOn k = true) (h : Goes o) : Goes (if (!s.clusterOn k) = true then noUnit else o) := by
  simpa [hk] using h

/-- An instruction of a cluster that the device has goes on where its own effect does. -/
theorem goes_instr {body : Core → Out} (hk : s.clusterOn k = true) (h : ∀ c, Goes (body c)) : Goes (s.instr k body) := by
  refine goes_ofCluster hk ?_
  repeat' split
  all_goals simp [h]

theorem goes_needFV {legal : Bool} {body : Out} (h : Goes body) : Goes (s.needFV k legal body) := by
  simp [State.needFV, h]

theorem goes_needT {legal : Bool} {body : Out} (h : Goes body) : Goes (s.needT k legal body) := by
  simp [State.needT, h]

theorem goes_afterGroups {c : Core} {wait body : Out} (hw : Goes wait) (hb : Goes body) : Goes (s.afterGroups k c wait body) := by
  simp [State.afterGroups, hw, hb]

theorem goes_drained1 {body : State → Out} (h : ∀ t, Goes (body t)) : Goes (s.drained1 k body) := by
  unfold State.drained1
  split <;> simp [h]

@[simp] theorem goes_complete (len : Nat) (f : Flags) (write : Core → Core) : Goes (s.complete k len f write) := by
  simp [State.complete]

@[simp] theorem goes_load (len : Nat) (ls : List (List Nat)) (slots : List Slot) (u : Option (BitVec 3 × Dbl)) (lwx sv : Bool) :
    Goes (s.load k len ls slots u lwx sv) := by
  unfold State.load
  dsimp only
  repeat' split
  all_goals simp

@[simp] theorem goes_store (len : Nat) (ls : List (List Nat)) (ws : List Word) (u : Option (BitVec 3 × Dbl)) (sv : Bool) :
    Goes (s.store k len ls ws u sv) := by
  unfold State.store
  dsimp only
  repeat' split
  all_goals simp

end

/-! ### The shared forms of the instructions -/

section
variable {s : State} {k : Nat} (hk : s.clusterOn k = true)
include hk

theorem goes_alu (len : Nat) (d : BitVec 5) (f : Core → Word × Cst) : Goes (s.alu k len d f) :=
  goes_instr hk fun _ => goes_done _

theorem goes_move (len : Nat) (d : BitVec 5) (f : Core → Word) : Goes (s.move k len d f) :=
  goes_instr hk fun _ => goes_done _

theorem goes_movePair (len : Nat) (d : BitVec 5) (f : Core → Dbl) : Goes (s.movePair k len d f) :=
  goes_instr hk fun _ => by simp

theorem goes_narrowing (d : BitVec 5) (sat : BitVec 2) (f : Core → Bool → Int × Bool) : Goes (s.narrowing k d sat f) :=
  goes_instr hk fun _ => by split <;> simp

theorem goes_rounding (d : BitVec 5) (o : Opt) (f : Core → BitVec 2 → Bool → Int × Bool) : Goes (s.rounding k d o f) :=
  goes_narrowing hk _ _ _

theorem goes_divide (d : BitVec 5) (sat : BitVec 2) (legal : Bool) (f : Core → Bool → DivRes) : Goes (s.divide k d sat legal f) :=
  goes_instr hk fun _ => by split <;> simp

theorem goes_aop (a : BitVec 3) (f : Core → Dbl) : Goes (s.aop k a f) := goes_instr hk fun _ => goes_done _

theorem goes_branch (o : Word) (taken : Core → Bool) : Goes (s.branch k o taken) := goes_instr hk fun _ => goes_done _

theorem goes_repeat (len : Nat) (n : Core → Nat) : Goes (s.repeat k len n) := goes_instr hk fun _ => by simp

theorem goes_loadOp (e : MemEa) (legal fv sv : Bool) (n m : Nat) (slots : Core → List Slot) :
    Goes (s.loadOp k e legal fv sv n m slots) :=
  goes_instr hk fun _ => by split <;> simp

theorem goes_storeOp (e : MemEa) (legal fv sv : Bool) (m : Nat) (ws : Core → List Word) : Goes (s.storeOp k e legal fv sv m ws) :=
  goes_instr hk fun _ => by split <;> simp

theorem goes_atomic (d : BitVec 5) (a : Nat) (needs : List Need) (act : State → Word → State × Word) :
    Goes (s.atomic k d a needs act) := by
  refine goes_instr hk fun c => ?_
  repeat' split
  all_goals simp

theorem goes_fpOp (legal : Bool) (d : BitVec 5) (f : Core → Nat × Flags) : Goes (s.fpOp k legal d f) :=
  goes_instr hk fun _ => goes_needFV (goes_complete ..)

theorem goes_fpArith (wd : Bool) (o : FOp) (d a b : BitVec 5) : Goes (s.fpArith k wd o d a b) := goes_fpOp hk _ _ _

theorem goes_sv (legal : Bool) (f : Core → List Int × Flags) (put : Core → List Int → Core) : Goes (s.sv k legal f put) :=
  goes_instr hk fun _ => goes_needFV (goes_complete ..)

theorem goes_svLanes (f : SvForm) (legal : Bool) (d : BitVec 3) (g : Core → List Int × Flags) : Goes (s.svLanes k f legal d g) :=
  goes_sv hk _ _ _

theorem goes_svNarrow (f : SvForm) (legal : Bool) (d : BitVec 3) (sat : BitVec 2) (g : Core → Bool → List (Int × Bool)) :
    Goes (s.svNarrow k f legal d sat g) :=
  goes_svLanes hk _ _ _ _

theorem goes_svFp2 (f : SvForm) (d a b : BitVec 3) (o : FOp) : Goes (s.svFp2 k f d a b o) := goes_svLanes hk _ _ _ _

theorem goes_svFixed2 (f : SvForm) (d a b : BitVec 3) (sat : BitVec 2) (op : Int → Int → Int) : Goes (s.svFixed2 k f d a b sat op) :=
  goes_svNarrow hk _ _ _ _ _

theorem goes_svLogic (f : SvForm) (d a b : BitVec 3) (op : Nat → Nat → Nat) : Goes (s.svLogic k f d a b op) := goes_svLanes hk _ _ _ _

theorem goes_svShift (f : SvForm) (d a : BitVec 3) (op : (n : Nat) → BitVec n → BitVec n) : Goes (s.svShift k f d a op) :=
  goes_svLanes hk _ _ _ _

theorem goes_mulWide (f : SvForm) (hi : Bool) (d a b : BitVec 3) : Goes (s.mulWide k f hi d a b) := goes_sv hk _ _ _

theorem goes_ctlAccess {n : Nat} {rd legal : Bool} {body : Core → Out} (h : ∀ c, Goes (body c)) :
    Goes (s.ctlAccess k n rd legal body) :=
  goes_instr hk fun c => by simp [h c]

theorem goes_mtc (n : Nat) (rs : BitVec 5) : Goes (s.mtc k n rs) := goes_ctlAccess hk fun _ => by simp

/-! ### Single instructions -/

theorem execFtow_goes (wd : Bool) (wx rs : BitVec 5) (code : BitVec 3) (tz : Bool) : Goes (execFtow k wd wx rs code tz s) :=
  goes_instr hk fun _ => by split <;> simp [goes_needFV]

theorem execFfrw_goes (wd : Bool) (d wx : BitVec 5) (code : BitVec 3) : Goes (execFfrw k wd d wx code s) :=
  goes_instr hk fun _ => by split <;> simp [goes_needFV]

theorem execSabs_goes (f : SvForm) (d a : BitVec 3) (sat : BitVec 2) : Goes (execSabs k f d a sat s) := by
  unfold execSabs
  split
  · exact goes_svLanes hk _ _ _ _
  · exact goes_svNarrow hk _ _ _ _ _

theorem execSneg_goes (f : SvForm) (d a : BitVec 3) (sat : BitVec 2) : Goes (execSneg k f d a sat s) := by
  unfold execSneg
  split
  · exact goes_svLanes hk _ _ _ _
  · exact goes_svNarrow hk _ _ _ _ _

theorem execSmin_goes (f : SvForm) (d a b : BitVec 3) : Goes (execSmin k f d a b s) := by
  unfold execSmin
  split
  · exact goes_svFp2 hk _ _ _ _ _
  · exact goes_svLanes hk _ _ _ _

theorem execSmax_goes (f : SvForm) (d a b : BitVec 3) : Goes (execSmax k f d a b s) := by
  unfold execSmax
  split
  · exact goes_svFp2 hk _ _ _ _ _
  · exact goes_svLanes hk _ _ _ _

theorem execScvt_goes (f : SvForm) (d a code : BitVec 3) (tz hi : Bool) : Goes (execScvt k f d a code tz hi s) := by
  unfold execScvt
  exact goes_sv hk _ _ _

theorem execSwx_goes (d rs : BitVec 5) (a : BitVec 3) : Goes (execSwx k d rs a s) := by
  unfold execSwx
  exact goes_atomic hk _ _ _ _

theorem execXadd_goes (d rs : BitVec 5) (a : BitVec 3) : Goes (execXadd k d rs a s) := by
  unfold execXadd
  exact goes_atomic hk _ _ _ _

theorem execVgath_goes (d a i : BitVec 3) : Goes (execVgath k d a i s) := goes_instr hk fun _ => by simp

theorem execVscat_goes (rs a i : BitVec 3) : Goes (execVscat k rs a i s) := goes_instr hk fun _ => by simp

theorem execSignal_goes (c : BitVec 5) : Goes (execSignal k c s) := goes_instr hk fun _ => by simp [goes_drained1]

omit hk in
@[simp] theorem goes_callGate (t : Priv) (g : Nat) (tgt : Dbl) : Goes (s.callGate k t g tgt) := by
  unfold State.callGate
  dsimp only
  split <;> simp

omit hk in
@[simp] theorem goes_gateEntered (c0 : Core) (t : Priv) (g : Nat) (e : GateEntry) : Goes (s.gateEntered k c0 t g e) := by
  simp [State.gateEntered]

theorem execGate_goes (g : BitVec 10) : Goes (execGate k g s) := by
  refine goes_instr hk fun c => ?_
  dsimp only
  repeat' split
  all_goals simp

omit hk in
@[simp] theorem goes_finishReturn (rfg : Bool) (f : Dbl) (ws : List Word) : Goes (s.finishReturn k rfg f ws) := by
  unfold State.finishReturn
  dsimp only
  repeat' split
  all_goals simp

theorem goes_return (rfg : Bool) : Goes (s.return k rfg) := by
  refine goes_instr hk fun c => goes_ite.mpr ⟨fun _ => goes_privFault, fun _ => ?_⟩
  split
  · simp
  · simp
  · exact goes_drained1 fun t => by split <;> simp

theorem execWait_goes (d rs t : BitVec 5) : Goes (execWait k d rs t s) := by
  refine goes_instr hk fun c => ?_
  dsimp only
  repeat' split
  all_goals simp

theorem execChain_goes (n : BitVec 3) (rsv : BitVec 4) (c : BitVec 5) : Goes (execChain k n rsv c s) := by
  refine goes_instr hk fun c => ?_
  dsimp only
  repeat' split
  all_goals simp

/-! ### Events of a core -/

theorem execMstartProductWrite_goes : Goes (execMstartProductWrite k s) :=
  goes_ofCluster hk <| by split <;> simp

theorem execDivisionComplete_goes : Goes (execDivisionComplete k s) :=
  goes_ofCluster hk <| by split <;> simp

theorem execVbarCompletion_goes : Goes (execVbarCompletion k s) :=
  goes_ofCluster hk <| by simp

theorem execQueuedGroupStart_goes : Goes (execQueuedGroupStart k s) :=
  goes_ofCluster hk <| by
    dsimp only
    split <;> simp

theorem execGroupStep_goes : Goes (execGroupStep k s) :=
  goes_ofCluster hk <| by
    dsimp only
    repeat' split
    all_goals simp

theorem execElementCommit_goes : Goes (execElementCommit k s) :=
  goes_ofCluster hk <| by
    dsimp only
    repeat' split
    all_goals simp

theorem execGroupRetire_goes : Goes (execGroupRetire k s) :=
  goes_ofCluster hk <| by
    dsimp only
    split <;> simp

theorem execGroupFault_goes : Goes (execGroupFault k s) :=
  goes_ofCluster hk <| by
    repeat' split
    all_goals simp

theorem execGroupPreemptStop_goes : Goes (execGroupPreemptStop k s) :=
  goes_ofCluster hk <| by
    dsimp only
    repeat' split
    all_goals simp

theorem execLoadDataReturn_goes : Goes (execLoadDataReturn k s) :=
  goes_ofCluster hk <| by
    dsimp only
    repeat' split
    all_goals simp

theorem execStorePerformed_goes : Goes (execStorePerformed k s) :=
  goes_ofCluster hk <| by split <;> simp

theorem execFetchRefillReturn_goes (a : Dbl) : Goes (execFetchRefillReturn k a s) :=
  goes_ofCluster hk <| by
    dsimp only
    repeat' split
    all_goals simp

omit hk in
@[simp] theorem goes_fetchFails (code sub : Nat) (a : Dbl) : Goes (s.fetchFails k code sub a) := by
  simp [State.fetchFails]

theorem execFetchFault_goes : Goes (execFetchFault k s) :=
  goes_ofCluster hk <| by
    dsimp only
    repeat' split
    all_goals simp

theorem execInterruptTaken_goes : Goes (execInterruptTaken k s) :=
  goes_ofCluster hk <| by
    dsimp only
    repeat' split
    all_goals simp

theorem execPendingMchkTaken_goes : Goes (execPendingMchkTaken k s) :=
  goes_ofCluster hk <| by
    dsimp only
    repeat' split
    all_goals simp

theorem execWatchdogWarning_goes : Goes (execWatchdogWarning k s) := goes_ofCluster hk <| by simp

theorem execWatchdogExpiry_goes : Goes (execWatchdogExpiry k s) := goes_ofCluster hk <| by simp

theorem execCoreHalted_goes : Goes (execCoreHalted k s) :=
  goes_ofCluster hk <| by
    dsimp only
    repeat' split
    all_goals simp

/-! ### Binding, switching and saving -/

theorem execSliceExpiry_goes : Goes (execSliceExpiry k s) :=
  goes_ofCluster hk <| by split <;> simp

theorem execBindDecision_goes : Goes (execBindDecision k s) :=
  goes_ofCluster hk <| by
    dsimp only
    repeat' split
    all_goals simp

theorem execVictimBoundary_goes : Goes (execVictimBoundary k s) :=
  goes_ofCluster hk <| by
    dsimp only
    repeat' split
    all_goals simp

theorem execSaveComplete_goes : Goes (execSaveComplete k s) :=
  goes_ofCluster hk <| by
    dsimp only
    repeat' split
    all_goals simp

theorem execRestoreComplete_goes : Goes (execRestoreComplete k s) :=
  goes_ofCluster hk <| by
    dsimp only
    repeat' split
    all_goals simp

end

/-! ### Registers -/

section
variable {s : State}

@[simp] theorem goes_writeBy (who : Master) (off : Nat) (v : Word) : Goes (s.writeBy who off v) := by
  unfold State.writeBy
  dsimp only
  repeat' split
  all_goals simp

@[simp] theorem goes_readBy (who : Master) (off : Nat) : Goes (s.readBy who off) := by
  unfold State.readBy
  dsimp only
  repeat' split
  all_goals simp

theorem execRegisterWrite_goes (who : Master) (a : Dbl) (v : Word) : Goes (execRegisterWrite who a v s) := by
  unfold execRegisterWrite
  split
  · rename_i off _
    obtain ⟨t, e⟩ := goes_writeBy (s := s) who off v
    simp [e]
  · simp
  · simp

theorem goes_sendSig (who : Master) (g : Dbl) : Goes (s.sendSig who g) := by
  unfold State.sendSig
  obtain ⟨t, e⟩ := goes_writeBy (s := s) who 0x40802 (loW g)
  simp [e]

theorem execLnkTxsig_goes (who : Master) (g : Dbl) : Goes (execLnkTxsig who g s) := by
  unfold execLnkTxsig
  repeat' split
  all_goals simp [goes_sendSig]

theorem goes_writeCl {k : Nat} (hk : k < 96) (who : Master) (off : Nat) (v : Word) : Goes (s.writeCl who k off v) :=
  goes_below hk (goes_writeBy ..)

theorem goes_readCl {k : Nat} (hk : k < 96) (who : Master) (off : Nat) : Goes (s.readCl who k off) :=
  goes_below hk (goes_readBy ..)

theorem execClRcData_goes {k : Nat} (hk : k < 96) (who : Master) (w : Option Dbl) : Goes (execClRcData who k w s) := by
  cases w with
  | none =>
    obtain ⟨t, e⟩ := goes_readCl (s := s) hk who 3
    simp [execClRcData, e, goes_readCl hk]
  | some v =>
    obtain ⟨t, e⟩ := goes_writeCl (s := s) hk who 3 (loW v)
    simp [execClRcData, e, goes_writeCl hk]

theorem goes_writeRgn {n : Nat} (hn : n < 48) (who : Master) (off : Nat) (v : Word) : Goes (s.writeRgn who n off v) :=
  goes_below hn (goes_writeBy ..)

theorem goes_writeDma {n : Nat} (hn : n < 96) (who : Master) (off : Nat) (v : Word) : Goes (s.writeDma who n off v) :=
  goes_below hn (goes_writeBy ..)

theorem execDebugAccessDone_goes : Goes (execDebugAccessDone s) := by
  unfold execDebugAccessDone
  repeat' split
  all_goals simp

/-! ### Units around the cores -/

theorem goes_region {n : Nat} (hn : s.regionOn n = true) (f : State → State) : Goes (s.region n f) := by
  simp [State.region, hn]

theorem goes_channel {n : Nat} (hn : n < 96) (f : State → State) : Goes (s.channel n f) :=
  goes_below hn (goes_next _)

theorem goes_onLink {p : Nat} (hp : p < 8) (f : State → State) : Goes (s.onLink p f) :=
  goes_below hp (goes_next _)

theorem execStoreScrubWord_goes {st : StoreId} (h : ∀ k, st = .coef k → s.clusterOn k = true) : Goes (execStoreScrubWord st s) := by
  cases st with
  | coef k => simp [execStoreScrubWord, h k rfl]
  | context => simp [execStoreScrubWord]

theorem execRollEnd_goes {tgt : RollTarget} {bad : Option (BitVec 7)} (hr : ∀ n, tgt = .region n → s.regionOn n = true)
    (hc : ∀ k, tgt = .cluster k → s.clusterOn k = true) : Goes (execRollEnd tgt bad s) := by
  cases tgt with
  | region n => simp [execRollEnd, hr n rfl]
  | cluster k => simp [execRollEnd, hc k rfl]

theorem execLedgerProgramDone_goes : Goes (execLedgerProgramDone s) := by
  unfold execLedgerProgramDone
  split <;> simp

theorem execLedgerEraseDone_goes : Goes (execLedgerEraseDone s) := by
  unfold execLedgerEraseDone
  split <;> simp

theorem execHostBarRead_goes (bar : Bar) (off cnt : Nat) : Goes (execHostBarRead bar off cnt s) := by
  unfold execHostBarRead
  repeat' split
  all_goals simp

theorem execHostBarWrite_goes (bar : Bar) (off : Nat) (ds : List HostDword) : Goes (execHostBarWrite bar off ds s) := by
  unfold execHostBarWrite
  repeat' split
  all_goals simp

theorem execAuthLockoutEnd_goes (ch : Channel) : Goes (execAuthLockoutEnd ch s) := by
  unfold execAuthLockoutEnd
  dsimp only
  split <;> simp

/-! ### The monitor -/

theorem goes_monitor {r : MonReq} {cmd : Byte} {payload : List Byte} {body : State → Out} (h : ∀ t, Goes (body t)) :
    Goes (s.monitor r cmd payload body) := by
  unfold State.monitor
  repeat' split
  all_goals simp [h]

@[simp] theorem goes_monDone (r : MonReq) (cmd : Byte) (x : MonAcc) : Goes (s.monDone r cmd x) := by
  unfold State.monDone
  split <;> simp

theorem goes_monAccess {r : MonReq} {cmd : Byte} {payload : List Byte} {a cnt : Nat} {body : State → Out} (h : ∀ t, Goes (body t)) :
    Goes (s.monAccess r cmd payload a cnt body) := by
  refine goes_monitor fun t => ?_
  repeat' split
  all_goals simp [h]

theorem goes_monRc (r : MonReq) (cmd : Byte) (k : BitVec 8) (op : Word) : Goes (s.monRc r cmd k op) :=
  goes_monitor fun _ => by split <;> simp

theorem execAuthProve_goes (r : MonReq) (ph sig : List (BitVec 8)) : Goes (execAuthProve r ph sig s) := by
  refine goes_monitor fun t => ?_
  repeat' split
  all_goals simp

theorem execCread_goes (r : MonReq) (k : BitVec 8) (sel : Word) : Goes (execCread r k sel s) :=
  goes_monitor fun _ => by split <;> simp

theorem execCwrite_goes (r : MonReq) (k : BitVec 8) (sel : Word) (v : Dbl) : Goes (execCwrite r k sel v s) :=
  goes_monitor fun _ => by split <;> simp

theorem execLcset_goes (r : MonReq) (target : BitVec 8) : Goes (execLcset r target s) :=
  goes_monitor fun _ => by split <;> simp

end

/-! ### Which units a GX-4820 has -/

section
variable {s : State} (hg : s.dev.gx4816 = false)
include hg

theorem clusterOn_of_gx4820 {k : Nat} (hk : k < 96) : s.clusterOn k = true := regionOn_of_gx4820 hg (by omega)

theorem hasTarget_of_gx4820 {d p : Nat} (hd : d < 4) (hp : p < 15) : s.hasTarget d p = true := by
  have region : 12 ≤ p ∨ s.regionOn (12 * d + p) = true := by
    by_cases h : 12 ≤ p
    · exact .inl h
    · exact .inr (regionOn_of_gx4820 hg (by omega))
  simpa [State.hasTarget, fabricTargets, hd, hp] using region

theorem hasPort_of_gx4820 {d p : Nat} (hd : d < 4) (hp : p < 81) : s.hasPort d p = true := by
  by_cases h : p < 15
  · simp [State.hasPort, hasTarget_of_gx4820 hg hd h]
  · simp [State.hasPort, fabricTargets, fabricMasters, hd, hp, Nat.le_of_not_lt h]

/-- Where the address of a stored bit of SRAM lies (R21). -/
theorem locOf_sram {a : Dbl} {mask : BitVec 31} (h : (ErrSite.sram a mask).wf = true) :
    (∃ n off, s.locOf a.toNat = .region n off) ∨ (∃ off, s.locOf a.toNat = .ctx off) ∨ ∃ k off, s.locOf a.toNat = .coef k off := by
  simp only [ErrSite.wf, Bool.or_eq_true, Bool.and_eq_true, decide_eq_true_eq] at h
  obtain (⟨top, usable⟩ | ⟨low, high⟩) | ⟨low, high⟩ := h
  · left
    have on := regionOn_of_gx4820 hg (n := a.toNat / 0x800000) (by omega)
    simp [State.locOf, top, usable, on]
  · right; left
    simp [State.locOf, show ¬ a.toNat < 0x18000000 by omega, show ¬ a.toNat < 0x20000000 by omega, high]
  · right; right
    have on := clusterOn_of_gx4820 hg (k := (a.toNat - 0x40000000) / 0x4000) (by omega)
    simp [State.locOf, show ¬ a.toNat < 0x18000000 by omega, show ¬ a.toNat < 0x20000000 by omega,
      show ¬ a.toNat < 0x22000000 by omega, show ¬ a.toNat < 0x30000000 by omega, show ¬ a.toNat < 0x40000000 by omega, high, on]

/-- Where the address of a stored bit of HBM lies (R21). -/
theorem locOf_hbm {a : Dbl} {b : BitVec 9} (h : (ErrSite.hbm a b).wf = true) :
    s.locOf a.toNat = .hbm ((a.toNat - 0x100000000) / 0x240000000) ((a.toNat - 0x100000000) % 0x240000000) := by
  simp only [ErrSite.wf, Bool.and_eq_true, decide_eq_true_eq] at h
  obtain ⟨low, high⟩ := h
  have inStack : (a.toNat - 0x100000000) % 0x240000000 < s.hbmSize := by
    simp only [State.hbmSize, hg]
    exact Nat.mod_lt _ (by decide)
  simp only [State.locOf, if_neg (show ¬ a.toNat < 0x18000000 by omega), if_neg (show ¬ a.toNat < 0x20000000 by omega),
    if_neg (show ¬ a.toNat < 0x22000000 by omega), if_neg (show ¬ a.toNat < 0x30000000 by omega),
    if_neg (show ¬ a.toNat < 0x40000000 by omega), if_neg (show ¬ a.toNat < 0x40180000 by omega),
    if_neg (show ¬ a.toNat < 0x100000000 by omega), if_pos high, if_pos inStack]

theorem execStoredBitError_goes {e : ErrSite} (h : e.wf = true) : Goes (execStoredBitError e s) := by
  cases e with
  | sram a mask =>
    obtain ⟨n, off, l⟩ | ⟨off, l⟩ | ⟨k, off, l⟩ := locOf_sram hg h <;> simp [execStoredBitError, l]
  | hbm a b => simp [execStoredBitError, locOf_hbm hg h]

end

section
variable {s : State}

/-! ### Every command -/

/-- Every command of units, ranges and lengths that the manual gives a GX-4820 goes on. -/
theorem exec_goes {i : Instr} (hi : i.wf = true) (hg : s.dev.gx4816 = false) : Goes (exec i s) := by
  have cl {k : Nat} (h : isCluster k = true) : s.clusterOn k = true := clusterOn_of_gx4820 hg (of_decide_eq_true h)
  have rg {n : Nat} (h : isRegion n = true) : s.regionOn n = true := regionOn_of_gx4820 hg (of_decide_eq_true h)
  have left {a b : Bool} (h : (a && b) = true) : a = true := (Bool.and_eq_true_iff.mp h).1
  have right {a b : Bool} (h : (a && b) = true) : b = true := (Bool.and_eq_true_iff.mp h).2
  cases i with delta exec
  -- integer
  | add | sub | adc | sbc | and | or | xor | shl | shr | sha | addi | subi | andi | ori | xori | shli | shri | shai =>
    exact goes_alu (cl hi) ..
  | movi | min | max | minu | maxu | mfal | mfah | mfam => exact goes_move (cl hi) ..
  | mulw | mulwu => exact goes_movePair (cl hi) ..
  | adds | subs | neg | abs | shls | shlsi | mulu => exact goes_narrowing (cl hi) ..
  | shar | mulq => exact goes_rounding (cl hi) ..
  | div | divu | divq | divw | divwu => exact goes_divide (cl hi) ..
  | mul => exact goes_instr (cl hi) fun _ => goes_complete ..
  | mstart => exact goes_instr (cl hi) fun _ => goes_done _
  | mstartProductWrite => exact execMstartProductWrite_goes (cl hi)
  | divisionComplete => exact execDivisionComplete_goes (cl hi)
  -- memory
  | lw | ld | lq | la | lf | lfw | vld | vld2 | vld3 | vld4 => exact goes_loadOp (cl hi) ..
  | sw | sd | sq | sa | sf | sfw | vst => exact goes_storeOp (cl hi) ..
  | lwx => exact goes_instr (cl hi) fun _ => goes_load ..
  | swx => exact execSwx_goes (cl hi) ..
  | xadd => exact execXadd_goes (cl hi) ..
  | vgath => exact execVgath_goes (cl hi) ..
  | vscat => exact execVscat_goes (cl hi) ..
  -- address registers, branches, jumps, loops
  | adda | addai | lal | lah | mtal | mtah | upda | mova => exact goes_aop (cl hi) ..
  | beq | bne | blt | bge | bltu | bgeu | bcs | bcc | bmi | bpl | bzs | bzc | b => exact goes_branch (cl hi) ..
  | mtam | j | jal | ret | jr | jalr | dbnz | nop => exact goes_instr (cl hi) fun _ => goes_done _
  | repi | rep => exact goes_repeat (cl hi) ..
  -- system
  | sync | isync => exact goes_instr (cl hi) fun _ => goes_drained1 fun _ => goes_done _
  | mfc => exact goes_ctlAccess (cl hi) fun _ => goes_done _
  | mtc | vfcDiscard | vprogWrite | wdogCntWrite => exact goes_mtc (cl hi) ..
  | signal => exact execSignal_goes (cl hi) _
  | gate => exact execGate_goes (cl hi) _
  | bkpt => exact goes_instr (cl hi) fun _ => goes_takeExc _
  | rfe | rfg => exact goes_return (cl hi) _
  | wait => exact execWait_goes (cl hi) ..
  | illegalInstruction => exact goes_instr (cl hi) fun _ => by simp
  | fetchFault => exact execFetchFault_goes (cl hi)
  -- scalar floating point and short vectors
  | fadd | fsub | fmul | fdiv | fmin | fmax => exact goes_fpArith (cl hi) ..
  | fsqrt | fabs | fneg | fmov | fcvt => exact goes_fpOp (cl hi) ..
  | fcmp => exact goes_instr (cl hi) fun _ => goes_needFV (goes_complete ..)
  | fmfw | fmtw => exact goes_instr (cl hi) fun _ => goes_needFV (goes_done _)
  | ftow => exact execFtow_goes (cl hi) ..
  | ffrw => exact execFfrw_goes (cl hi) ..
  | sadd | ssub => exact goes_svFixed2 (cl hi) ..
  | sshls | smulq => exact goes_svNarrow (cl hi) ..
  | sand | sor | sxor => exact goes_svLogic (cl hi) ..
  | sshl | sshr | ssha => exact goes_svShift (cl hi) ..
  | scmp | ssel => exact goes_svLanes (cl hi) ..
  | sfadd | sfsub | sfmul => exact goes_svFp2 (cl hi) ..
  | ssrs | ssrsp | sdot | sdota | sspl | smtl | smfl | smov => exact goes_sv (cl hi) ..
  | smulwL | smulwH => exact goes_mulWide (cl hi) ..
  | scvt => exact execScvt_goes (cl hi) ..
  | smin => exact execSmin_goes (cl hi) ..
  | smax => exact execSmax_goes (cl hi) ..
  | sabs => exact execSabs_goes (cl hi) ..
  | sneg => exact execSneg_goes (cl hi) ..
  -- chain groups
  | chain => exact execChain_goes (cl hi) ..
  | vbar => exact goes_instr (cl hi) fun _ => goes_afterGroups (goes_done _) (goes_done _)
  | mtt | mft => exact goes_instr (cl hi) fun _ => goes_needT (goes_done _)
  | mtac | mfac => exact goes_instr (cl hi) fun _ => goes_needT (goes_afterGroups (goes_next _) (goes_done _))
  | vbarCompletion => exact execVbarCompletion_goes (cl hi)
  | queuedGroupStart => exact execQueuedGroupStart_goes (cl hi)
  | groupStep => exact execGroupStep_goes (cl hi)
  | elementCommit => exact execElementCommit_goes (cl hi)
  | groupRetire => exact execGroupRetire_goes (cl hi)
  | groupFault => exact execGroupFault_goes (cl hi)
  | groupPreemptStop => exact execGroupPreemptStop_goes (cl hi)
  -- events of a core, contexts
  | loadDataReturn => exact execLoadDataReturn_goes (cl hi)
  | storePerformed => exact execStorePerformed_goes (cl hi)
  | interruptTaken => exact execInterruptTaken_goes (cl hi)
  | pendingMchkTaken => exact execPendingMchkTaken_goes (cl hi)
  | watchdogWarning => exact execWatchdogWarning_goes (cl hi)
  | watchdogExpiry => exact execWatchdogExpiry_goes (cl hi)
  | coreHalted => exact execCoreHalted_goes (cl hi)
  | bindDecision => exact execBindDecision_goes (cl hi)
  | sliceExpiry => exact execSliceExpiry_goes (cl hi)
  | victimBoundary => exact execVictimBoundary_goes (cl hi)
  | restoreComplete => exact execRestoreComplete_goes (cl hi)
  | saveComplete => exact execSaveComplete_goes (cl hi)
  | fetchRefillReturn => exact execFetchRefillReturn_goes (cl hi) _
  -- registers written or read by a master
  | alloc | activate | suspend | wake | resumeContext | release | ctxCmdBadop | lnkFtIdx | lnkFtCmdWr | ptpSet
    | ptpAdj | ptpCtlCap | hostKpost | mailboxPost | mailboxRelease | intLdgDataWrite | intLdgCtlErase | rollRegion
    | rollCluster | rollIoDie | enterStandby | returnToActive | dbgDataWrite => exact goes_writeBy ..
  | ptpTodRead | pipNowRead | intLdgDataRead | dbgDataRead => exact goes_readBy ..
  | clIpost | clMflt | clRcHalt | clRcStep | clRcResume => exact goes_writeCl (of_decide_eq_true (right hi)) ..
  | clRcData => exact execClRcData_goes (of_decide_eq_true (right hi)) ..
  | castleGo | rgnPreqNap | rgnPreqOff | rgnPreqAutomatic | vacate | hold | rgnVf | rgnTurns | rgnEccFlip =>
    exact goes_writeRgn (of_decide_eq_true (right hi)) ..
  | dmaStart | dmaStop | dmaClear | dmaKill | dmaShadowWrite => exact goes_writeDma (of_decide_eq_true (right hi)) ..
  | lnkPnCtl => exact goes_below (of_decide_eq_true (right hi)) (goes_writeBy ..)
  | tmrNextWrite => exact goes_below (of_decide_eq_true (right hi)) (goes_writeBy ..)
  | registerWrite => exact execRegisterWrite_goes ..
  | lnkTxsig => exact execLnkTxsig_goes ..
  | debugAccessDone => exact execDebugAccessDone_goes
  -- regions, channels, ports and the other units
  | boardAccessGrant => exact goes_region (rg (left hi)) _
  | scrubRowDue | scrubTurn | castleCopyRow | castleSwitchover | requestedStateEntry | regionIdleEntry
    | regionNapEntry | regionLogicUp | zeroFillDone | voltageRampStep | marginMeasurement => exact goes_region (rg hi) _
  | thermalThrottleStep => simp [execThermalThrottleStep, rg hi]
  | storeScrubWord => exact execStoreScrubWord_goes fun k e => cl (by subst e; exact hi)
  | rollEnd => exact execRollEnd_goes (fun n e => rg (by subst e; exact hi)) (fun k e => cl (by subst e; exact hi))
  | dmaReadReturn | dmaWriteResponse | dmaCompletion | dmaHalt | hostDmaTimeout =>
    exact goes_channel (of_decide_eq_true hi) _
  | hbmScrubBlock => exact goes_below (of_decide_eq_true hi) (by simp)
  | timerEvent => exact goes_below (of_decide_eq_true hi) (goes_next _)
  | ethernetFrameReceive | frameTransmit | bosumMsgReceive | bosumSigReceive | bosumCtrlReceive | bosumNakReceive
    | bosumInitReceive => exact goes_onLink (of_decide_eq_true (left hi)) _
  | replayTimeout | ctrlFrameSend | initFrameSend => exact goes_onLink (of_decide_eq_true hi) _
  | pcsBlockLockLoss | pcsBlockLockGain =>
    exact goes_below (of_decide_eq_true (right hi)) (goes_onLink (of_decide_eq_true (left hi)) _)
  | fabricPieceGrant =>
    simp [execFabricPieceGrant, hasTarget_of_gx4820 hg (of_decide_eq_true (left (left hi))) (of_decide_eq_true (right (left hi)))]
  | fabricPortClockStop =>
    simp [execFabricPortClockStop, hasPort_of_gx4820 hg (of_decide_eq_true (left hi)) (of_decide_eq_true (right hi))]
  | storedBitError => exact execStoredBitError_goes hg hi
  -- the monitor
  | ident | status | authEnd | replan | resetWarm | resetCold | powerStandby | powerActive | powerOff =>
    exact goes_monitor fun _ => goes_next _
  | authStart | enroll => exact goes_monitor fun _ => by simp
  | mread => exact goes_monAccess fun _ => goes_monDone ..
  | mwrite => exact goes_monAccess fun _ => by simp
  | halt | step | resume => exact goes_monRc ..
  | authProve => exact execAuthProve_goes ..
  | cread => exact execCread_goes ..
  | cwrite => exact execCwrite_goes ..
  | lcset => exact execLcset_goes ..
  | authLockoutEnd => exact execAuthLockoutEnd_goes _
  -- commands of no unit that may be absent
  | ledgerProgramDone => exact execLedgerProgramDone_goes
  | ledgerEraseDone => exact execLedgerEraseDone_goes
  | hostBarRead => exact execHostBarRead_goes ..
  | hostBarWrite => exact execHostBarWrite_goes ..
  | ctxCmdCompletion | inboxDelivery | hbmRead | hbmWholeBlockWrite | hbmReadModifyWrite | ppsInEdge | syncerrUpdate
    | clearFaults | capability | statusWord | statusInput | statusTemperature | readVin | readIin | readTemperature1
    | readTemperature2 | readPin | pmbusRevision | mfrId | mfrModel | pmbusUnsupportedCommand => exact goes_next _
  | deadlineReached | queueRebuild => simp [execDeadlineReached, execQueueRebuild]
  | ppsOutRise | ppsOutFall => simp [execPpsOutRise, execPpsOutFall]
  | functionLevelReset | pcieHotReset | pcieLinkDown | pcieLinkUp | pcieConfigurationWrite | msiXTableWrite =>
    simp [execFunctionLevelReset, execPcieHotReset, execPcieLinkDown, execPcieLinkUp, execPcieConfigurationWrite,
      execMsiXTableWrite]
  | powerCapLower | powerCapRestore | inputCurrentClamp | currentClampEnd =>
    simp [execPowerCapLower, execPowerCapRestore, execInputCurrentClamp, execCurrentClampEnd]
  | vinWarning | vinOutOfRange | vinInRange5Ms | inputPowerArrival | thermtrip | alertResponseAddress =>
    simp [execVinWarning, execVinOutOfRange, execVinInRange5Ms, execInputPowerArrival, execThermtrip,
      execAlertResponseAddress]
  | porstNAssert | porstNRelease | wrstNAssert | wrstNRelease | internalResetHoldEnd | uartWakeByte =>
    simp [execPorstNAssert, execPorstNRelease, execWrstNAssert, execWrstNRelease, execInternalResetHoldEnd,
      execUartWakeByte]
  | standbyEntry | activeReached | lifeCycleProgramDone =>
    simp [execStandbyEntry, execActiveReached, execLifeCycleProgramDone]
  | fusesSensed | hubPllLock | ioDieRollDone | contextStoreCleared | hbmFillDone | imageVerified =>
    simp [execFusesSensed, execHubPllLock, execIoDieRollDone, execContextStoreCleared, execHbmFillDone,
      execImageVerified]
  | monitorFrameDiscard | sessionTimeout => simp [execMonitorFrameDiscard, execSessionTimeout]
end

/-- Settles O59, by the shared forms of the commands, which stop only for a unit that the device does not have. -/
theorem commandsComplete : Obligations.CommandsComplete := by
  intro i s hi regions hg
  obtain ⟨t, e⟩ := exec_goes hi hg
  obtain ⟨-, pending, disabled, gx⟩ := exec_keeps e
  exact ⟨t, e, pending, disabled.trans regions, gx.trans hg⟩

end Sys2Proof.Machine
end

section
/-! ## A bit of an HBM block (R306, R307)

A stack window of 0x240000000 words holds 0x18000000 blocks. A block number up to 2^29, the room that a block's index has
for it, is not enough for a block of its stack: from 0x18000000 on its address is that of a block of the next stack. -/

namespace Sys2Proof.Machine

open Sys2Proof.Safety

variable {s : State}

/-- The block number that follows the last of a stack has the address of the next stack's first block. -/
theorem blockAddr_past_stack (h : Nat) : blockAddr h 0x18000000 = blockAddr (h + 1) 0 := by
  unfold blockAddr
  omega

theorem execStoredBitError_hbm {a : Dbl} {b : BitVec 9} {h o : Nat} (l : s.locOf a.toNat = .hbm h o) :
    execStoredBitError (.hbm a b) s
      = .next { s with hbm := SMap.upd 0 s.hbm (hbmIndex h (o / 24)) (· ^^^ BitVec.ofNat 512 (2 ^ b.toNat)) } := by
  simp [execStoredBitError, l]

/-- A change of the block at one index leaves the blocks at every other. -/
theorem block_upd_other {i : Nat} {f : BitVec 512 → BitVec 512} {h b : Nat} (hi : hbmIndex h b ≠ i) :
    ({ s with hbm := SMap.upd 0 s.hbm i f } : State).block h b = s.block h b := by
  simp only [State.block, SMap.upd, SMap.get_set_other 0 s.hbm _ hi]

/-- Refutes O52, by its last part: a bit of the first word of stack 1 changes in block 0 of stack 1 alone, but the statement has
it change in block 0x18000000 of stack 0 too, which has the same address and another index. -/
theorem not_registerWritesAndBitErrors : ¬ Obligations.RegisterWritesAndBitErrors := by
  intro holds
  have wf : (ErrSite.hbm 0x340000000 0).wf = true := by decide
  obtain ⟨t, ran, -, changed⟩ := (holds.2.2 State.reset 0x340000000 0 0 rfl rfl).2 wf
  rw [exec_storedBitError, execStoredBitError_hbm (locOf_hbm rfl wf)] at ran
  cases ran
  have flipped := changed 0 0x18000000 (by decide) (by decide)
  rw [block_upd_other (by decide), if_pos ⟨by rw [blockAddr_past_stack]; decide, by rw [blockAddr_past_stack]; decide⟩] at flipped
  have bit0 := congrArg (fun x => x.getLsbD 0) flipped
  simp at bit0

end Sys2Proof.Machine
end

section
/-! ## CHAIN: the group issued, or why it is not (R102, R115, R116, R119, R136, R153, R165) -/

namespace Sys2Proof.Machine

open Sys2Proof.Safety

/-! ### Progress words of a control block, beside its windows (R161, R178) -/

section
variable {s : State} {k : Nat}

@[simp] theorem State.core_setCb (x w : Nat) (v : Word) (j : Nat) : (s.setCb x w v).core j = s.core j := rfl

/-- A write of one word of a control block leaves every other word of any. -/
theorem cb_setCb_other {x w y u : Nat} (v : Word) (h : cbAddr y u ≠ cbAddr x w) : (s.setCb x w v).cb y u = s.cb y u := by
  simp only [State.cb, State.peek, State.setCb, stored_writeStore_other _ _ _ _ _ h]

/-- The windows stand at words 16 to 31 of a control block; a word below them is none of theirs. -/
theorem windowGrants_setCb {x w : Nat} (v : Word) (hw : w < 16) (y : Nat) {i : Nat} (hi : i < 4) (need : Need) (a b : Nat) :
    (s.setCb x w v).windowGrants y i need a b = s.windowGrants y i need a b := by
  have word (j : Nat) (hj : 16 ≤ j ∧ j < 20) : (s.setCb x w v).cb y (j + 4 * i) = s.cb y (j + 4 * i) :=
    cb_setCb_other v (by unfold cbAddr; omega)
  unfold State.windowGrants State.window
  rw [word 16 (by decide), word 17 (by decide), word 18 (by decide), word 19 (by decide)]

theorem dotsWindow_setCb {x w : Nat} (v : Word) (hw : w < 16) (g : Group) : (s.setCb x w v).dotsWindow k g = s.dotsWindow k g := by
  simp [State.dotsWindow, windowGrants_setCb v hw]

theorem dotsWindow_setCore {c : Core} (g : Group) (h : c.bound = (s.core k).bound) :
    (s.setCore k c).dotsWindow k g = s.dotsWindow k g := by
  simp only [State.dotsWindow, State.core_setCore, Core.ctx, h]
  rfl

end

/-! ### What launching a group can do (R102, R115, R119, R153)

Each way of it writes a core and may name the oldest group, which sets VPROG and no window. -/

/-- Core k of t is c, VPROG apart, and the window check of VDOTS says in t what it says in s. -/
def BecomesCore (s t : State) (k : Nat) (c : Core) : Prop :=
  (∃ v, t.core k = { c with vprog := v }) ∧ ∀ g, t.dotsWindow k g = s.dotsWindow k g

/-- A group as it goes in flight with plan p on core c. -/
def Group.launched (g : Group) (c : Core) (p : Plan) : Group :=
  { g with
    stopped := false, running := c.groups.isEmpty, fresh := [], acs := if c.groups.isEmpty then c.ac else []
    unit := p.unit, accs := p.accs, vprog := g.vprog / p.unit * p.unit, start := g.vprog / p.unit * p.unit
    pos := g.vprog / p.unit * p.unit, unpred := g.unpred || p.unpred, unpredAcc := g.unpredAcc || pipesTwice p.ts }

/-- A core with g stopped on a fault behind the groups already stopped, and the fault recorded. -/
def Core.withStopped (c : Core) (g : Group) (f : VFault) : Core :=
  ({ c with stopped := c.stopped ++ [(g.halt g.vprog).record f] } : Core).record f

/-- The fault of a group that fails a check of its body or of its descriptors (R115). -/
def Reject.fault (r : Reject) (g : Group) : VFault := { cause := r.cause, stream := r.stream, instr := r.instr, vfe := g.vprog }

/-- The fault of a group whose VDOTS has no window on the coefficient store (R153). -/
def windowFault (k : Nat) (p : Plan) : VFault := { cause := 4, va := coefBase k, instr := dotsPos p, vfe := 0 }

section
variable {s : State} {k : Nat} {g : Group}

theorem becomesCore_setCore {c : Core} (h : c.bound = (s.core k).bound) : BecomesCore s (s.setCore k c) k c :=
  ⟨⟨c.vprog, State.core_setCore ..⟩, fun g => dotsWindow_setCore g h⟩

theorem becomesCore_oldest : BecomesCore s (s.oldest k) k (s.core k) := by
  unfold State.oldest State.checkpoint
  dsimp only
  split
  · exact ⟨⟨(s.core k).vprog, rfl⟩, fun _ => rfl⟩
  · refine ⟨⟨_, State.core_setCore ..⟩, fun g => ?_⟩
    rw [dotsWindow_setCb _ (by decide), dotsWindow_setCb _ (by decide), dotsWindow_setCb _ (by decide)]
    exact dotsWindow_setCore g rfl

theorem becomesCore_setCore_oldest {c : Core} (h : c.bound = (s.core k).bound) :
    BecomesCore s ((s.setCore k c).oldest k) k c := by
  obtain ⟨core, window⟩ := becomesCore_oldest (s := s.setCore k c) (k := k)
  rw [State.core_setCore] at core
  exact ⟨core, fun g => (window g).trans (dotsWindow_setCore g h)⟩

theorem BecomesCore.onCore {t : State} {c : Core} {f : Core → Core} (h : BecomesCore s t k c)
    (hv : ∀ v, f { c with vprog := v } = { f c with vprog := v }) (hb : ∀ d, (f d).bound = d.bound) :
    BecomesCore s (t.onCore k f) k (f c) := by
  obtain ⟨⟨v, core⟩, window⟩ := h
  exact ⟨⟨v, by rw [State.core_onCore, core, hv]⟩, fun g => (dotsWindow_setCore g (hb _)).trans (window g)⟩

theorem becomesCore_rejectGroup (f : VFault) : BecomesCore s (s.rejectGroup k g f) k ((s.core k).withStopped g f) := by
  unfold State.rejectGroup
  dsimp only
  split
  · exact becomesCore_setCore_oldest rfl
  · exact becomesCore_setCore rfl

/-- A group without progress that fails a check is the one that is stopped, and its fault is the one on record (R165). -/
theorem rejectGroup_first (f : VFault) (stopped : (s.core k).stopped = []) (start : g.vprog = 0) :
    let d := (s.rejectGroup k g f).core k
    d.groups = (s.core k).groups ∧ d.stopped = [(g.halt 0).record f] ∧ d.vfe = BitVec.ofNat 20 f.vfe
      ∧ d.vfa = BitVec.ofNat 40 f.va ∧ d.vfc = f.word ||| 0x40000 := by
  obtain ⟨⟨v, core⟩, -⟩ := becomesCore_rejectGroup (s := s) (k := k) (g := g) f
  intro d
  simp only [d, core, Core.withStopped, Core.record, stopped, start, List.nil_append, pendBit, and_self]

theorem launch_of_error {r : Reject} (hp : g.plan = .error r) : s.launch k g = s.rejectGroup k g (r.fault g) := by
  unfold State.launch
  rw [hp]
  rfl

theorem launch_of_noWindow {p : Plan} (hp : g.plan = .ok p) (hd : p.dots.isSome = true ∧ s.dotsWindow k g = false) :
    s.launch k g = s.rejectGroup k g (windowFault k p) := by
  unfold State.launch
  rw [hp]
  dsimp only
  rw [if_pos (by simpa using hd)]
  rfl

theorem launch_of_passed {p : Plan} (hp : g.plan = .ok p) (hd : ¬(p.dots.isSome = true ∧ s.dotsWindow k g = false)) :
    s.launch k g =
      let c := s.core k
      let l := g.launched c p
      if l.vprog < g.len then
        if c.groups.isEmpty then (s.setCore k { c with groups := c.groups ++ [l] }).oldest k
        else s.setCore k { c with groups := c.groups ++ [l] }
      else if c.groups.isEmpty then
        ((s.setCore k { c with groups := [l] }).oldest k).onCore k (fun c => { c with groups := [] })
      else s := by
  unfold State.launch
  rw [hp]
  dsimp only
  rw [if_neg (by simpa using hd)]
  rfl

/-- A group whose checks pass goes in flight, unless it has no element left: then it retires at once (R116). -/
theorem becomesCore_launch {p : Plan} (hp : g.plan = .ok p) (hd : ¬(p.dots.isSome = true ∧ s.dotsWindow k g = false)) :
    let l := g.launched (s.core k) p
    BecomesCore s (s.launch k g) k
      { s.core k with groups := if l.vprog < g.len then (s.core k).groups ++ [l] else (s.core k).groups } := by
  intro l
  rw [launch_of_passed hp hd]
  by_cases left : l.vprog < g.len
  · simp only [l, if_pos left]
    split
    · exact becomesCore_setCore_oldest rfl
    · exact becomesCore_setCore rfl
  · simp only [l, if_neg left]
    split
    next first =>
      have noGroup : (s.core k).groups = [] := List.isEmpty_iff.mp first
      rw [noGroup]
      exact (becomesCore_setCore_oldest (c := { s.core k with groups := [l] }) rfl).onCore (fun _ => rfl) (fun _ => rfl)
    next => exact ⟨⟨(s.core k).vprog, rfl⟩, fun _ => rfl⟩

end

/-! ### The core behind the body (R127, R136, R224) -/

section
variable {c : Core}

/-- Growing older changes nothing but the products of MSTART (R230). -/
theorem Core.ageMstart_eq : ∃ l h m, c.ageMstart = { c with mstart := l, mh := h, ml := m } := by
  unfold Core.ageMstart
  dsimp only
  split
  · exact ⟨_, _, _, rfl⟩
  · split <;> exact ⟨_, _, _, rfl⟩

theorem Core.bodyPass_eq (n : Nat) : ∃ l h m, c.bodyPass n = { c with mstart := l, mh := h, ml := m } := by
  induction n with
  | zero => exact ⟨_, _, _, rfl⟩
  | succ n ih =>
    obtain ⟨l, h, m, e⟩ := ih
    obtain ⟨l', h', m', e'⟩ := Core.ageMstart_eq (c := c.bodyPass n)
    exact ⟨l', h', m', by rw [Core.bodyPass, e', e]⟩

/-- A core behind a CHAIN with a body of m pairs. -/
def Core.behindChain (c : Core) (m : Nat) : Core := ((c.retire (1 + 2 * m)).bodyPass m).sync

/-- What CHAIN leaves of the registers of the core e, whatever becomes of the group. -/
structure BehindChain (e : Core) (m : Nat) (d : Core) : Prop where
  pc : d.pc = e.pc + BitVec.ofNat 40 (1 + 2 * m)
  vmode : d.vm1 = e.vmode ∧ d.vm2 = e.vmode
  fmode : d.fm1 = e.fmode ∧ d.fm2 = e.fmode
  scalars : d.w = e.w ∧ d.a = e.a ∧ d.f = e.f
  vectors : d.t = e.t ∧ d.ac = e.ac

theorem Core.behindChain_regs (m : Nat) (h : c.rep = none) : BehindChain c m (c.behindChain m) := by
  obtain ⟨l, x, y, e⟩ := Core.bodyPass_eq (c := c.retire (1 + 2 * m)) m
  unfold Core.behindChain
  rw [e]
  constructor <;> simp [Core.retire_pc _ _ h, Core.sync]

/-- The groups stand while the core goes on. -/
theorem Core.behindChain_groups (m : Nat) :
    (c.behindChain m).groups = c.groups ∧ (c.behindChain m).stopped = c.stopped := by
  obtain ⟨l, x, y, e⟩ := Core.bodyPass_eq (c := c.retire (1 + 2 * m)) m
  unfold Core.behindChain
  rw [e]
  simp

end

/-- The group of a CHAIN with the words ws behind it: its place, level, mode settings and Wc as core c had them, the
descriptors and broadcast words as core e has them (R102, R116, R137). -/
def chainGroup (c e : Core) (n : Nat) (wc : BitVec 5) (ws : List Word) : Group :=
  let body := pairsOf ws
  let l := bodyOf body
  let ds : Descs := fun t => descOf (e.descWords t)
  { chain := c.pc, n := n, body := body, len := elementCount ds l wc (c.wr wc)
    vmode := c.vm1, fmode := c.fm1, atM := c.cst.pl == .m
    descs := (bodyNames ds l).map (fun t => (t, e.descWords t))
    bcast := (List.range l.length).map (fun j => e.broadcasts (l.getD j none) (Check.run ds {} l)[j]?) }

/-- A CHAIN that nothing holds launches its group and goes on behind the body. -/
theorem execChain_launches {s s1 s2 s3 : State} {k : Nat} {n : BitVec 3} {wc : BitVec 5} {ws : List Word} (ready : Ready s k)
    (victim : (s.core k).victim = false) (prof : s.profT (s.core k) = true) (pend : (s.core k).vfc.getLsbD 18 = false)
    (stopped : (s.core k).stopped = []) (room : (s.core k).groups.length < 2) (body : n ≠ 0)
    (stores : s.drainStores k = .done s1)
    (fetch : s1.fetchWords k (s1.core k) ((s.core k).pc + 1) 0 (2 * n.toNat) = .ok s2 ws)
    (loads : s2.drainLoads k = .done s3 none) :
    execChain k n 0 wc s
      = .next ((s3.setCore k ((s3.core k).behindChain n.toNat)).launch k (chainGroup (s.core k) (s3.core k) n.toNat wc ws)) := by
  have pairs : n.toNat ≠ 0 := fun h => body (BitVec.eq_of_toNat_eq h)
  have notPend : (s.core k).pend = false := pend
  unfold execChain
  rw [State.instr_ready ready]
  simp only [victim, prof, notPend, stopped, Nat.not_le.mpr room, stores, fetch, loads, pairs, if_true, if_false, bne_self_eq_false,
    Bool.not_true, Bool.false_eq_true]
  rfl

/-- Whatever becomes of the group, the registers stand. -/
theorem BehindChain.launch {s : State} {k : Nat} {e : Core} {m : Nat} (g : Group) (h : BehindChain e m (s.core k)) :
    BehindChain e m ((s.launch k g).core k) := by
  obtain ⟨pc, vmode, fmode, scalars, vectors⟩ := h
  cases hp : g.plan with
  | error r =>
    obtain ⟨⟨v, core⟩, -⟩ := becomesCore_rejectGroup (s := s) (k := k) (g := g) (r.fault g)
    rw [launch_of_error hp, core]
    exact ⟨pc, vmode, fmode, scalars, vectors⟩
  | ok p =>
    by_cases hd : p.dots.isSome = true ∧ s.dotsWindow k g = false
    · obtain ⟨⟨v, core⟩, -⟩ := becomesCore_rejectGroup (s := s) (k := k) (g := g) (windowFault k p)
      rw [launch_of_noWindow hp hd, core]
      exact ⟨pc, vmode, fmode, scalars, vectors⟩
    · obtain ⟨⟨v, core⟩, -⟩ := becomesCore_launch hp hd
      rw [core]
      exact ⟨pc, vmode, fmode, scalars, vectors⟩

/-- Settles O20, by the three ways that launching the group of a CHAIN can go. -/
theorem chainIssue : Obligations.ChainIssue := by
  intro s s1 s2 s3 k n wc ws ready c m victim prof pend stopped room pairs stores fetch loads e body ds len rep _ unstopped
  let u := s3.setCore k (e.behindChain m)
  have atU : u.core k = e.behindChain m := State.core_setCore ..
  let g := chainGroup c e m wc ws
  obtain ⟨groups, empty⟩ := e.behindChain_groups m
  rw [← atU] at groups empty
  replace empty := empty.trans unstopped
  have runs : exec (.chain k n 0 wc) s = .next (u.launch k g) :=
    (exec_chain ..).trans (execChain_launches ready victim prof pend stopped room pairs stores fetch loads)
  obtain ⟨pc, ⟨vm1, vm2⟩, ⟨fm1, fm2⟩, ⟨w, a, f⟩, t, ac⟩ := BehindChain.launch g (atU ▸ e.behindChain_regs m rep)
  refine ⟨u.launch k g, runs, pc, vm1, vm2, fm1, fm2, w, a, f, t, ac, ?_⟩
  cases hp : g.plan with
  | error r =>
    rw [launch_of_error hp]
    obtain ⟨inFlight, st, vfe, -, vfc⟩ := rejectGroup_first (g := g) (r.fault g) empty rfl
    refine ⟨(g.halt 0).record (r.fault g), rfl, rfl, rfl, rfl, rfl, rfl, ?_⟩
    have plan : planOf ((g.halt 0).record (r.fault g)).ds body len = .error r := hp
    rw [plan]
    refine ⟨inFlight.trans groups, st, vfe, ?_⟩
    rw [vfc]
    simp [VFault.word, Reject.fault, b2n]
  | ok p =>
    by_cases hd : p.dots.isSome = true ∧ u.dotsWindow k g = false
    · rw [launch_of_noWindow hp hd]
      obtain ⟨inFlight, st, vfe, vfa, vfc⟩ := rejectGroup_first (g := g) (windowFault k p) empty rfl
      refine ⟨(g.halt 0).record (windowFault k p), rfl, rfl, rfl, rfl, rfl, rfl, ?_⟩
      have plan : planOf ((g.halt 0).record (windowFault k p)).ds body len = .ok p := hp
      obtain ⟨-, window⟩ := becomesCore_rejectGroup (s := u) (k := k) (g := g) (windowFault k p)
      rw [plan]
      dsimp only
      rw [if_pos ⟨hd.1, (window _).trans hd.2⟩]
      refine ⟨inFlight.trans groups, st, vfe, vfa, ?_⟩
      rw [vfc]
      simp [VFault.word, windowFault, b2n]
    · obtain ⟨⟨v, core⟩, window⟩ := becomesCore_launch hp hd
      have start : (g.launched (u.core k) p).vprog = 0 := by simp [Group.launched, g, chainGroup]
      refine ⟨g.launched (u.core k) p, rfl, rfl, rfl, start, rfl, rfl, ?_⟩
      have plan : planOf (g.launched (u.core k) p).ds body len = .ok p := hp
      rw [plan]
      dsimp only
      rw [if_neg fun h => hd ⟨h.1, (window _).symm.trans h.2⟩, core]
      refine ⟨empty, ?_, congrArg List.isEmpty groups⟩
      change (if (g.launched (u.core k) p).vprog < len then _ else _) = _
      simp only [start, groups, Nat.pos_iff_ne_zero, ite_not]

end Sys2Proof.Machine
end

section
/-! ## Exceptions entered, and the moves of vector state (R157, R158, R264-R267) -/

namespace Sys2Proof.Machine

open Sys2Proof.Safety

/-! ### Taking an exception (R266, R267) -/

theorem home_eq_homeLevel (c : Core) : c.cst.pl.home = homeLevel c := by
  unfold homeLevel
  cases c.cst.pl <;> rfl

theorem frameAt_saveRep (c : Core) (l : Priv) : frameAt c.saveRep l = frameAt c l := by
  unfold Core.saveRep
  cases c.rep <;> rfl

theorem ctx_saveRep (c : Core) : c.saveRep.ctx = c.ctx := by
  unfold Core.saveRep
  cases c.rep <;> rfl

theorem w30_saveRep (c : Core) (l : Priv) : c.saveRep.w30 l = c.w30 l := by
  unfold Core.saveRep
  cases c.rep <;> rfl

/-- CST in the frame has RPT where a REP is in progress (R227). -/
theorem cstWord_saveRep (c : Core) :
    c.saveRep.cstWord = ({ c.cst with rpt := c.cst.rpt || c.rep.isSome } : Cst).word c.resv.isSome := by
  unfold Core.saveRep
  cases h : c.rep
  · simp [Core.cstWord]
  · simp [Core.cstWord]

theorem frame_eq_frameWords (x : Exc) (cst : Word) : x.frame cst = frameWords x cst := rfl

section
variable {s : State} {k : Nat}

/-- A push that is allowed fails no check of the frame's words. -/
theorem frameOk_of_pushOk {l : Priv} (ok : PushOk s k l) : s.frameOk (s.core k) l (frameAt (s.core k) l) .w = true := by
  obtain ⟨-, -, words⟩ := ok
  unfold State.frameOk addrsFrom
  simp only [List.all_map, List.all_eq_true, List.mem_range]
  intro i hi
  dsimp only [Function.comp]
  obtain ⟨region, granted⟩ := words i hi
  rw [region, Bool.true_and, Bool.or_eq_true, beq_iff_eq]
  exact granted

/-- An allowed push that has room puts the frame into the store buffer behind every other store (R266 steps 2 and 3). -/
theorem pushFrame_of_pushOk {u : State} {l : Priv} {ws : List Word} (ok : PushOk s k l)
    (room : (s.onCore k Core.saveRep).room k (carry (splitAt 4 (addrsFrom (frameAt (s.core k) l) 8)) ws).length = .done u) :
    (s.onCore k Core.saveRep).pushFrame k l ws
      = .done (u.onCore k (fun c => c.enqueue (carry (splitAt 4 (addrsFrom (frameAt (s.core k) l) 8)) ws))) := by
  have inWindow : (s.onCore k Core.saveRep).frameOk (s.core k).saveRep l (frameAt (s.core k) l) .w = true := by
    have h := frameOk_of_pushOk ok
    unfold State.frameOk at h ⊢
    rw [ctx_saveRep]
    exact h
  obtain ⟨low, aligned, -⟩ := ok
  have atFrame : (s.core k).saveRep.base l + ((s.core k).saveRep.w30 l - 8).zeroExtend 40 = frameAt (s.core k) l :=
    frameAt_saveRep ..
  unfold State.pushFrame
  dsimp only
  rw [State.core_onCore, atFrame, w30_saveRep, inWindow, room, if_neg (by simp [low, aligned])]

/-- An entry finds its stores behind a buffer that holds some. -/
theorem Core.enqueue_ne_reset (c : Core) {es : List SbEntry} (h : es ≠ []) : c.enqueue es ≠ {} := by
  intro e
  have buffer : c.sbuf ++ es = [] := congrArg Core.sbuf e
  exact h (List.append_eq_nil_iff.mp buffer).2

theorem carry_ne_nil {l : List (List Nat)} (ws : List Word) (h : l ≠ []) : carry l ws ≠ [] := by
  cases l with
  | nil => exact absurd rfl h
  | cons x xs => simp [carry]

theorem splitAt_ne_nil {m : Nat} {l : List Nat} (h : l ≠ []) : splitAt m l ≠ [] := by
  cases l with
  | nil => exact absurd rfl h
  | cons a l =>
    unfold splitAt
    split
    · simp
    · split <;> simp

theorem frameStores_ne_nil (m : Nat) (a : Dbl) (ws : List Word) : carry (splitAt m (addrsFrom a 8)) ws ≠ [] :=
  carry_ne_nil _ (splitAt_ne_nil (by simp [addrsFrom]))

/-- What the entry of an exception makes of the special registers (R266 steps 4 and 5). -/
theorem Core.entered_special (c : Core) (x : Exc) :
    (c.entered x).w = SMap.set 0 c.w (wKey x.lvl 30) (SMap.get 0 c.w (wKey x.lvl 30) - 8)
      ∧ (if x.lvl = .m then (c.entered x).causeM = x.cause ∧ (c.entered x).causeS = c.causeS
         else (c.entered x).causeS = x.cause ∧ (c.entered x).causeM = c.causeM)
      ∧ (c.entered x).pc = (if x.lvl = .m then c.mevb else c.evb) + BitVec.ofNat 40 (16 * x.code) := by
  unfold Core.entered Core.setCause
  split
  next m => exact ⟨rfl, ⟨rfl, rfl⟩, by simp [Core.sync, Core.vbase, m]⟩
  next notM => exact ⟨rfl, ⟨rfl, rfl⟩, by simp [Core.sync, Core.vbase, notM]⟩

/-- What the entry of an exception leaves of the store buffer and the other registers. -/
theorem Core.entered_kept (c : Core) (x : Exc) :
    (c.entered x).sbuf = c.sbuf ∧ (c.entered x).a = c.a ∧ (c.entered x).am = c.am ∧ (c.entered x).f = c.f
      ∧ (c.entered x).t = c.t ∧ (c.entered x).ac = c.ac ∧ (c.entered x).groups = c.groups ∧ (c.entered x).rep = c.rep := by
  unfold Core.entered Core.setCause
  split <;> exact ⟨rfl, rfl, rfl, rfl, rfl, rfl, rfl, rfl⟩

/-- An exception whose push is allowed is entered. -/
theorem enters_of_pushOk {x : Exc} (ok : PushOk s k x.lvl) : Enters s k x (s.enter k x) := by
  unfold Enters
  intro es u room c
  have buffered : es ≠ [] := frameStores_ne_nil _ _ _
  have runs : s.enter k x = .next (u.setCore k ((c.enqueue es).entered x)) := by
    unfold State.enter
    dsimp only
    rw [State.core_onCore, cstWord_saveRep, frame_eq_frameWords, pushFrame_of_pushOk ok room]
    dsimp only [State.onCore]
    rw [State.core_setCore, State.setCore_setCore _ _ _ _ (.inl (Core.enqueue_ne_reset _ buffered))]
  obtain ⟨w, cause, pc⟩ := (c.enqueue es).entered_special x
  obtain ⟨stores, kept⟩ := (c.enqueue es).entered_kept x
  refine ⟨_, runs, stores, ?_, fun key other => ?_, cause, rfl, rfl, pc, kept⟩
  · rw [w, SMap.get_set_same]
    rfl
  · rw [w, SMap.get_set_other 0 _ _ other]
    rfl

theorem takes_takeExc (x : Exc) : Takes s k x (s.takeExc k x) := by
  intro t loads ok
  unfold State.takeExc
  rw [loads]
  exact enters_of_pushOk ok

/-- ILLEGAL is taken at the home level, at the instruction (R240, R264). -/
theorem takes_illegal : Takes s k { code := 1, lvl := homeLevel (s.core k), ret := (s.core k).pc } (s.illegal k) := by
  rw [← home_eq_homeLevel]
  exact takes_takeExc _

/-! ### What the moves share (R156-R158, R191) -/

theorem needT_of_prof (prof : s.profT (s.core k) = true) (body : Out) : s.needT k true body = body := by
  simp [State.needT, prof]

theorem needT_of_illegal (body : Out) : s.needT k false body = s.illegal k := rfl

/-- With no group in flight and no fault to deliver, an instruction that waits for groups runs. -/
theorem afterGroups_of_idle {c : Core} (victim : c.victim = false) (groups : c.groups = []) (pend : c.vfc.getLsbD 18 = false)
    (wait body : Out) : s.afterGroups k c wait body = body := by
  have notPend : c.pend = false := pend
  simp [State.afterGroups, victim, groups, notPend]

/-- A word moved to Wd by an instruction of one word. -/
theorem gives_moved (ready : Ready s k) (d : BitVec 5) (v : Word) :
    Gives s k 1 (s.done k (((s.core k).retire 1).setW d v)) (Writes (s.core k) d v (s.core k).cst false) := by
  have h := move_gives (len := 1) (d := d) (f := fun _ => v) ready rfl
  rwa [State.move, State.instr_ready ready] at h

end

/-! ### The moves -/

section
variable {s : State} {k : Nat}

/-- A descriptor word as MFT reads it: the reserved bits of words 4 and 7 read 0 (R89). -/
def Core.descRead (c : Core) (t : BitVec 4) (w : BitVec 3) : Word :=
  let v := SMap.get 0 c.t (8 * t.toNat + w.toNat)
  if w = 7 then 0 else if w = 4 then v &&& 0x3FFFF else v

theorem execMft_gives (ready : Ready s k) (prof : s.profT (s.core k) = true) (d : BitVec 5) (t : BitVec 4) (w : BitVec 3) :
    Gives s k 1 (execMft k d t w s) (Writes (s.core k) d ((s.core k).descRead t w) (s.core k).cst false) := by
  unfold execMft
  rw [State.instr_ready ready]
  dsimp only
  rw [needT_of_prof prof]
  exact gives_moved ready d _

theorem execMtac_illegal (ready : Ready s k) (m : BitVec 2) (l : BitVec 3) (rs : BitVec 5) :
    execMtac k m l 3 rs s = s.illegal k := by
  unfold execMtac
  rw [State.instr_ready ready]
  exact needT_of_illegal _

theorem execMfac_illegal (ready : Ready s k) (d : BitVec 5) (m : BitVec 2) (l : BitVec 3) :
    execMfac k d m l 3 s = s.illegal k := by
  unfold execMfac
  rw [State.instr_ready ready]
  exact needT_of_illegal _

/-- Settles O21: MTT and MFT run at once, MTAC and MFAC once no group holds them, and p = 11 takes ILLEGAL. -/
theorem vectorStateMoves : Obligations.VectorStateMoves := by
  intro s k d rs t w l m p ready prof c v key lane x others
  have unchanged : others (c.retire 1) := by simp [others]
  have passed : (c.retire 1).pc = c.pc + BitVec.ofNat 40 1 := Core.retire_pc c 1 ready.2.2
  refine ⟨?mtt, fun plain => ?mft, execMft_gives ready prof d t 4, execMft_gives ready prof d t 7,
    fun victim groups pend part => ⟨?mtac, ?mfac⟩, ?mtac3, ?mfac3⟩
  case mtt =>
    rw [exec_mtt]
    unfold execMtt
    rw [State.instr_ready ready, needT_of_prof prof]
    exact ⟨_, rfl, passed, SMap.get_set_same .., c.retire_ac 1, unchanged, fun i hi => SMap.get_set_other 0 _ _ hi⟩
  case mft =>
    have w7 : w ≠ 7 := by rintro rfl; simp at plain
    have w4 : w ≠ 4 := by rintro rfl; simp at plain
    have whole : c.descRead t w = v := by simp only [Core.descRead, if_neg w7, if_neg w4, v]
    exact whole ▸ execMft_gives ready prof d t w
  case mtac =>
    rw [exec_mtac]
    unfold execMtac
    rw [State.instr_ready ready, bne_iff_ne.mpr part, needT_of_prof prof, afterGroups_of_idle victim groups pend]
    exact ⟨_, rfl, passed, SMap.get_set_same .., c.retire_t 1, unchanged, fun i hi => SMap.get_set_other 0 _ _ hi⟩
  case mfac =>
    rw [exec_mfac]
    unfold execMfac
    rw [State.instr_ready ready, bne_iff_ne.mpr part, needT_of_prof prof, afterGroups_of_idle victim groups pend]
    exact gives_moved ready d _
  case mtac3 =>
    rw [exec_mtac, execMtac_illegal ready]
    exact takes_illegal
  case mfac3 =>
    rw [exec_mfac, execMfac_illegal ready]
    exact takes_illegal

end

end Sys2Proof.Machine
end

section
/-! ## Steps of groups (R117, R119, R120, R160) -/

namespace Sys2Proof

/-! ### A sparse table changed entry by entry -/

theorem SMap.map_cons {α : Type} [DecidableEq α] (d : α) (f : Nat → α → α) (a : Nat) (v : α) (m : SMap α) :
    SMap.map d ((a, v) :: m) f = if f a v = d then SMap.map d m f else (a, f a v) :: SMap.map d m f := by
  unfold SMap.map
  by_cases h : f a v = d <;> simp [h]

/-- An entry of a changed table, where the change leaves the entry that an unlisted key has. -/
theorem SMap.get_map_of_wfFrom {α : Type} [DecidableEq α] {d : α} {f : Nat → α → α} (hf : ∀ i, f i d = d) {m : SMap α} {lo : Nat}
    (wf : SMap.wfFrom d lo m = true) (i : Nat) : SMap.get d (SMap.map d m f) i = f i (SMap.get d m i) := by
  induction m generalizing lo with
  | nil => exact (hf i).symm
  | cons e m ih =>
    obtain ⟨a, v⟩ := e
    obtain ⟨-, -, rest⟩ := (SMap.wfFrom_cons ..).mp wf
    rw [SMap.map_cons]
    by_cases here : a = i
    · subst here
      have absent : SMap.get d (SMap.map d m f) a = d :=
        SMap.get_of_wfFrom d _ (a + 1) a (SMap.wfFrom_map d f m _ rest) (Nat.lt_succ_self a)
      split
      next dropped => simp [SMap.get, absent, dropped]
      next => simp [SMap.get]
    · split <;> simp [SMap.get, here, ih rest]

end Sys2Proof

namespace Sys2Proof.Machine

open Sys2Proof.Safety

/-! ### What reading leaves: the cores and the stored words (R28, R349, R351) -/

/-- t has the cores and the stored words of s: between them nothing has been written. -/
structure Unwritten (s t : State) : Prop where
  cores : t.cores = s.cores
  mem : t.mem = s.mem

/-- The state of a gate. -/
def Gate.state : Gate → State
  | .go t => t
  | .wait t => t
  | .refuse t => t

/-- The state of an element's read. -/
def ElRead.state : ElRead → State
  | .hold t => t
  | .bad t _ _ => t
  | .got t _ => t

section
variable {s t : State} (h : Unwritten s t)

theorem Unwritten.refl (s : State) : Unwritten s s := ⟨rfl, rfl⟩

include h

theorem Unwritten.core (k : Nat) : t.core k = s.core k := by rw [State.core, h.cores, State.core]

theorem Unwritten.countCe (u : Nat) : Unwritten s (t.countCe u) := ⟨h.cores, h.mem⟩

theorem Unwritten.countUe (u : Nat) : Unwritten s (t.countUe u) := ⟨h.cores, h.mem⟩

/-- A block put back changes HBM, which holds none of the stored words of SRAM. -/
theorem Unwritten.putBlock (n b : Nat) (x : BitVec 512) : Unwritten s (t.putBlock n b x) := ⟨h.cores, h.mem⟩

theorem Unwritten.logAt (kind : Nat) (who : LogWho) (a : Nat) (l : Loc) (syn : Word) : Unwritten s (t.logAt kind who a l syn) := by
  unfold State.logAt State.logEvent
  dsimp only
  split <;> exact ⟨h.cores, h.mem⟩

theorem Unwritten.regionGate (who : LogWho) (n a : Nat) (l : Loc) : Unwritten s (t.regionGate who n a l).state := by
  unfold State.regionGate
  split
  case isTrue => exact h.logAt ..
  case isFalse =>
    split
    case h_3 => exact h.logAt ..
    case h_1 => split <;> exact ⟨h.cores, h.mem⟩
    all_goals exact ⟨h.cores, h.mem⟩

theorem Unwritten.gate (who : LogWho) (a : Nat) (l : Loc) : Unwritten s (t.gate who a l).state := by
  cases l with
  | region n off => exact h.regionGate ..
  | coef k off =>
    unfold State.gate
    dsimp only
    split
    · exact h.logAt ..
    · exact h.regionGate ..
  | hbm n off =>
    unfold State.gate
    dsimp only
    split
    · exact h.logAt ..
    · exact h
  | ctx off => exact h
  | regs off => exact h
  | none => exact h

theorem Unwritten.readSram (who : LogWho) (a : Nat) (l : Loc) : Unwritten s (t.readSram who a l).1 := by
  unfold State.readSram
  dsimp only
  split
  · split
    · exact h
    · dsimp only
      split
      · exact (h.countCe _).logAt ..
      · exact h.countCe _
  all_goals
    dsimp only
    exact (h.countUe _).logAt ..

theorem Unwritten.blockFixed (who : LogWho) (a : Nat) (l : Loc) (n : Nat) : Unwritten s (t.blockFixed who a l n) := by
  unfold State.blockFixed
  split
  · exact h
  · exact (h.countCe _).logAt ..

theorem Unwritten.readBlock (who : LogWho) (n b a : Nat) (quiet : Bool) : Unwritten s (t.readBlock who n b a quiet).1 := by
  unfold State.readBlock
  dsimp only
  split
  · split
    · exact h
    · dsimp only
      split
      · exact (h.blockFixed ..).putBlock ..
      · exact h.blockFixed ..
  · split
    · exact h
    · dsimp only
      split
      · exact (((h.blockFixed ..).countUe _).logAt ..).putBlock ..
      · exact ((h.blockFixed ..).countUe _).logAt ..
  · dsimp only
    split
    · exact h
    · exact (h.countUe _).logAt ..

theorem Unwritten.readLoc (who : LogWho) (a : Nat) (l : Loc) (quiet : Bool) : Unwritten s (t.readLoc who a l quiet).1 := by
  cases l with
  | hbm n off => exact h.readBlock ..
  | region n off => exact h.readSram ..
  | ctx off => exact h.readSram ..
  | coef k off => exact h.readSram ..
  | regs off => exact h
  | none => exact h

end

/-- The state of a pair. -/
theorem Unwritten.of_fst {α : Type} {s t : State} {p : State × α} {x : α} (e : p = (t, x)) (h : Unwritten s p.1) : Unwritten s t := by
  rwa [e] at h

theorem Unwritten.of_gate {s t : State} {r : Gate} (e : r = .go t ∨ r = .wait t ∨ r = .refuse t) (h : Unwritten s r.state) : Unwritten s t := by
  rcases e with rfl | rfl | rfl <;> exact h

theorem Unwritten.of_elRead {s t : State} {r : ElRead} (e : r = .hold t ∨ (∃ c a, r = .bad t c a) ∨ ∃ l, r = .got t l)
    (h : Unwritten s r.state) : Unwritten s t := by
  rcases e with rfl | ⟨c, a, rfl⟩ | ⟨l, rfl⟩ <;> exact h

/-! ### What the stream engine's reads leave -/

section
variable {s t : State} {k : Nat}

theorem Unwritten.readWordsOf (h : Unwritten s t) (ctx : Nat) (atM : Bool) (l : List Int) :
    Unwritten s (t.readWordsOf k ctx atM l).state := by
  induction l generalizing t with
  | nil => exact h
  | cons a l ih =>
    unfold State.readWordsOf
    extract_lets here
    have first : Unwritten s here.state := by
      unfold here
      split
      next => exact h
      next =>
        have passed := h.gate (0, k) a.toNat (t.locOf a.toNat)
        split
        next e => exact .of_gate (.inr (.inl e)) passed
        next e => exact .of_gate (.inr (.inr e)) passed
        next u e =>
          have read := (Unwritten.of_gate (.inl e) passed).readLoc (0, k) a.toNat (u.locOf a.toNat) false
          split
          next e => exact .of_fst e read
          next e => exact .of_fst e read
    clear_value here
    cases here with
    | hold u => exact first
    | bad u c b =>
      have rest : Unwritten s (u.readWordsOf k ctx atM l).state := ih first
      dsimp only
      cases e : u.readWordsOf k ctx atM l <;> rwa [e] at rest
    | got u v =>
      have rest : Unwritten s (u.readWordsOf k ctx atM l).state := ih first
      dsimp only
      cases e : u.readWordsOf k ctx atM l <;> rwa [e] at rest

theorem Unwritten.readEls (h : Unwritten s t) (g : Group) (j i n : Nat) : Unwritten s (t.readEls k g j i n).1 := by
  induction n generalizing t i with
  | zero => exact h
  | succ n ih =>
    unfold State.readEls
    extract_lets d x here
    have first : Unwritten s here.1 := by
      unfold here
      cases x with
      | none => exact h
      | some x =>
        have read := h.readWordsOf (k := k) (t.core k).groupCtx g.atM (d.words i x)
        dsimp only
        cases e : t.readWordsOf k (t.core k).groupCtx g.atM (d.words i x) <;> rwa [e] at read
    clear_value here
    obtain ⟨u, _ | e⟩ := here
    · exact first
    · have rest := ih first (i + 1)
      dsimp only
      split
      next e => exact .of_fst e rest
      next e => exact .of_fst e rest

theorem Unwritten.turn (h : Unwritten s t) (g : Group) (p : Plan) (j : Nat) : Unwritten s (t.turn k g p j).1 := by
  unfold State.turn
  extract_lets d i n held ready
  split
  · exact h
  · have read := h.readEls (k := k) g j i n
    split
    next e => exact .of_fst e read
    next e => exact .of_fst e read

theorem Unwritten.turns (h : Unwritten s t) (g : Group) (p : Plan) (l : List Nat) : Unwritten s (t.turns k g p l).1 := by
  induction l generalizing t g with
  | nil => exact h
  | cons j l ih => exact ih (h.turn g p j) _

/-! ### What a step's computation leaves -/

theorem Unwritten.faultLog (h : Unwritten s t) (f : VFault) : Unwritten s (t.faultLog k f) := by
  unfold State.faultLog
  split
  · have refused := h.gate (0, k) f.va (t.locOf f.va)
    split
    next e => exact .of_gate (.inr (.inr e)) refused
    next => exact h
  · exact h

theorem Unwritten.stepElements (h : Unwritten s t) (g : Group) (p : Plan) (n : Nat) : Unwritten s (t.stepElements k g p n).1 := by
  induction n generalizing g with
  | zero => exact h
  | succ n ih =>
    unfold State.stepElements
    dsimp only
    split
    · exact h
    · split
      · exact h.faultLog _
      · exact ih _

theorem Unwritten.laneSum (h : Unwritten s t) (ef : BitVec 2) (l : List (Nat × Int)) (x : Int) :
    Unwritten s (t.laneSum k ef l x).1 := by
  induction l generalizing t x with
  | nil => exact h
  | cons w l ih =>
    obtain ⟨off, y⟩ := w
    have read : Unwritten s (t.coefRead k off).1 := h.readSram ..
    unfold State.laneSum
    split
    next e => exact .of_fst e read
    next e => exact ih (.of_fst e read) _

theorem Unwritten.laneSums (h : Unwritten s t) (ef : BitVec 2) (c : Nat) (ab : List (Nat × Int)) (l n : Nat) :
    Unwritten s (t.laneSums k ef c ab l n).1 := by
  induction n generalizing t l with
  | zero => exact h
  | succ n ih =>
    have lane := h.laneSum (k := k) ef (ab.map (fun p => (2048 * l + c + p.1, p.2))) 0
    unfold State.laneSums
    split
    next e => exact .of_fst e lane
    next e =>
      have rest := ih (.of_fst e lane) (l + 1)
      split
      next e => exact .of_fst e rest
      next e => exact .of_fst e rest

theorem Unwritten.stepDots (h : Unwritten s t) (g : Group) (p : Plan) (kd cb ta tb sg : Nat) (ef sat : BitVec 2) :
    Unwritten s (t.stepDots k g p kd cb ta tb sg ef sat).1 := by
  unfold State.stepDots
  extract_lets i unit seg pos pre post
  split
  next => exact h
  next => exact h.faultLog _
  next o ab rd _ =>
    extract_lets xs
    have sums := h.laneSums (k := k) ef (16 * cb + 2 * (i - seg)) xs 0 8
    split
    next e => exact .of_fst e sums
    next u l e =>
      have summed : Unwritten s u := .of_fst e sums
      dsimp only
      split
      · exact summed
      · split
        · exact summed
        · exact summed.faultLog _
        · exact summed

end

/-! ### What a step leaves of its group (R117, R160) -/

/-- h is g up to n elements further: its count of committed elements and what CHAIN latched stand, and its results on
their way stand before any that it has added. -/
structure StepsTo (n : Nat) (g h : Group) : Prop where
  vprog : h.vprog = g.vprog
  len : h.len = g.len
  chain : h.chain = g.chain
  descs : h.descs = g.descs
  notBack : g.pos ≤ h.pos
  bound : h.pos ≤ g.pos + n
  outq : g.outq <+: h.outq

theorem StepsTo.refl (n : Nat) (g : Group) : StepsTo n g g := ⟨rfl, rfl, rfl, rfl, Nat.le_refl _, Nat.le_add_right .., List.prefix_rfl⟩

theorem StepsTo.trans {m n : Nat} {g h j : Group} (a : StepsTo m g h) (b : StepsTo n h j) : StepsTo (m + n) g j :=
  ⟨b.vprog.trans a.vprog, b.len.trans a.len, b.chain.trans a.chain, b.descs.trans a.descs, Nat.le_trans a.notBack b.notBack,
    Nat.le_trans b.bound (by have := a.bound; omega), a.outq.trans b.outq⟩

theorem StepsTo.mono {m n : Nat} {g h : Group} (a : StepsTo m g h) (le : m ≤ n) : StepsTo n g h :=
  { a with bound := Nat.le_trans a.bound (by omega) }

theorem stepsTo_failAt (n : Nat) (g : Group) (f : VFault) : StepsTo n g (g.failAt f) :=
  ⟨rfl, rfl, rfl, rfl, Nat.le_refl _, Nat.le_add_right .., List.prefix_append ..⟩

theorem stepsTo_turn {s : State} {k : Nat} (g : Group) (p : Plan) (j : Nat) : StepsTo 0 g (s.turn k g p j).2 := by
  unfold State.turn
  extract_lets d i n held ready
  split
  · exact .refl 0 g
  · split <;> exact ⟨rfl, rfl, rfl, rfl, Nat.le_refl _, Nat.le_refl _, List.prefix_rfl⟩

theorem stepsTo_turns {s : State} {k : Nat} (g : Group) (p : Plan) (l : List Nat) : StepsTo 0 g (s.turns k g p l).2 := by
  induction l generalizing s g with
  | nil => exact .refl 0 g
  | cons j l ih => exact (stepsTo_turn g p j).trans (ih _)

/-- An element whose results go on their way. -/
theorem stepsTo_element (g : Group) (p : Plan) (o : ElemOut) (bad : Bool) :
    StepsTo 1 g ({ g with outq := g.outq ++ [o], unpred := bad }.moveTo p (g.pos + 1)) :=
  ⟨rfl, rfl, rfl, rfl, Nat.le_succ _, Nat.le_refl _, List.prefix_append ..⟩

theorem stepsTo_stepElements {s : State} {k : Nat} (g : Group) (p : Plan) (n : Nat) : StepsTo n g (s.stepElements k g p n).2 := by
  induction n generalizing g with
  | zero => exact .refl 0 g
  | succ n ih =>
    unfold State.stepElements
    dsimp only
    split
    · exact .refl _ g
    · split
      · exact stepsTo_failAt ..
      · exact ((stepsTo_element g p _ _).trans (ih _)).mono (by omega)

theorem stepsTo_stepDots {s : State} {k : Nat} (g : Group) (p : Plan) (kd cb ta tb sg : Nat) (ef sat : BitVec 2) :
    StepsTo 8 g (s.stepDots k g p kd cb ta tb sg ef sat).2 := by
  unfold State.stepDots
  extract_lets i unit seg pos pre post
  split
  next => exact .refl 8 g
  next => exact stepsTo_failAt ..
  next o ab rd _ =>
    extract_lets xs
    split
    next => exact stepsTo_failAt ..
    next =>
      dsimp only
      split
      · exact ⟨rfl, rfl, rfl, rfl, Nat.le_add_right .., Nat.le_refl _, List.prefix_rfl⟩
      · split
        · exact .refl 8 g
        · exact ⟨rfl, rfl, rfl, rfl, Nat.le_refl _, Nat.le_add_right .., List.prefix_append ..⟩
        · exact ⟨rfl, rfl, rfl, rfl, Nat.le_add_right .., Nat.le_refl _, List.prefix_append ..⟩

/-- G of R117 is 8 at most. -/
theorem planOf_g_le {ds : Descs} {body : List (Word × Word)} {len : Nat} {p : Plan} (h : planOf ds body len = .ok p) : p.g ≤ 8 := by
  unfold planOf at h
  dsimp only at h
  split at h
  · cases h
  · split at h
    · cases h
    · split at h
      · cases h
      · cases h
        dsimp only
        split
        · exact Nat.le_refl _
        · split
          · decide
          · split <;> decide

theorem planD_g_le (g : Group) : g.planD.g ≤ 8 := by
  unfold Group.planD
  split
  next p e => exact planOf_g_le e
  next => exact Nat.le_refl _

theorem stepLen_le (g : Group) : g.stepLen g.planD ≤ 8 := by
  have := planD_g_le g
  unfold Group.stepLen
  omega

/-! ### A step of a group -/

/-- A step of group g of cluster k, before the words of a group that has become unpredictable take free values: its read
positions take their turns, and the elements go whose words have arrived. -/
def State.stepped (s : State) (k : Nat) (g : Group) : State × Group :=
  let p := g.planD
  let n := g.stepLen p
  let q := s.turns k g p p.positions
  match p.dots with
  | some (kd, cb, ta, tb, sg, ef, sat) => q.1.stepDots k q.2 p kd cb ta tb sg ef sat
  | none => if (List.range n).all (fun j => (q.2.inputs p (g.pos + j)).isSome) then q.1.stepElements k q.2 p n else q

/-- A group put back at position i of the groups of cluster k. -/
def State.putGroup (s : State) (k i : Nat) (g : Group) : State := s.onCore k (fun c => { c with groups := c.groups.set i g })

section
variable {s : State} {k : Nat}

theorem stepGroup_eq (g : Group) (put : State → Group → State) :
    s.stepGroup k g put =
      let r := s.stepped k g
      put (if r.2.unpred && !g.unpred then r.1.scramble (g.wrote.map (fun w => w.2.1)) else r.1) r.2 := rfl

theorem unwritten_stepped (s : State) (k : Nat) (g : Group) : Unwritten s (s.stepped k g).1 := by
  have turned := (Unwritten.refl s).turns (k := k) g g.planD g.planD.positions
  unfold State.stepped
  dsimp only
  split
  · exact turned.stepDots ..
  · split
    · exact turned.stepElements ..
    · exact turned

theorem stepsTo_stepped (s : State) (k : Nat) (g : Group) : StepsTo 8 g (s.stepped k g).2 := by
  have turned := stepsTo_turns (s := s) (k := k) g g.planD g.planD.positions
  unfold State.stepped
  dsimp only
  split
  · exact turned.trans (stepsTo_stepDots ..)
  · split
    · exact (turned.trans (stepsTo_stepElements ..)).mono (Nat.zero_add _ ▸ stepLen_le g)
    · exact turned.mono (by decide)

/-! ### Words that take free values (R110) -/

/-- A core without a reservation on a word. -/
def Core.dropResv (c : Core) (a : Nat) : Core := if c.resv = some a then { c with resv := none } else c

theorem Core.dropResv_eq (c : Core) (a : Nat) : ∃ x, c.dropResv a = { c with resv := x } := by
  unfold Core.dropResv
  split
  · exact ⟨none, rfl⟩
  · exact ⟨c.resv, rfl⟩

theorem cores_clearResv (a : Nat) : (s.clearResv a).cores = SMap.map {} s.cores (fun _ c => c.dropResv a) := rfl

theorem wf_clearResv (wf : SMap.wf {} s.cores = true) (a : Nat) : SMap.wf {} (s.clearResv a).cores = true := by
  rw [cores_clearResv]
  exact SMap.wf_map _ _ _ wf

theorem core_clearResv (wf : SMap.wf {} s.cores = true) (a : Nat) : (s.clearResv a).core k = (s.core k).dropResv a := by
  rw [State.core, cores_clearResv]
  exact SMap.get_map_of_wfFrom (fun _ => rfl) wf k

theorem cores_writeBoard (n off : Nat) (v : Word) (c : Bool) :
    (s.writeBoard n off v c).cores = (s.clearResv (0x800000 * n + off)).cores := by
  unfold State.writeBoard
  dsimp only
  split <;> rfl

/-- Words that take free values change nothing of a core but its reservation, which a write of its word clears (R233). -/
theorem core_scramble (wf : SMap.wf {} s.cores = true) (l : List Nat) :
    ∃ x, (s.scramble l).core k = { s.core k with resv := x } := by
  induction l generalizing s with
  | nil => exact ⟨(s.core k).resv, rfl⟩
  | cons a l ih =>
    unfold State.scramble
    dsimp only
    split
    next n off _ =>
      let d := (s.draw 20).2
      have cores := cores_writeBoard (s := d) n off (s.draw 20).1 true
      have written : (d.writeBoard n off (s.draw 20).1 true).core k = (s.core k).dropResv (0x800000 * n + off) := by
        rw [State.core, cores]
        exact core_clearResv (s := d) wf _
      obtain ⟨x, cleared⟩ := (s.core k).dropResv_eq (0x800000 * n + off)
      obtain ⟨y, rest⟩ := ih (s := d.writeBoard n off (s.draw 20).1 true) (cores ▸ wf_clearResv (s := d) wf _)
      exact ⟨y, by rw [rest, written, cleared]⟩
    next => exact ih wf

/-! ### What a step leaves of the cluster -/

/-- A step puts its group in its place and leaves the rest of the core, a reservation apart that a word with a free value
clears; while the group's result is predictable, it writes nothing. -/
theorem stepGroup_putGroup (canon : Canonical s) (g : Group) (i : Nat) :
    ∃ h x, (s.stepGroup k g (fun t => t.putGroup k i)).core k
        = { s.core k with groups := (s.core k).groups.set i h, resv := x }
      ∧ StepsTo 8 g h ∧ (h.unpred = g.unpred → (s.stepGroup k g (fun t => t.putGroup k i)).mem = s.mem) := by
  have unwritten := unwritten_stepped s k g
  rw [stepGroup_eq]
  dsimp only
  split
  next free =>
    obtain ⟨x, core⟩ := core_scramble (k := k) (unwritten.cores ▸ canon.cores) (g.wrote.map (fun w => w.2.1))
    refine ⟨(s.stepped k g).2, x, ?_, stepsTo_stepped s k g, fun same => ?_⟩
    · rw [State.putGroup, State.core_onCore, core, unwritten.core]
    · simp [same] at free
  next =>
    refine ⟨(s.stepped k g).2, (s.core k).resv, ?_, stepsTo_stepped s k g, fun _ => unwritten.mem⟩
    rw [State.putGroup, State.core_onCore, unwritten.core]

theorem execGroupStep_oldest {g : Group} {l : List Group} (on : s.clusterOn k = true) (groups : (s.core k).groups = g :: l)
    (step : g.canStep = true) : execGroupStep k s = .next (s.stepGroup k g (fun t => t.putGroup k 0)) := by
  unfold execGroupStep
  simp only [on, groups, step]
  rfl

theorem execGroupStep_younger {o y : Group} {l : List Group} (on : s.clusterOn k = true) (groups : (s.core k).groups = o :: y :: l)
    (held : o.canStep = false) (step : y.canStep = true) (victim : (s.core k).victim = false) :
    execGroupStep k s = .next (s.stepGroup k y (fun t => t.putGroup k 1)) := by
  unfold execGroupStep
  simp only [on, groups, held, step, victim]
  rfl

theorem execQueuedGroupStart_alone {g : Group} (on : s.clusterOn k = true) (groups : (s.core k).groups = [g])
    (queued : g.running = false) :
    execQueuedGroupStart k s
      = .next (s.setCore k { s.core k with groups := [{ g with running := true, acs := (s.core k).ac }] }) := by
  unfold execQueuedGroupStart
  simp only [on, groups, queued]
  rfl

theorem execQueuedGroupStart_behind {o y : Group} (on : s.clusterOn k = true) (groups : (s.core k).groups = [o, y])
    (queued : y.running = false) (victim : (s.core k).victim = false) (may : mayStart o y = true) :
    execQueuedGroupStart k s
      = .next (s.setCore k { s.core k with groups := [o, { y with running := true, acs := (s.core k).ac }] }) := by
  unfold execQueuedGroupStart
  simp only [on, groups, queued, victim, may]
  rfl

end

/-- Settles O22, by what a step leaves of its group and of its core. -/
theorem groupSteps : Obligations.GroupSteps := by
  intro s k g o y l canon on c
  refine ⟨execQueuedGroupStart_alone on, execQueuedGroupStart_behind on, fun groups step => ?_,
    fun groups held step victim => ?_⟩
  · obtain ⟨h, x, core, ⟨vprog, len, chain, descs, notBack, bound, outq⟩, mem⟩ := stepGroup_putGroup (k := k) canon g 0
    obtain ⟨q, more⟩ := outq
    rw [groups] at core
    refine ⟨_, h, l, execGroupStep_oldest on groups step, ?_, vprog, len, chain, descs, notBack, bound, ⟨q, more.symm⟩, ?_, ?_, ?_,
      fun same => ⟨rfl, mem same⟩⟩ <;> rw [core]
    rfl
  · obtain ⟨h, x, core, steps, mem⟩ := stepGroup_putGroup (k := k) canon y 1
    rw [groups] at core
    refine ⟨_, o, h, l, execGroupStep_younger on groups held step victim, ?_, steps.vprog, steps.notBack, steps.bound, ?_,
      fun same => ⟨rfl, rfl, mem same⟩⟩ <;> rw [core]
    rfl

end Sys2Proof.Machine
end

section
/-! ## NOP, SYNC, ISYNC and VBAR (R156, R220, R225, R252)

SYNC and ISYNC wait until the store buffer is empty. What a drain performs can be a store to any register, so the buffer
empties only because nothing that such a store sets off puts an entry into a buffer or unbinds a core. -/

namespace Sys2Proof

/-- A change of every listed entry keeps one that it does not make the default, whatever else the table lists. -/
theorem SMap.get_map_of_ne {α : Type} [DecidableEq α] {d : α} {f : Nat → α → α} (hf : ∀ i, f i d = d) {m : SMap α}
    {i : Nat} (h : f i (SMap.get d m i) ≠ d) : SMap.get d (SMap.map d m f) i = f i (SMap.get d m i) := by
  induction m with
  | nil => exact absurd (hf i) h
  | cons e m ih =>
    obtain ⟨a, v⟩ := e
    rw [SMap.map_cons]
    by_cases here : a = i
    · subst here
      simp only [SMap.get, if_true] at h ⊢
      simp [h, SMap.get]
    · simp only [SMap.get, here, if_false] at h ⊢
      split <;> simp [SMap.get, here, ih h]

end Sys2Proof

namespace Sys2Proof.Machine

open Sys2Proof.Safety

/-! ### What a store leaves of a core -/

/-- The stores that wait in a core's buffer, and the context that it runs. -/
def Core.stores (c : Core) : List SbEntry × Option Nat := (c.sbuf, c.bound)

/-- The same of core j. -/
def State.storesOf (s : State) (j : Nat) : List SbEntry × Option Nat := (s.core j).stores

section
variable {c : Core}

theorem Core.stores_eq {d : Core} (buffer : d.sbuf = c.sbuf) (bound : d.bound = c.bound) : d.stores = c.stores :=
  Prod.ext buffer bound

@[simp] theorem Core.stores_setW (n : BitVec 5) (v : Word) : (c.setW n v).stores = c.stores :=
  stores_eq (c.setW_sbuf n v) (c.setW_bound n v)

@[simp] theorem Core.stores_setStop : c.setStop.stores = c.stores := by unfold Core.setStop; split <;> rfl

@[simp] theorem Core.stores_writeVprog (v : Word) : (c.writeVprog v).stores = c.stores := by
  unfold Core.writeVprog
  split
  · rfl
  · split <;> rfl

@[simp] theorem Core.stores_writeVfc (v : Word) : (c.writeVfc v).stores = c.stores := by unfold Core.writeVfc; split <;> rfl

@[simp] theorem Core.stores_setWctl (pl : Priv) (v : Word) : (c.setWctl pl v).stores = c.stores := by
  unfold Core.setWctl
  split
  · rfl
  · extract_lets w d
    split <;> rfl

/-- A control register that run control writes. -/
@[simp] theorem Core.stores_rcCtl (n : Nat) (v : Word) : (c.rcCtl n v).stores = c.stores := by
  unfold Core.rcCtl
  split
  case h_2 => exact stores_writeVprog v
  case h_10 => exact stores_writeVfc v
  case h_18 => exact stores_setWctl .m v
  all_goals rfl

@[simp] theorem Core.stores_rcWrite (sel : Word) (v : Dbl) : (c.rcWrite sel v).stores = c.stores := by
  unfold Core.rcWrite
  dsimp only
  split
  case h_1 =>
    split
    · exact stores_setW ..
    · rfl
  case h_5 =>
    split
    · exact stores_rcCtl ..
    · rfl
  case h_6 | h_8 => rfl
  all_goals split <;> rfl

@[simp] theorem Core.stores_rcCmd (op : Nat) : (c.rcCmd op).stores = c.stores := by
  unfold Core.rcCmd
  repeat' split
  all_goals rfl

@[simp] theorem Core.stores_regWrite (off : Nat) (v : Word) (mpost : Bool) : (c.regWrite off v mpost).stores = c.stores := by
  unfold Core.regWrite
  split
  case h_1 => exact stores_rcCmd _
  case h_3 | h_4 =>
    split
    · exact stores_rcWrite ..
    · rfl
  case h_5 | h_6 | h_16 => split <;> rfl
  all_goals rfl

end

section
variable {s t : State} {j : Nat}

theorem Unwritten.storesOf (h : Unwritten s t) : t.storesOf j = s.storesOf j := congrArg Core.stores (h.core j)

theorem storesOf_of_cores (h : t.cores = s.cores) : t.storesOf j = s.storesOf j := by
  rw [State.storesOf, State.core, h, State.storesOf, State.core]

theorem storesOf_onCore {k : Nat} {f : Core → Core} (hf : ∀ c, (f c).stores = c.stores) :
    (s.onCore k f).storesOf j = s.storesOf j := by
  unfold State.storesOf
  by_cases here : j = k
  · rw [here, State.core_onCore, hf]
  · rw [State.core, State.onCore, State.setCore, SMap.get_set_other _ _ _ here, State.core]

/-- A record update that leaves the cores. -/
@[simp] theorem storesOf_upd {pending draws regions mem hbm walkers walkWb sched dmas ports lnk ptp timers pip host int rolls pwr
    dev dbg monU monM fabrics keeper outs} :
    State.storesOf ⟨pending, draws, s.cores, regions, mem, hbm, walkers, walkWb, sched, dmas, ports, lnk, ptp, timers, pip, host,
      int, rolls, pwr, dev, dbg, monU, monM, fabrics, keeper, outs⟩ j = s.storesOf j := storesOf_of_cores rfl

@[simp] theorem storesOf_ite {p : Prop} [Decidable p] :
    (if p then s else t).storesOf j = if p then s.storesOf j else t.storesOf j := apply_ite (fun u => u.storesOf j) p s t

theorem storesOf_foldl {α : Type} {f : State → α → State} (hf : ∀ t x, (f t x).storesOf j = t.storesOf j) (l : List α) :
    (l.foldl f s).storesOf j = s.storesOf j := by
  induction l generalizing s with
  | nil => rfl
  | cons x l ih => rw [List.foldl_cons, ih, hf]

end

/-! ### Tables, queues and logs -/

section
variable {s : State} {j : Nat}

@[simp] theorem storesOf_setRgn (n : Nat) (r : Region) : (s.setRgn n r).storesOf j = s.storesOf j := storesOf_of_cores rfl
@[simp] theorem storesOf_onRgn (n : Nat) (f : Region → Region) : (s.onRgn n f).storesOf j = s.storesOf j := storesOf_of_cores rfl
@[simp] theorem storesOf_setChan (n : Nat) (d : Dma) : (s.setChan n d).storesOf j = s.storesOf j := storesOf_of_cores rfl
@[simp] theorem storesOf_setPort (p : Nat) (x : Port) : (s.setPort p x).storesOf j = s.storesOf j := storesOf_of_cores rfl
@[simp] theorem storesOf_setTmr (n : Nat) (x : Timer) : (s.setTmr n x).storesOf j = s.storesOf j := storesOf_of_cores rfl
@[simp] theorem storesOf_draw (w : Nat) : (s.draw w).2.storesOf j = s.storesOf j := storesOf_of_cores rfl
@[simp] theorem storesOf_keeperIrq (i : KeeperIrq) : (s.keeperIrq i).storesOf j = s.storesOf j := storesOf_of_cores rfl
@[simp] theorem storesOf_putStored (a row : Nat) (x : BitVec 31) : (s.putStored a row x).storesOf j = s.storesOf j :=
  storesOf_of_cores rfl
@[simp] theorem storesOf_putBlock (h b : Nat) (x : BitVec 512) : (s.putBlock h b x).storesOf j = s.storesOf j :=
  storesOf_of_cores rfl
@[simp] theorem storesOf_writeStore (a : Nat) (l : Loc) (v : Word) : (s.writeStore a l v).storesOf j = s.storesOf j :=
  storesOf_of_cores rfl
@[simp] theorem storesOf_setCb (c w : Nat) (v : Word) : (s.setCb c w v).storesOf j = s.storesOf j := storesOf_of_cores rfl
@[simp] theorem storesOf_hostErr (b a : Nat) : (s.hostErr b a).storesOf j = s.storesOf j := storesOf_of_cores rfl
@[simp] theorem storesOf_setRes (b r : Nat) : (s.setRes b r).storesOf j = s.storesOf j := storesOf_of_cores rfl
@[simp] theorem storesOf_setRollSt (i st : Nat) (q : Option (BitVec 7)) : (s.setRollSt i st q).storesOf j = s.storesOf j := by
  simp [State.setRollSt]
@[simp] theorem storesOf_setStat (b x r : Nat) : (s.setStat b x r).storesOf j = s.storesOf j := storesOf_of_cores rfl
@[simp] theorem storesOf_countIn (v : Word) : (s.countIn v).storesOf j = s.storesOf j := storesOf_of_cores rfl
@[simp] theorem storesOf_countOut (v : Word) : (s.countOut v).storesOf j = s.storesOf j := storesOf_of_cores rfl
@[simp] theorem storesOf_enqueue (c : Nat) (head : Bool) : (s.enqueue c head).storesOf j = s.storesOf j := storesOf_of_cores rfl
@[simp] theorem storesOf_dequeue (c : Nat) : (s.dequeue c).storesOf j = s.storesOf j := storesOf_of_cores rfl
@[simp] theorem storesOf_forgetWait (c : Nat) : (s.forgetWait c).storesOf j = s.storesOf j := storesOf_of_cores rfl
@[simp] theorem storesOf_hold (h : HeldCmd) (x : Nat) : (s.hold h x).storesOf j = s.storesOf j := storesOf_of_cores rfl
@[simp] theorem storesOf_deliver (d : Delivery) : (s.deliver d).storesOf j = s.storesOf j := storesOf_of_cores rfl
@[simp] theorem storesOf_queueBosum (p : Nat) (f : BosumFrame) : (s.queueBosum p f).storesOf j = s.storesOf j :=
  storesOf_of_cores rfl

@[simp] theorem storesOf_logAt (kind : Nat) (who : LogWho) (a : Nat) (l : Loc) (syn : Word) :
    (s.logAt kind who a l syn).storesOf j = s.storesOf j := ((Unwritten.refl s).logAt ..).storesOf

@[simp] theorem storesOf_logEvent (kind mem num : Nat) (who : LogWho) (a : Nat) (syn : Word) (sq : Nat) :
    (s.logEvent kind mem num who a syn sq).storesOf j = s.storesOf j := by simp [State.logEvent]

@[simp] theorem storesOf_msixSend (v : Nat) : (s.msixSend v).storesOf j = s.storesOf j := by simp [State.msixSend]

@[simp] theorem storesOf_hostIrq (n : Nat) : (s.hostIrq n).storesOf j = s.storesOf j := by simp [State.hostIrq]

@[simp] theorem storesOf_onPort (p : Nat) (f : Port → Port) : (s.onPort p f).storesOf j = s.storesOf j := by simp [State.onPort]

@[simp] theorem storesOf_recount (old new : Word) : (s.recount old new).storesOf j = s.storesOf j := by simp [State.recount]

@[simp] theorem storesOf_ctxWriteWord (a off : Nat) (v : Word) : (s.ctxWriteWord a off v).storesOf j = s.storesOf j := by
  simp [State.ctxWriteWord]

/-! ### HBM -/

theorem storesOf_hbmRmw (who : LogWho) (h b w : Nat) (ws : List Word) : (s.hbmRmw who h b w ws).1.storesOf j = s.storesOf j := by
  have read := ((Unwritten.refl s).readBlock who h b (blockAddr h b + w) false).storesOf (j := j)
  unfold State.hbmRmw
  dsimp only
  split
  · exact read
  · exact read

@[simp] theorem storesOf_hbmWrite (who : LogWho) (h n off : Nat) (ws : List Word) :
    (s.hbmWrite who h n off ws).1.storesOf j = s.storesOf j := by
  induction n generalizing s off ws with
  | zero => rfl
  | succ n ih =>
    cases ws with
    | nil => rfl
    | cons v vs =>
      unfold State.hbmWrite
      extract_lets b w here rest r
      have block : r.1.storesOf j = s.storesOf j := by
        unfold r
        split
        · rfl
        · exact storesOf_hbmRmw ..
      have later := (ih (s := r.1) (off + here.length) rest).trans block
      split
      · exact block
      · split
        next e => rwa [e] at later
        next e => rwa [e] at later

/-! ### The scheduler (R188-R201) -/

theorem storesOf_of_cbRead {t : State} {who : LogWho} {c w : Nat} {x : Option Word} (e : s.cbRead who c w = (t, x)) :
    t.storesOf j = s.storesOf j := by
  have read := ((Unwritten.refl s).readSram who (cbAddr c w) (.ctx (32 * c + w))).storesOf (j := j)
  unfold State.cbRead at e
  split at e
  all_goals
    next h =>
      cases e
      rwa [h] at read

@[simp] theorem storesOf_setCtxState (c st : Nat) : (s.setCtxState c st).storesOf j = s.storesOf j := by
  unfold State.setCtxState
  split
  next e => simp [storesOf_of_cbRead e]
  next e => exact storesOf_of_cbRead e

@[simp] theorem storesOf_setFcause (c f : Nat) : (s.setFcause c f).storesOf j = s.storesOf j := by
  unfold State.setFcause
  split
  next e => simp [storesOf_of_cbRead e]
  next e => exact storesOf_of_cbRead e

@[simp] theorem storesOf_zeroBlock (c n : Nat) : (s.zeroBlock c n).storesOf j = s.storesOf j := by
  induction n with
  | zero => rfl
  | succ n ih => exact ih

@[simp] theorem storesOf_toDormant (c : Nat) : (s.toDormant c).storesOf j = s.storesOf j := by simp [State.toDormant]

/-- A request for preemption sets where the groups stop. -/
@[simp] theorem storesOf_requestPreempt (k : Nat) (why : LeaveKind) : (s.requestPreempt k why).storesOf j = s.storesOf j :=
  storesOf_onCore fun _ => Core.stores_setStop

@[simp] theorem storesOf_preemptFor (c : Nat) : (s.preemptFor c).storesOf j = s.storesOf j := by
  unfold State.preemptFor
  dsimp only
  split
  · rfl
  · split
    · exact storesOf_requestPreempt ..
    · rfl

@[simp] theorem storesOf_toReady (c : Nat) (head : Bool) : (s.toReady c head).storesOf j = s.storesOf j := by simp [State.toReady]

@[simp] theorem storesOf_setCause (c k st : Nat) : (s.setCause c k st).storesOf j = s.storesOf j := by
  unfold State.setCause
  split
  next e => exact storesOf_of_cbRead e
  next e => simp [storesOf_of_cbRead e]

@[simp] theorem storesOf_mergeCause (c k : Nat) : (s.mergeCause c k).storesOf j = s.storesOf j := by
  unfold State.mergeCause
  split
  next e => exact storesOf_of_cbRead e
  next e => simp [storesOf_of_cbRead e]

@[simp] theorem storesOf_wakeCtx (c k : Nat) : (s.wakeCtx c k).storesOf j = s.storesOf j := by
  unfold State.wakeCtx
  split
  next e => exact storesOf_of_cbRead e
  next e => simp [storesOf_of_cbRead e]

@[simp] theorem storesOf_doCmd (b : Nat) (op : BitVec 4) (c : Nat) : (s.doCmd b op c).storesOf j = s.storesOf j := by
  unfold State.doCmd
  split
  next e => simp [storesOf_of_cbRead e]
  next e =>
    have read := storesOf_of_cbRead (j := j) e
    dsimp only
    repeat' split
    all_goals simp [read]

@[simp] theorem storesOf_ctxCmd (b : Nat) (op : BitVec 4) : (s.ctxCmd b op).storesOf j = s.storesOf j := by simp [State.ctxCmd]

@[simp] theorem storesOf_ctxWrite (b off : Nat) (v : Word) : (s.ctxWrite b off v).storesOf j = s.storesOf j := by
  unfold State.ctxWrite
  dsimp only
  split
  case h_4 =>
    split
    · split <;> rfl
    · rfl
  all_goals simp

/-! ### The register blocks (R22) -/

@[simp] theorem storesOf_pwrWrite (who : Master) (off : Nat) (v : Word) : (s.pwrWrite who off v).storesOf j = s.storesOf j := by
  unfold State.pwrWrite
  dsimp only
  split <;> simp [State.pwrReq]

@[simp] theorem storesOf_presentRead (n : Nat) (d : Dma) : (s.presentRead n d).storesOf j = s.storesOf j := by
  unfold State.presentRead
  dsimp only
  split <;> simp

@[simp] theorem storesOf_presentReads (n m : Nat) : (s.presentReads n m).storesOf j = s.storesOf j := by
  induction m generalizing s with
  | zero => rfl
  | succ m ih => simp [State.presentReads, ih]

@[simp] theorem storesOf_promote (n : Nat) (st : DmaState) : (s.promote n st).storesOf j = s.storesOf j := by
  simp [State.promote, State.promoted, State.readOn]

@[simp] theorem storesOf_dmaTrigger (n : Nat) : (s.dmaTrigger n).storesOf j = s.storesOf j := by
  unfold State.dmaTrigger
  dsimp only
  split <;> simp [State.readOn]

@[simp] theorem storesOf_dmaHalt (n : Nat) : (s.dmaHalt n).storesOf j = s.storesOf j := by
  simp [State.dmaHalt, State.dmaNotify]

@[simp] theorem storesOf_abortWrites (n : Nat) : (s.abortWrites n).storesOf j = s.storesOf j := by
  unfold State.abortWrites
  dsimp only
  split
  · rfl
  · split <;> simp

@[simp] theorem storesOf_dmaKill (n : Nat) : (s.dmaKill n).storesOf j = s.storesOf j := by simp [State.dmaKill]

/-- A command to a channel: its bits act one after another. -/
@[simp] theorem storesOf_dmaCmd (n : Nat) (v : Word) (mayKill : Bool) : (s.dmaCmd n v mayKill).storesOf j = s.storesOf j := by
  unfold State.dmaCmd
  extract_lets killed _ _ idle _ _ stopped
  have afterKill : killed.storesOf j = s.storesOf j := by simp [killed]
  have afterIdle : idle.storesOf j = s.storesOf j := by simp [idle, afterKill]
  have afterStop : stopped.storesOf j = s.storesOf j := by
    unfold stopped
    repeat' split
    all_goals simp [afterIdle]
  simp [afterStop]

@[simp] theorem storesOf_dmaRegWrite (n off : Nat) (v : Word) (mayKill : Bool) :
    (s.dmaRegWrite n off v mayKill).storesOf j = s.storesOf j := by
  unfold State.dmaRegWrite
  dsimp only
  split
  · rfl
  · split <;> simp

@[simp] theorem storesOf_portOff (p : Nat) : (s.portOff p).storesOf j = s.storesOf j := by
  simp [State.portOff, State.bosumDown]

@[simp] theorem storesOf_writeLnkCtl (p : Nat) (v : Word) : (s.writeLnkCtl p v).storesOf j = s.storesOf j := by
  simp [State.writeLnkCtl]

@[simp] theorem storesOf_portWrite (p off : Nat) (v : Word) : (s.portWrite p off v).storesOf j = s.storesOf j := by
  unfold State.portWrite
  split <;> simp

@[simp] theorem storesOf_freeBuf (b : Option (Nat × Bool × Nat)) : (s.freeBuf b).storesOf j = s.storesOf j := by
  unfold State.freeBuf
  split <;> simp

/-- A frame routed, as TXSIG does: a signal for this device sets a cause of a context. -/
@[simp] theorem storesOf_routeFrame (f : BosumFrame) (origin : Bool) (port : Nat) (buf : Option (Nat × Bool × Nat)) :
    (s.routeFrame f origin port buf).storesOf j = s.storesOf j := by simp [State.routeFrame]

@[simp] theorem storesOf_lnkWrite (who : Master) (b off : Nat) (v : Word) : (s.lnkWrite who b off v).storesOf j = s.storesOf j := by
  unfold State.lnkWrite
  dsimp only
  split
  · simp
  · split <;> simp [State.txSig, State.ftIdx, State.ftWr]

@[simp] theorem storesOf_ptpWrite (off : Nat) (v : Word) : (s.ptpWrite off v).storesOf j = s.storesOf j := by
  unfold State.ptpWrite
  dsimp only
  split
  · simp
  · split <;> simp [State.writePtpCtl]

@[simp] theorem storesOf_intWrite (who : Master) (off : Nat) (v : Word) : (s.intWrite who off v).storesOf j = s.storesOf j := by
  unfold State.intWrite
  dsimp only
  split <;> simp [State.ledgerWrite, State.ledgerErase]

@[simp] theorem storesOf_rollCmd (b kind n : Nat) : (s.rollCmd b kind n).storesOf j = s.storesOf j := by
  have rolling : ((s.setRollSt (rollIdx 1 n) 1 none).onCore n (fun c => { c with rolling := true })).storesOf j = s.storesOf j :=
    (storesOf_onCore (f := fun c => { c with rolling := true }) fun _ => Core.stores_eq rfl rfl).trans (storesOf_setRollSt ..)
  simp [State.rollCmd, State.startRegionRoll, State.startClusterRoll, State.wakeRegion, rolling]

@[simp] theorem storesOf_dbgWrite (off : Nat) (v : Word) : (s.dbgWrite off v).storesOf j = s.storesOf j := by
  unfold State.dbgWrite
  dsimp only
  split <;> simp [State.dbgStart]

@[simp] theorem storesOf_functionReset : s.functionReset.storesOf j = s.storesOf j := by
  unfold State.functionReset
  exact storesOf_foldl (fun t n => by simp) ..

@[simp] theorem storesOf_hostRegWrite (who : Master) (off : Nat) (v : Word) :
    (s.hostRegWrite who off v).storesOf j = s.storesOf j := by
  unfold State.hostRegWrite
  dsimp only
  split <;> simp [State.writeHostCtl, State.writeH2k, State.writeK2h]

@[simp] theorem storesOf_updateLow (n : Nat) : (s.updateLow n).storesOf j = s.storesOf j := by simp [State.updateLow]

@[simp] theorem storesOf_castleGo (n : Nat) (q : BitVec 7) : (s.castleGo n q).storesOf j = s.storesOf j := by
  unfold State.castleGo
  dsimp only
  repeat' split
  all_goals simp

@[simp] theorem storesOf_writeRgnCtl (n : Nat) (v : Word) : (s.writeRgnCtl n v).storesOf j = s.storesOf j := by
  unfold State.writeRgnCtl
  extract_lets d p u
  have drawn : p.2.storesOf j = s.storesOf j := by
    unfold p
    split <;> simp [d]
  simp [u, State.wakeRegion, drawn]

@[simp] theorem storesOf_rgnWrite (n off : Nat) (v : Word) : (s.rgnWrite n off v).storesOf j = s.storesOf j := by
  unfold State.rgnWrite
  split <;> simp [State.writeSpare]

/-- A register written by any master. -/
@[simp] theorem storesOf_regPut (who : Master) (off : Nat) (v : Word) : (s.regPut who off v).storesOf j = s.storesOf j := by
  unfold State.regPut
  dsimp only
  split
  case h_12 => exact storesOf_onCore fun _ => Core.stores_regWrite ..
  all_goals simp

@[simp] theorem storesOf_regFree (who : Master) (off : Nat) (x : Word) : (s.regFree who off x).storesOf j = s.storesOf j := by
  unfold State.regFree
  split <;> simp

@[simp] theorem storesOf_regWrite (who : Master) (off : Nat) (v : Word) : (s.regWrite who off v).storesOf j = s.storesOf j := by
  simp [State.regWrite]

end

/-! ### What reading leaves, registers included (R27, R175, R216, R284) -/

section
variable {s t : State} {k : Nat}

theorem Unwritten.busGate (h : Unwritten s t) (who : Master) (a : Nat) : Unwritten s (t.busGate who a).state := by
  unfold State.busGate
  split
  · split
    · exact h.logAt ..
    · split
      · exact h.logAt ..
      · exact h
  · exact h.gate ..

theorem Unwritten.of_busGate {u : State} {who : Master} {a : Nat} (h : Unwritten s t)
    (e : t.busGate who a = .go u ∨ t.busGate who a = .wait u ∨ t.busGate who a = .refuse u) : Unwritten s u :=
  .of_gate e (h.busGate who a)

theorem Unwritten.waits {u : State} {who : Master} {l : List Nat} (h : Unwritten s t) (e : t.waits who l = some u) :
    Unwritten s u := by
  obtain ⟨a, -, found⟩ := List.exists_of_findSome?_eq_some e
  split at found
  next w => cases found; exact h.of_busGate (.inr (.inl w))
  next => cases found

theorem unwritten_of_map {α : Type} {o : Option α} {r : State × α} (e : o.map (fun x => (s, x)) = some r) :
    Unwritten s r.1 := by
  obtain ⟨x, -, rfl⟩ := Option.map_eq_some_iff.mp e
  exact .refl s

theorem unwritten_pwrReg {b off : Nat} {r : State × Word} (e : s.pwrReg b off = some r) : Unwritten s r.1 := by
  unfold State.pwrReg at e
  dsimp only at e
  split at e <;> cases e <;> exact ⟨rfl, rfl⟩

theorem unwritten_dbgReg {off : Nat} {r : State × Word} (e : s.dbgReg off = some r) : Unwritten s r.1 := by
  unfold State.dbgReg State.dbgStart at e
  dsimp only at e
  split at e <;> cases e
  case h_3 => split <;> exact ⟨rfl, rfl⟩
  all_goals exact .refl s

theorem unwritten_ptpReg {b off : Nat} {r : State × Word} (e : s.ptpReg b off = some r) : Unwritten s r.1 := by
  unfold State.ptpReg at e
  dsimp only at e
  split at e
  · cases e
    unfold State.readTod
    split <;> exact ⟨rfl, rfl⟩
  · repeat' split at e
    all_goals cases e <;> exact .refl s

theorem unwritten_intReg {off : Nat} {r : State × Word} (e : s.intReg off = some r) : Unwritten s r.1 := by
  unfold State.intReg at e
  dsimp only at e
  repeat' split at e
  all_goals cases e <;> exact ⟨rfl, rfl⟩

theorem unwritten_rgnReg {n off : Nat} {r : State × Word} (e : s.rgnReg n off = some r) : Unwritten s r.1 := by
  unfold State.rgnReg at e
  dsimp only at e
  repeat' split at e
  all_goals cases e <;> exact .refl s

theorem unwritten_regRead {who : Master} {off : Nat} {r : State × Word} (e : s.regRead who off = some r) : Unwritten s r.1 := by
  unfold State.regRead at e
  dsimp only at e
  split at e
  case h_2 => exact unwritten_pwrReg e
  case h_6 => exact unwritten_ptpReg e
  case h_7 => exact unwritten_intReg e
  case h_9 =>
    split at e
    · exact unwritten_dbgReg e
    · cases e
  case h_11 => exact unwritten_rgnReg e
  case h_13 => cases e
  all_goals exact unwritten_of_map e

theorem Unwritten.trans {u : State} (h : Unwritten s t) (g : Unwritten t u) : Unwritten s u :=
  ⟨g.cores.trans h.cores, g.mem.trans h.mem⟩

theorem Unwritten.readWords (h : Unwritten s t) (who : Master) (l : List Nat) (prev : Option Nat) :
    Unwritten s (t.readWords who l prev).1 := by
  induction l generalizing t prev with
  | nil => exact h
  | cons a l ih =>
    unfold State.readWords
    split
    next u e => exact h.of_busGate (.inr (.inl e))
    next u e => exact h.of_busGate (.inr (.inr e))
    next u go =>
      extract_lets r
      have read : Unwritten s r.1 := by
        have passed := h.of_busGate (.inl go)
        unfold r
        split
        · split
          next e => exact passed.trans (unwritten_regRead e)
          next => exact passed
        · exact passed.readLoc ..
        · exact passed.readLoc ..
      clear_value r
      split
      next => exact read
      next =>
        have rest := ih read (some a)
        split
        next e => exact .of_fst e rest
        next e => exact .of_fst e rest

/-- The state of a read. -/
def Rd.state : Rd → State
  | .hold t => t
  | .got t _ => t

theorem Unwritten.readAll (h : Unwritten s t) (who : Master) (l : List Nat) : Unwritten s (t.readAll who l).state := by
  unfold State.readAll
  split
  next e => exact h.waits e
  next => exact h.readWords ..

theorem Unwritten.readMixed (h : Unwritten s t) (who : Master) (l : List Nat) : Unwritten s (t.readMixed who l).state := by
  have others := h.readAll who (l.filter (fun a => !t.isReg a))
  unfold State.readMixed
  split
  next e => rwa [e] at others
  next e => rwa [e] at others
  next u xs e =>
    rw [e] at others
    have registers := Unwritten.readWords (t := u) others who (l.filter u.isReg) none
    split
    next r => exact .of_fst r registers
    next r => exact .of_fst r registers

/-- A load read sets a reservation at most. -/
theorem storesOf_readLoad {j : Nat} (l : PendLoad) : (s.readLoad k l).state.storesOf j = s.storesOf j := by
  have read := ((Unwritten.refl s).readMixed (.core k) l.addrs).storesOf (j := j)
  unfold State.readLoad
  split
  · rfl
  · split
    next e => rwa [e] at read
    next e => rwa [e] at read
    next u ws e =>
      rw [e] at read
      have reserved : (u.onCore k (fun c => { c with resv := l.addrs.head? })).storesOf j = u.storesOf j :=
        storesOf_onCore fun _ => Core.stores_eq rfl rfl
      simp only [Rd.state, storesOf_ite, reserved, ite_self]
      exact read

theorem storesOf_captured {j : Nat} (p : PendLoad → Bool) (l : List PendLoad) :
    (s.captured k p l).1.storesOf j = s.storesOf j := by
  induction l generalizing s with
  | nil => rfl
  | cons x l ih =>
    unfold State.captured
    refine (ih ..).trans ?_
    have read := storesOf_readLoad (s := s) (k := k) (j := j) x
    split
    · split
      next e => rwa [e] at read
      next e => rwa [e] at read
    · rfl

theorem storesOf_captureLoads {j : Nat} {p : PendLoad → Bool} (e : s.captureLoads k p = .done t) :
    t.storesOf j = s.storesOf j := by
  unfold State.captureLoads at e
  dsimp only at e
  split at e
  · cases e
  · cases e
    exact Eq.trans (storesOf_onCore fun _ => Core.stores_eq rfl rfl) (storesOf_captured ..)

end

/-! ### A word written to a board clears reservations (R233)

The table of cores need not be canonical here: a bound core is not the default one, so that it stays in the table. -/

section
variable {s : State} {j x : Nat} {b : List SbEntry}

theorem storesOf_clearResv (h : s.storesOf j = (b, some x)) (a : Nat) : (s.clearResv a).storesOf j = (b, some x) := by
  obtain ⟨r, e⟩ := (s.core j).dropResv_eq a
  have same : ((s.core j).dropResv a).stores = (b, some x) := by rw [e]; exact h
  have bound : (s.core j).dropResv a ≠ {} := fun h => by rw [h] at same; cases same
  rw [State.storesOf, State.core, cores_clearResv]
  exact (congrArg Core.stores (SMap.get_map_of_ne (f := fun _ c => c.dropResv a) (fun _ => rfl) bound)).trans same

theorem storesOf_writeBoard (h : s.storesOf j = (b, some x)) (n off : Nat) (v : Word) (slot015 : Bool) :
    (s.writeBoard n off v slot015).storesOf j = (b, some x) := by
  rw [← storesOf_clearResv h (0x800000 * n + off)]
  refine storesOf_of_cores ?_
  rw [cores_writeBoard]

theorem storesOf_scramble (h : s.storesOf j = (b, some x)) (l : List Nat) : (s.scramble l).storesOf j = (b, some x) := by
  induction l generalizing s with
  | nil => exact h
  | cons a l ih =>
    unfold State.scramble
    refine ih ?_
    split
    · exact storesOf_writeBoard ((storesOf_draw 20).trans h) ..
    · exact (storesOf_draw 20).trans h

theorem storesOf_freeLanes (k : Nat) (l : List Nat) : (s.freeLanes k l).storesOf j = s.storesOf j := by
  induction l generalizing s with
  | nil => rfl
  | cons i l ih =>
    unfold State.freeLanes
    exact (ih ..).trans (Eq.trans (storesOf_onCore fun _ => Core.stores_eq rfl rfl) (storesOf_draw 48))

/-- A coefficient in use that changes marks the groups that use it (R132). -/
theorem storesOf_coefWritten (h : s.storesOf j = (b, some x)) (l : Loc) : (s.coefWritten l).storesOf j = (b, some x) := by
  unfold State.coefWritten
  split
  · dsimp only
    split
    · exact h
    · rw [storesOf_freeLanes]
      refine storesOf_scramble ?_ _
      exact Eq.trans (storesOf_onCore fun _ => Core.stores_eq rfl rfl) h
  · exact h

theorem storesOf_writeLoc (h : s.storesOf j = (b, some x)) (a : Nat) (l : Loc) (v : Word) :
    (s.writeLoc a l v).storesOf j = (b, some x) := by
  unfold State.writeLoc
  split
  case h_1 => exact storesOf_writeBoard h ..
  case h_2 => exact (storesOf_writeStore ..).trans h
  case h_3 => exact storesOf_coefWritten ((storesOf_writeStore ..).trans h) _
  all_goals exact h

theorem storesOf_putWord (h : s.storesOf j = (b, some x)) (who : Master) (a : Nat) (v : Word) :
    (s.putWord who a v).1.storesOf j = (b, some x) := by
  unfold State.putWord
  split
  case h_1 => exact (storesOf_regWrite ..).trans h
  case h_2 => exact (storesOf_hbmWrite ..).trans h
  case h_3 => exact (storesOf_ctxWriteWord ..).trans h
  case h_4 => exact storesOf_writeLoc h ..

theorem storesOf_putList (h : s.storesOf j = (b, some x)) (who : Master) (l : List Nat) (ws : List Word) :
    (s.putList who l ws).storesOf j = (b, some x) := by
  induction l generalizing s ws with
  | nil => exact h
  | cons a l ih =>
    cases ws with
    | nil => exact h
    | cons v ws => exact ih (storesOf_putWord h ..) ws

/-! ### The store buffer drains (R220) -/

theorem storesOf_refused (k a : Nat) (e : BusErr) : (s.onCore k (fun c => c.refused a e)).storesOf j = s.storesOf j :=
  storesOf_onCore fun _ => by unfold Core.refused; split <;> rfl

/-- Performing the oldest store takes it out of the buffer and puts nothing in. -/
theorem storesOf_performStore {t : State} {e : SbEntry} (h : s.storesOf j = (e :: b, some x)) (done : s.performStore j = .done t) :
    t.storesOf j = (b, some x) := by
  have buffer : (s.core j).sbuf = e :: b := congrArg Prod.fst h
  unfold State.performStore at done
  rw [buffer] at done
  dsimp only at done
  split at done
  · cases done
  · split at done
    · cases done
    next u captured =>
      have bound : (u.core j).bound = some x := congrArg Prod.snd ((storesOf_captureLoads captured).trans h)
      generalize taking : u.onCore j _ = w at done
      have taken : w.storesOf j = (b, some x) := by
        rw [← taking, State.storesOf, State.core_onCore]
        exact Prod.ext rfl bound
      split at done
      next v a refused =>
        cases done
        obtain ⟨a, -, found⟩ := List.exists_of_findSome?_eq_some refused
        split at found
        next gate =>
          cases found
          rw [storesOf_refused]
          exact ((Unwritten.refl w).of_busGate (.inr (.inr gate))).storesOf.trans taken
        next => cases found
      next =>
        generalize gates : e.addrs.foldl _ w = v at done
        have passed : v.storesOf j = (b, some x) := by
          rw [← gates]
          refine Eq.trans (storesOf_foldl (fun t a => ?_) _) taken
          split
          next gate => exact ((Unwritten.refl t).of_busGate (.inl gate)).storesOf
          next => rfl
        split at done
        next h o _ =>
          have written := (storesOf_hbmWrite (1, j) h e.ws.length o e.ws).trans passed
          split at done
          next eq =>
            cases done
            rwa [eq] at written
          next eq =>
            cases done
            rw [eq] at written
            rwa [storesOf_refused]
        next =>
          cases done
          exact storesOf_putList passed ..

/-- As many stores performed as the buffer holds leave it empty. -/
theorem storesOf_drainWhile {t : State} (h : s.storesOf j = (b, some x))
    (done : s.drainWhile j (fun l => l != []) b.length = .done t) : t.storesOf j = ([], some x) := by
  induction b generalizing s with
  | nil =>
    cases done
    exact h
  | cons e b ih =>
    have buffer : (s.core j).sbuf = e :: b := congrArg Prod.fst h
    rw [List.length_cons, State.drainWhile, buffer, if_pos (show (e :: b != []) = true from rfl)] at done
    split at done
    · cases done
    next u performed => exact ih (storesOf_performStore h performed) done

theorem sbuf_drainStores {t : State} (bound : (s.core j).bound.isSome = true) (done : s.drainStores j = .done t) :
    (t.core j).sbuf = [] := by
  obtain ⟨x, hx⟩ := Option.isSome_iff_exists.mp bound
  have before : s.storesOf j = ((s.core j).sbuf, some x) := Prod.ext rfl hx
  exact congrArg Prod.fst (storesOf_drainWhile before done)

end

/-! ### The barriers -/

section
variable {s : State} {k : Nat} {c : Core}

/-- A core at work is one of the device's and runs a context. -/
theorem on_bound_of_atWork (h : s.atWork k = true) : s.clusterOn k = true ∧ (s.core k).bound.isSome = true := by
  unfold State.atWork at h
  simp only [Bool.and_eq_true] at h
  obtain ⟨⟨⟨⟨⟨on, bound⟩, -⟩, -⟩, -⟩, -⟩ := h
  exact ⟨on, bound⟩

theorem nothing_retire (len : Nat) : Nothing c (c.retire len) :=
  ⟨c.retire_cst len, c.retire_vmode len, c.retire_fmode len, Frame_retire c len⟩

theorem sysKept_jump (len : Nat) (target : Dbl) : SysKept c (c.jump len target) := by
  constructor
  case mul => exact fun h => by simpa [Core.jump, Core.pass] using c.ageMstart_mul h
  all_goals simp [Core.jump]

theorem nothing_jump (len : Nat) (target : Dbl) : Nothing c (c.jump len target) := by
  refine ⟨?_, ?_, ?_, ?_⟩
  case refine_4 =>
    constructor
    case sys => exact sysKept_jump len target
    all_goals simp [Core.jump]
  all_goals simp [Core.jump]

/-- The lines of the fetch buffer and the wait of a VBAR are no registers. -/
theorem nothing_withFetch {e : Core} (h : Nothing c e) (wait : Bool) (lines : List FLine) (old : List Stale) :
    Nothing c { e with vbar := wait, fbuf := lines, stale := old } := by
  obtain ⟨cst, vmode, fmode, w, a, f, am, t, ac, sys⟩ := h
  exact ⟨cst, vmode, fmode, w, a, f, am, t, ac, { sys with }⟩

theorem Core.ageMstart_withVbar (wait : Bool) : ({ c with vbar := wait } : Core).ageMstart = { c.ageMstart with vbar := wait } := by
  unfold Core.ageMstart
  dsimp only
  split
  · rfl
  · split <;> rfl

theorem Core.retire_withVbar (wait : Bool) (len : Nat) :
    ({ c with vbar := wait } : Core).retire len = { c.retire len with vbar := wait } := by
  unfold Core.retire Core.pass
  rw [Core.ageMstart_withVbar]

theorem execNop_gives (ready : Ready s k) : Gives s k 1 (execNop k s) (Nothing (s.core k)) := by
  unfold execNop
  rw [State.instr_ready ready]
  exact ⟨_, rfl, Core.retire_pc _ 1 ready.2.2, nothing_retire 1⟩

theorem drained1_of_done {t : State} (stores : s.drainStores k = .done t) (body : State → Out) : s.drained1 k body = body t := by
  rw [State.drained1, stores]

theorem execSync_drained {t : State} (ready : Ready s k) (stores : s.drainStores k = .done t) :
    execSync k s = .next (t.setCore k ((t.core k).retire 1)) := by
  rw [execSync, State.instr_ready ready, drained1_of_done stores]
  rfl

theorem execIsync_drained {t : State} (ready : Ready s k) (stores : s.drainStores k = .done t) :
    execIsync k s = .next (t.setCore k { (t.core k).jump 1 ((t.core k).pc + 1) with fbuf := [], stale := [] }) := by
  rw [execIsync, State.instr_ready ready, drained1_of_done stores]
  rfl

theorem execVbar_gives (ready : Ready s k) (victim : (s.core k).victim = false) (groups : (s.core k).groups = [])
    (pend : (s.core k).vfc.getLsbD 18 = false) : Gives s k 1 (execVbar k s) (Nothing (s.core k)) := by
  rw [execVbar, State.instr_ready ready, afterGroups_of_idle victim groups pend]
  exact ⟨_, rfl, Core.retire_pc _ 1 ready.2.2, nothing_retire 1⟩

theorem execVbar_waits (ready : Ready s k) (victim : (s.core k).victim = false) (groups : (s.core k).groups ≠ []) :
    execVbar k s = .next (s.setCore k { s.core k with vbar := true }) := by
  rw [execVbar, State.instr_ready ready]
  simp only [State.afterGroups, victim, groups, bne_iff_ne, ne_eq, not_false_eq_true, if_true, Bool.false_eq_true, if_false]
  rfl

theorem execVbarCompletion_gives (on : s.clusterOn k = true) (work : s.atWork k = true) (waits : (s.core k).vbar = true)
    (rep : (s.core k).rep = none) (groups : (s.core k).groups = []) (pend : (s.core k).vfc.getLsbD 18 = false) :
    Gives s k 1 (execVbarCompletion k s) (fun e => Nothing (s.core k) e ∧ e.vbar = false) := by
  have notPend : (s.core k).pend = false := pend
  have runs : execVbarCompletion k s = s.done k (({ s.core k with vbar := false } : Core).retire 1) := by
    simp [execVbarCompletion, on, work, waits, groups, notPend]
  rw [runs, Core.retire_withVbar]
  exact ⟨_, rfl, Core.retire_pc _ 1 rep, nothing_withFetch (nothing_retire 1) false _ _, rfl⟩

/-- Settles O14, by the drain that leaves the store buffer empty and by what each barrier leaves of its core. -/
theorem barriers : Obligations.Barriers := by
  refine ⟨fun s s1 k ready => ⟨execNop_gives ready, fun stores rep => ?drained⟩, fun s k => ⟨?vbar, ?waits, ?completes⟩⟩
  case drained =>
    have empty : (s1.core k).sbuf = [] := sbuf_drainStores (on_bound_of_atWork ready.1).2 stores
    rw [exec_sync, exec_isync, execSync_drained ready stores, execIsync_drained ready stores]
    obtain ⟨jumped, -⟩ := (sysKept_jump (c := s1.core k) 1 ((s1.core k).pc + 1)).stores
    exact ⟨⟨_, rfl, Core.retire_pc _ 1 rep, (Core.retire_sbuf _ 1).trans empty, nothing_retire 1⟩,
      ⟨_, rfl, rfl, jumped.trans empty, rfl, nothing_withFetch (nothing_jump 1 _) _ [] []⟩⟩
  case vbar => exact execVbar_gives
  case waits => exact execVbar_waits
  case completes => exact fun work => execVbarCompletion_gives (on_bound_of_atWork work).1 work

end

end Sys2Proof.Machine
end
